-- ==== Sys2Proof/Word.lean ====
section
/-!
DEFINITION. The words of the machine: bit vectors of the widths the manual names, and nothing else.
Byte order, fields and sign extension stand in Machine/Bits.lean.
-/
namespace Sys2Proof

/-- A byte of memory (R7). -/
abbrev Byte := BitVec 8

/-- A scalar, address or control register (Table 1.1). -/
abbrev Word := BitVec 64

/-- One lane of a lane register, latch or result (Table 1.1). -/
abbrev Lane := BitVec 128

/-- One bundle of text (R77). -/
abbrev Bundle := BitVec 256

/-- One 40-bit slot of a bundle (R80). -/
abbrev SlotBits := BitVec 40

end Sys2Proof
end

