-- ==== Sys2Proof/Config.lean ====
section
/-!
DEFINITION. What the device fixes (the figures of Table 0.3 and the bounds the chapters state), and the free values:
constants with no body, for what the manual leaves open. A statement about a free value holds for every value of it.
-/
namespace Sys2Proof.Config

/-- A value the manual calls undefined (R9): the n-th one the machine meets. No body: any bit pattern. Log 8. -/
opaque freeBits : Nat → Lane

/-- A special function's FP32 result where Table 6.13 states only a bound: function code, operand. Log 9. -/
opaque sfValue : Nat → BitVec 32 → BitVec 32

/-- SHAKE256 with a 256-bit output (R279, R387, R389), a named standard the manual does not give. Log 10. -/
opaque shake256 : List Byte → BitVec 256

/-- SLH-DSA-SHAKE-256s verification (R279, R387, R407): public key, context string, message, signature. Log 10. -/
opaque slhVerify : BitVec 512 → String → List Byte → List Byte → Bool

/-- The signature the identity key of the module makes (R406): context string, message; its n-th byte. Log 10. -/
opaque identitySign : String → List Byte → Nat → Byte

/-- The signature of Krytavo in the certificate of the identity key (R406): context string, message; its n-th byte. Log 10. -/
opaque krytavoSign : String → List Byte → Nat → Byte

/-- The module's identity public key (R406). Log 10. -/
opaque identityKey : BitVec 512

/-- The operand bytes of a management command whose sizes Table 17.7 does not give: code, operands (R407). Log 66. -/
opaque mgmtOperands : Nat → List Nat → List Byte

/-- The module's serial number (R406). Log 10. -/
opaque serial : BitVec 128

/-- The operator list that the module leaves manufacture with (R407). Log 6. -/
opaque factoryOperators : List (BitVec 512)

/-- The root key digest held in the management ROM (Table 16.2). Log 10. -/
opaque rootDigest : BitVec 256

/-- Which of the usable routes a transaction takes: a hash the manual does not give (R382). Log 11. -/
opaque routeHash : Nat → Nat

/-- What a field of an entry of a container section reads as, where Table 9.3 names the field and gives no layout: section type, the section's bytes,
function number, field number. Log 17. -/
opaque sectionField : Nat → List Byte → Nat → Nat → Nat

/-- Bytes the driver's loader does not fix: container handles (R278). Log 12. -/
opaque handleOf : Nat → BitVec 32

/-- Where the driver's loader begins to look for a free area of virtual addresses, for a text, a data section or a scratch text, and for a free
64 KiB of physical memory (R278, R284, R287). Log 12. -/
opaque areaFrom : Nat → Nat
opaque unitFrom : Nat → Nat

/-- Linear cores of a package (R5). -/
def numCores : Nat := 640
/-- Resident slots of a core (R11). -/
def residentSlots : Nat := 16
/-- Bytes of an SLH-DSA-SHAKE-256s signature (R279, R387). -/
def sigBytes : Nat := 29792
/-- Walks that a tract runs at once (R370). -/
def tractWalks : Nat := 64
/-- Waves of the active set (R14). -/
def activePlaces : Nat := 8
/-- Wave registers of a core (R11). -/
def waveRegs : Nat := 1024
/-- Cycles of one microsecond: 1.05 GHz (R392). -/
def cyclesPerUs : Nat := 1050
/-- 2 ms in cycles (R148, R159). -/
def cycles2ms : Nat := 2100000
/-- 20 microseconds in cycles (R266). -/
def cycles20us : Nat := 21000
/-- 10 ms in cycles (R346). -/
def cycles10ms : Nat := 10500000
/-- Records of the SRAM window of a core's logs (R257). -/
def windowRecords : Nat := 2048
/-- Records of the spill area (R257). -/
def spillRecords : Nat := 131072
/-- Records that move from the window to the spill area as one unit (R257). -/
def spillUnit : Nat := 64
/-- Records a log-full drain applies (R259). -/
def drainRecords : Nat := 8192
/-- Places of a result queue (R27). -/
def resultPlaces : Nat := 8
/-- Commands of a wave's LD, ST, AT, LG or BA queue (R27). -/
def waveQueueDepth : Nat := 16
/-- Live stage barriers of a core (R168). -/
def maxBarriers : Nat := 64
/-- Bytes of one stack's HBM (R8, R365). -/
def stackBytes : Nat := 0xC00000000
/-- Bytes of a core's SRAM (R5). -/
def sramBytes : Nat := 0x100000
/-- Bytes of a scratchpad bank (R142). -/
def bankBytes : Nat := 32768
/-- Twin run-ahead limit in bundles and unconfirmed records (R322). -/
def twinBundles : Nat := 4096
def twinRecords : Nat := 256
/-- Compass positions of one revolution (R4). -/
def wheelPositions : Nat := 1024
/-- FPC at wave start (R60). -/
def fpcReset : Word := 0x5EED000100000000#64
/-- What a byte of HBM or SRAM that nothing has written reads as. The manual gives HBM none (R390). Log 4, Log 5. -/
def emptyByte : Byte := 0#8

end Sys2Proof.Config
end

