-- ==== Sys2Proof/Syntax.lean ====
section
/-!
DEFINITION. The instructions: one constructor for each row of spec/opcode_table.json. A row with an encoding is one move
of a bundle (R80); a row without one is an event of the device, its operands naming the agent and the data that comes from
outside.
-/
namespace Sys2Proof

/-- Element types, Table 2.1 (R48). -/
inductive ETy
  | f32 | bf16 | f16 | k8a | k8b | k6a | k6b | k4
  | s8 | n8 | s4 | n4 | s16 | n16 | s32 | n32 | s64 | n64
  | bfp2 | bfp3 | bfp4 | bfp5 | bfp6 | bfp7 | bfp8
  deriving DecidableEq, Repr

/-- Scope codes 0 to 6, Table 0.2 (R2). -/
inductive Scope
  | wave | party | sheet | tract | die | pkg | sys
  deriving DecidableEq, Repr

/-- Rounding codes, Table 2.7 (R62). -/
inductive Rm
  | rne | rtz | rup | rdn | sr | dyn
  deriving DecidableEq, Repr

/-- Conditions of SA.CMP (Table 3.11). -/
inductive SCond
  | eq | ne | lt | le | gt | ge
  deriving DecidableEq, Repr

/-- Conditions of FCMP (Table 3.8). -/
inductive FCond
  | eq | ne | lt | le | gt | ge | un | ord
  deriving DecidableEq, Repr

/-- The forms of FSGN (Table 3.8). -/
inductive SgnOp
  | abs | neg | nabs
  deriving DecidableEq, Repr

/-- Chain stages, Table 4.7 (R94). -/
inductive Stage
  | pass | add | sub | rsub | mulb | mulc | addc | max | min | abs | relu | clamp | rbf
  deriving DecidableEq, Repr

/-- Access sizes of LD and ST (Table 3.11). -/
inductive Sz
  | b1 | b2 | b4 | b8 | b16
  deriving DecidableEq, Repr

/-- Orders of an atomic (Table 3.11). -/
inductive AOrd
  | relaxed | release | acquire | sc
  deriving DecidableEq, Repr

/-- Width codes of an atomic (R95): 32 bits (FP32 for FADD), 64 bits, BF16. -/
inductive AtW
  | w32 | w64 | bf16
  deriving DecidableEq, Repr

/-- Units with operand ports, in the order of Table 3.6. -/
inductive PortUnit
  | ia0 | ia1 | sh | ml | fm0 | fm1 | ch | cv | xs | sa | ld | st | atm | lg | ba | mx | ga | sx | sf | ct | sy
  deriving DecidableEq, Repr

/-- Operand ports (R87). -/
inductive Latch
  | a | b | c
  deriving DecidableEq, Repr

/-- Readable specials, Table 3.5. -/
inductive RSpec
  | k (n : Nat)
  | exm | exs | rrb | lc | ec | fpc | ssig | bcnt | lane | wave | core | taskx | tasky
  deriving DecidableEq, Repr

/-- Writable specials, Table 3.5. -/
inductive WSpec
  | k (n : Nat)
  | rrb | lc | ec | fpc
  deriving DecidableEq, Repr

/-- Sources of a move, Table 3.3. A long immediate names the slot that holds it (R83). -/
inductive Src
  | v (n : Nat)
  | s (n : Nat)
  | a (n : Nat)
  | g (n : Nat)
  | port (u : PortUnit)
  | spec (r : RSpec)
  | limm (k : Nat)
  | imm (x : BitVec 10)
  deriving DecidableEq, Repr

/-- Register and writable-special destinations, Table 3.4. -/
inductive Dst
  | v (n : Nat)
  | s (n : Nat)
  | a (n : Nat)
  | g (n : Nat)
  | spec (r : WSpec)
  deriving DecidableEq, Repr

/-- What every move carries: its guard (R22) and its source. -/
structure Mv where
  inv : Bool
  gidx : Nat
  src : Src
  deriving DecidableEq, Repr

/-- A signed boot image (R387): the header's fields, the body and the signature. -/
structure Image where
  magic : BitVec 32
  kind : BitVec 8
  version : BitVec 32
  size : Nat
  load : Nat
  entry : Nat
  pubkey : BitVec 512
  body : List Byte
  sig : List Byte
  deriving DecidableEq, Repr

/-- One section of a container's directory (Table 9.2), with the bytes it names. -/
structure Section where
  typ : Nat
  gensel : Nat
  offset : Nat
  size : Nat
  bytes : List Byte
  reservedZero : Bool
  deriving DecidableEq, Repr

/-- One plan entry (Table 9.5). -/
structure PlanEntry where
  kind : Nat
  bank : Nat
  unitno : Nat
  offset : Nat
  bytes : Nat
  first : Nat
  last : Nat
  reservedZero : Bool
  deriving DecidableEq, Repr

/-- One declared role (R288): kind 0 copy, 1 matrix, 2 epilogue. -/
structure Role where
  kind : Nat
  regs : Nat
  waves : Nat
  deriving DecidableEq, Repr

/-- One function of a container: its entries of the FUNCS, PLAN, ROLES, WHEEL, ROUTES, CARRY, SEGTAB and BENCH sections. -/
structure Func where
  entry : Nat
  edition : Nat
  width : Nat
  eager : Bool
  launchable : Bool
  scratchPages : Nat
  roles : List Role
  plan : List PlanEntry
  wheel : Nat
  routes : List Nat
  carryV : List Nat
  carryS : List Nat
  carryA : List Nat
  segtab : List Nat
  bench : List (Nat × Nat)
  /-- the widths of the functions it can reach, found through the XREF links (R289) -/
  calleeWidths : List Nat
  /-- a portable level holds it (R283) -/
  translatable : Bool
  deriving DecidableEq, Repr

/-- A container: a byte image (R277). -/
structure Container where
  image : List Byte
  deriving DecidableEq, Repr

/-- What emdx brings to the load of a container (R283): the vocabularies it knows, as level and LVER; the functions all of whose nodes it knows, as level
and number; and the derived container that it writes. -/
structure Emdx where
  vers : List (Nat × Nat)
  nodes : List (Nat × Nat)
  derived : Option Container
  deriving DecidableEq, Repr

/-- A patch of the patch engine (R285): container, base edition, manifest (R279) and the replaced pages. -/
structure Patch where
  handle : BitVec 32
  base : Nat
  manifest : List Byte
  pages : List (Nat × List Byte)
  deriving DecidableEq, Repr

/-- What a signed management request carries after its operands (R407): the signature, and the key it is checked under. -/
structure Signed where
  key : BitVec 512
  sig : List Byte
  deriving DecidableEq, Repr

/-- Operation of an atomic (Table 5.5). -/
inductive AtOp
  | add | sub | min | max | minu | maxu | and | or | xor | xchg | cas | inc | fadd
  deriving DecidableEq, Repr

/-- An atomic request that a peer package sent to a home of this package (R159). -/
structure PeerAt where
  pkg : Nat
  core : Nat
  tag : Nat
  op : AtOp
  w : AtW
  pa : Nat
  /-- the request's lanes in increasing lane order: lane number and operand C -/
  lanes : List (Nat × Lane)
  /-- of an atomic with .sc, the stamp of its publication (R154, R269) -/
  sc : Option Nat
  deriving DecidableEq, Repr

/-- Which request an AT_HOME_PERFORM applies: the n-th performable of a wave's own, or a peer's. -/
inductive AtReq
  | own (wave n : Nat)
  | peer (r : PeerAt)
  deriving DecidableEq, Repr

/-- A landfall message of a peer package that arrives at this one (R211 to R215). -/
inductive LandMsg
  | resv (sPkg sCore tag core zone expect : Nat)
  | send (sPkg sCore tag core zone plot gen offset : Nat) (data : List Byte)
  | clr (sPkg sCore tag core zone plot gen : Nat)
  deriving DecidableEq, Repr

/-- A receiver's answer to a landfall command (Table 6.6): the command's tag in this package, status, reason, aux, bytes. -/
structure LandAns where
  cmd : Nat
  status : Nat
  reason : Nat
  aux : Nat
  bytes : Nat
  deriving DecidableEq, Repr

/-- A failure notice (R383): a landfall send of a sender that tears its plot here, with the reason of Table 6.6 (1 LINK, or 3 CANCEL of a sender that
was terminated, Table 6.12), or a transaction of this package. -/
inductive Notice
  | plot (sPkg sCore core zone plot gen reason : Nat)
  | landCmd (cmd acked : Nat)
  | atomic (wave n : Nat)
  | load (wave n : Nat)
  | record (core gran seq : Nat)
  | packet (queue : Nat)
  deriving DecidableEq, Repr

/-- A log record that a peer package sends to its home here (R264); with the stamp of the mark that published it, if it was published, how many of
that mark's records are still to come here, and which writes of this package the mark's horizon holds (R262). With no byte enabled it announces
the mark alone. -/
structure PeerRecord where
  pkg : Nat
  core : Nat
  gran : Nat
  ben : BitVec 16
  data : Lane
  kind : Nat
  stamp : Option Nat
  left : Nat
  hor : List Nat
  /-- byte enables and data of the record of the same trigger for the other granule of the aligned 32-byte block: both are applied as one step (R264) -/
  also : Option (BitVec 16 × Lane)
  deriving DecidableEq, Repr

/-- A packet that a peer submits (R353): its words, and the SYSTEM-scope publication that its write carries, as a message that announces the mark. -/
structure PeerPacket where
  words : List Word
  pub : PeerRecord
  deriving DecidableEq, Repr

/-- The instructions and events of the part: one constructor for each row of the opcode table, in its order. -/
inductive Instr
  | registerMove (m : Mv) (d : Dst) (fill : BitVec 5)
  | operandPortWrite (m : Mv) (u : PortUnit) (p : Latch) (fill : BitVec 5)
  | nullSinkMove (m : Mv)
  | iaAdd (m : Mv) (u : Bool) (ty : ETy)
  | iaSub (m : Mv) (u : Bool) (ty : ETy)
  | iaAdds (m : Mv) (u : Bool) (ty : ETy)
  | iaSubs (m : Mv) (u : Bool) (ty : ETy)
  | iaNeg (m : Mv) (u : Bool) (ty : ETy)
  | iaNegs (m : Mv) (u : Bool) (ty : ETy)
  | iaAbs (m : Mv) (u : Bool) (ty : ETy)
  | iaAbss (m : Mv) (u : Bool) (ty : ETy)
  | iaMin (m : Mv) (u : Bool) (ty : ETy)
  | iaMax (m : Mv) (u : Bool) (ty : ETy)
  | iaAnd (m : Mv) (u : Bool) (ty : ETy)
  | iaOr (m : Mv) (u : Bool) (ty : ETy)
  | iaXor (m : Mv) (u : Bool) (ty : ETy)
  | iaAndn (m : Mv) (u : Bool) (ty : ETy)
  | iaNot (m : Mv) (u : Bool) (ty : ETy)
  | iaCmpeq (m : Mv) (u : Bool) (ty : ETy)
  | iaCmpne (m : Mv) (u : Bool) (ty : ETy)
  | iaCmplt (m : Mv) (u : Bool) (ty : ETy)
  | iaCmple (m : Mv) (u : Bool) (ty : ETy)
  | iaCmpgt (m : Mv) (u : Bool) (ty : ETy)
  | iaCmpge (m : Mv) (u : Bool) (ty : ETy)
  | iaSel (m : Mv) (u : Bool) (ty : ETy)
  | iaClz (m : Mv) (u : Bool) (ty : ETy)
  | iaPopc (m : Mv) (u : Bool) (ty : ETy)
  | iaBrev (m : Mv) (u : Bool) (ty : ETy)
  | iaAvg (m : Mv) (u : Bool) (ty : ETy)
  | iaAdc (m : Mv) (u : Bool) (ty : ETy)
  | iaSbb (m : Mv) (u : Bool) (ty : ETy)
  | mlMul (m : Mv) (ty : ETy)
  | mlMulhi (m : Mv) (ty : ETy)
  | mlMad (m : Mv) (ty : ETy)
  | mlMadw (m : Mv) (ty : ETy)
  | mlDot4 (m : Mv) (ty : ETy)
  | shShl (m : Mv) (ty : ETy)
  | shShr (m : Mv) (ty : ETy)
  | shSar (m : Mv) (ty : ETy)
  | shRol (m : Mv) (ty : ETy)
  | shRor (m : Mv) (ty : ETy)
  | shBfe (m : Mv) (ty : ETy)
  | shBfi (m : Mv) (ty : ETy)
  | shFunl (m : Mv) (ty : ETy)
  | shPerm (m : Mv) (ty : ETy)
  | fmFadd (m : Mv) (u : Bool) (rm : Rm) (ty : ETy)
  | fmFsub (m : Mv) (u : Bool) (rm : Rm) (ty : ETy)
  | fmFmul (m : Mv) (u : Bool) (rm : Rm) (ty : ETy)
  | fmFma (m : Mv) (u : Bool) (rm : Rm) (ty : ETy)
  | fmFnma (m : Mv) (u : Bool) (rm : Rm) (ty : ETy)
  | fmFrint (m : Mv) (u : Bool) (rm : Rm) (ty : ETy)
  | fmFscale (m : Mv) (u : Bool) (rm : Rm) (ty : ETy)
  | fmFmin (m : Mv) (u : Bool) (ty : ETy)
  | fmFmax (m : Mv) (u : Bool) (ty : ETy)
  | fmFminp (m : Mv) (u : Bool) (ty : ETy)
  | fmFmaxp (m : Mv) (u : Bool) (ty : ETy)
  | fmFcmp (m : Mv) (u : Bool) (c : FCond) (ty : ETy)
  | fmFclass (m : Mv) (u : Bool) (ty : ETy)
  | fmFsgn (m : Mv) (u : Bool) (o : SgnOp) (ty : ETy)
  | chChain (m : Mv) (s1 s2 s3 : Stage)
  | cvCvt (m : Mv) (res src : ETy) (rm : Rm)
  | xsShfl (m : Mv) (ty : ETy)
  | xsShflup (m : Mv) (ty : ETy)
  | xsShfldn (m : Mv) (ty : ETy)
  | xsShflx (m : Mv) (ty : ETy)
  | xsBcast (m : Mv) (ty : ETy)
  | xsVoteany (m : Mv) (ty : ETy)
  | xsVoteall (m : Mv) (ty : ETy)
  | xsBallot (m : Mv) (ty : ETy)
  | xsRedadd (m : Mv) (ty : ETy)
  | xsRedmax (m : Mv) (ty : ETy)
  | xsRedmin (m : Mv) (ty : ETy)
  | xsScanadd (m : Mv) (ty : ETy)
  | xsMatch (m : Mv) (ty : ETy)
  | saAdd (m : Mv)
  | saSub (m : Mv)
  | saAnd (m : Mv)
  | saOr (m : Mv)
  | saXor (m : Mv)
  | saShl (m : Mv)
  | saShr (m : Mv)
  | saSar (m : Mv)
  | saMul (m : Mv)
  | saCmp (m : Mv) (uns : Bool) (c : SCond)
  | saMov (m : Mv)
  | saLi (m : Mv)
  | saMin (m : Mv) (uns : Bool)
  | saMax (m : Mv) (uns : Bool)
  | ldLdg (m : Mv) (sz : Sz) (sx pi : Bool)
  | ldLds (m : Mv) (sz : Sz) (sx pi : Bool)
  | ldLdl (m : Mv) (sz : Sz) (sx pi : Bool)
  | ldLdb (m : Mv) (sz : Sz) (sx pi : Bool)
  | ldLdsc (m : Mv) (sz : Sz) (sx pi : Bool)
  | ldLdnt (m : Mv) (sz : Sz) (sx pi : Bool)
  | stStg (m : Mv) (sz : Sz) (pi : Bool)
  | stSts (m : Mv) (sz : Sz) (pi : Bool)
  | stStsc (m : Mv) (sz : Sz) (pi : Bool)
  | stStnt (m : Mv) (sz : Sz) (pi : Bool)
  | atAdd (m : Mv) (w : AtW) (sc : Scope) (ord : AOrd)
  | atSub (m : Mv) (w : AtW) (sc : Scope) (ord : AOrd)
  | atMin (m : Mv) (w : AtW) (sc : Scope) (ord : AOrd)
  | atMax (m : Mv) (w : AtW) (sc : Scope) (ord : AOrd)
  | atMinu (m : Mv) (w : AtW) (sc : Scope) (ord : AOrd)
  | atMaxu (m : Mv) (w : AtW) (sc : Scope) (ord : AOrd)
  | atAnd (m : Mv) (w : AtW) (sc : Scope) (ord : AOrd)
  | atOr (m : Mv) (w : AtW) (sc : Scope) (ord : AOrd)
  | atXor (m : Mv) (w : AtW) (sc : Scope) (ord : AOrd)
  | atXchg (m : Mv) (w : AtW) (sc : Scope) (ord : AOrd)
  | atCas (m : Mv) (w : AtW) (sc : Scope) (ord : AOrd)
  | atInc (m : Mv) (w : AtW) (sc : Scope) (ord : AOrd)
  | atFadd (m : Mv) (w : AtW) (sc : Scope) (ord : AOrd)
  | lgPub (m : Mv) (sc : Scope)
  | lgAcq (m : Mv) (sc : Scope)
  | lgAcqn (m : Mv) (sc : Scope)
  | lgDrain (m : Mv)
  | lgLogst (m : Mv)
  | baBinit (m : Mv)
  | baArrive (m : Mv)
  | baWait (m : Mv)
  | baTest (m : Mv)
  | baPbar (m : Mv)
  | baCbinit (m : Mv) (cb : BitVec 4)
  | baCbresv (m : Mv) (cb : BitVec 4)
  | baCbfill (m : Mv) (cb : BitVec 4)
  | baCbtake (m : Mv) (cb : BitVec 4)
  | baCbfree (m : Mv) (cb : BitVec 4)
  | mxCfg (m : Mv)
  | mxLdb (m : Mv) (bl : BitVec 2)
  | mxMmq (m : Mv) (bl : BitVec 2) (acc : BitVec 4)
  | mxMmw (m : Mv) (bl : BitVec 2) (acc : BitVec 4)
  | mxZacc (m : Mv) (acc : BitVec 4)
  | mxStacc (m : Mv) (acc : BitVec 4)
  | mxRdacc (m : Mv) (acc : BitVec 4)
  | mxKat (m : Mv)
  | mxQstat (m : Mv)
  | gaGidx (m : Mv)
  | gaGrows (m : Mv)
  | gaGstat (m : Mv)
  | sxCopy2d (m : Mv)
  | sxCopy2dw (m : Mv)
  | sxLoopcopy (m : Mv) (cb : BitVec 4)
  | sxStop (m : Mv)
  | sxLandresv (m : Mv) (z : BitVec 3)
  | sxLandsend (m : Mv) (z : BitVec 3)
  | sxLandclr (m : Mv) (z : BitVec 3)
  | sxZoneinit (m : Mv) (z : BitVec 3)
  | sxWaitc (m : Mv)
  | sfEx2 (m : Mv) (ty : ETy)
  | sfLg2 (m : Mv) (ty : ETy)
  | sfRcp (m : Mv) (ty : ETy)
  | sfRsq (m : Mv) (ty : ETy)
  | sfSqrt (m : Mv) (ty : ETy)
  | sfSinpi (m : Mv) (ty : ETy)
  | sfCospi (m : Mv) (ty : ETy)
  | sfTanh (m : Mv) (ty : ETy)
  | sfErf (m : Mv) (ty : ETy)
  | ctBra (m : Mv)
  | ctBany (m : Mv)
  | ctBall (m : Mv)
  | ctBnone (m : Mv)
  | ctBscal (m : Mv) (z : Bool) (k : BitVec 3)
  | ctCall (m : Mv)
  | ctRet (m : Mv)
  | ctBtab (m : Mv) (n : BitVec 2)
  | ctLoop (m : Mv)
  | ctAllon (m : Mv)
  | ctAlloff (m : Mv)
  | ctMaskg (m : Mv)
  | ctMasks (m : Mv)
  | ctSeg (m : Mv)
  | ctPhase (m : Mv)
  | ctRoute (m : Mv)
  | ctYield (m : Mv)
  | ctExit (m : Mv)
  | ctWaite (m : Mv)
  | syTrap (m : Mv)
  | syRett (m : Mv)
  | syCsrr (m : Mv)
  | syCsrw (m : Mv)
  | syCsrs (m : Mv)
  | syCsrc (m : Mv)
  | syIcinv (m : Mv)
  | syFbar (m : Mv)
  | syPref (m : Mv) (l2 : Bool)
  | syLaunch (m : Mv)
  | sySleep (m : Mv)
  | syQfence (m : Mv)
  | syRdv (m : Mv)
  | syWheelq (m : Mv)
  | exposedResultLand (w : Nat)
  | waveExchange (w : Nat)
  | translationWalkDone (w : Nat)
  | ldEntryArrive (w n : Nat)
  | loadNoResponse (w n : Nat)
  | atHomePerform (r : AtReq)
  | atResend (w n : Nat)
  | atResendTimeout (w n : Nat)
  | atTagExpire (pkg core tag : Nat)
  | spillMove (core : Nat)
  | logFullDrain (core : Nat)
  | markStand (mark : Nat)
  | acquireComplete (w : Nat)
  | drainComplete (w : Nat)
  | compactMark (tract mark : Nat)
  | scPerform (core : Nat)
  | domainCountWarning
  | stampLimitStop
  | baWaitSatisfy (w : Nat)
  | baPbarComplete (party : Nat)
  | cbSlotReady (core : Nat) (cb : BitVec 4)
  | mxCommandPerform (core : Nat)
  | mxIdle (core : Nat)
  | mxWakeAdmit (tract : Nat)
  | mxWakeStart (core : Nat)
  | gaComplete (core : Nat)
  | sfResult (core : Nat)
  | copy2dwStart (party : Nat)
  | sxCopyComplete (party : Nat)
  | loopcopyIteration (core ctx : Nat)
  | completionRecordWrite (party : Nat)
  | waitcSatisfy (party : Nat)
  | landresvReceive (m : LandMsg)
  | landsendReceive (m : LandMsg)
  | landsendWriteComplete (core n : Nat)
  | landclrRemoteReceive (m : LandMsg)
  | landfallResponse (a : LandAns)
  | plotClearEffect (core n : Nat)
  | plotLeaseExpire (core zone plot : Nat)
  | failureNoticeReceive (n : Notice)
  | phaseEnd (party : Nat)
  | phaseStart (party : Nat)
  | taskAssign (launch : Nat)
  | partyEnd (party : Nat)
  | sleepExpire (w : Nat)
  | detectedError (w : Nat)
  | segRerunEnd (w : Nat)
  | twinRecordCompare (w : Nat)
  | twinEscapePerform (w : Nat)
  | correctedError (site core addr : Nat)
  | uncorrectableHbmError (pa : Nat)
  | packetHead (q : Nat)
  | packetAge (q : Nat)
  | schedulePlace (vi : Nat)
  | preemptHaltComplete (core : Nat)
  | haltTimeout (core : Nat)
  | contextResume (core : Nat)
  | sliceSwitch (core : Nat)
  | launchComplete (launch : Nat)
  | doneRecordWrite (q : Nat)
  | wqtailWrite (q : Nat) (tail : BitVec 32)
  | queueKill (q : Nat)
  | peerPacketReceive (pkg q : Nat) (words : PeerPacket)
  | partitionEnable (vi : Nat)
  | registerWrite (addr : Nat) (data : Word) (secure : Bool)
  | tlbinvInterface (vi : Nat)
  | tlbinvAsid (vi asid : Nat)
  | tlbinvVaRange (vi asid page count : Nat)
  | tlbinvGpaRange (vi page count : Nat)
  | tlbinvComplete (vi : Nat)
  | poisonSet (granule : Nat)
  | poisonClear (granule : Nat)
  | poisonCmdComplete
  | placeSet (frame : Nat) (mode : BitVec 2)
  | placeQuery (frame : Nat)
  | legendCommit (n : Nat) (top : Word) (secure : Bool)
  | legendClear (n : Nat) (top : Word) (secure : Bool)
  | legendClearComplete (n : Nat)
  | mtcapWrite (t : Nat) (v : Word)
  | portEnable (i : Nat)
  | portDisable (i : Nat)
  | portTrainUp (i peerPkg peerPort : Nat)
  | portTrainTimeout (i : Nat)
  | portFail (i : Nat)
  | domainBringUp
  | domainJoin (i count : Nat)
  | domainDown
  | fabricSubmit (v : Word)
  | fabricSubmitAnswer (accepted : Bool)
  | fabricSubmitTimeout
  | zonePlotRead (core zone plot : Nat)
  | zoneClose (core zone : Nat)
  | counterClear (t : Nat)
  | counterSnap (t : Nat)
  | snapall
  | vcounterSnap (vi : Nat)
  | dutyUpdate (power tmax : Nat)
  | thermalTrip
  | standbyPowerOn (img : Image)
  | mcfwStart (railsOk trainOk : Bool) (img : Image)
  | ccCore0Release
  | ccfwStage3 (trust os : Image)
  | moduleReset
  | containerLoad (vi : Nat) (c : Container) (emdx : Emdx)
  | patchCommit (p : Patch)
  | demandPageLoad (handle : BitVec 32) (edition page : Nat) (bytes : List Byte)
  | quote (nonce : BitVec 256)
  | query
  | readbook (slot : Nat)
  | preserve
  | release (slot : Nat) (auth : Signed)
  | retire (core : Nat) (auth : Signed)
  | returnCore (core : Nat) (auth : Signed)
  | raisemin (kind version : Nat) (auth : Signed)
  | loadlist (img : Image) (auth : Signed)
  | reset (auth : Signed)
  | atResponseArrive (tag status : Nat) (ret : List (Nat × Word))
  | remoteLoadRequest (pkg core pa size : Nat)
  | remoteRecordReceive (r : PeerRecord)
  | fabricForward (dst hop : Nat)
  | logLost (core n : Nat)
  | controlComplexAccess (cc addr : Nat) (store : Bool) (bytes : Nat) (data : Word)
  | containerUnload (handle : BitVec 32)
  | powerLoss
  deriving DecidableEq, Repr

end Sys2Proof
end

