-- ==== Sys2Proof/WellFormed.lean ====
section
/-!
DEFINITION. Which instructions have an encoding: register numbers in range (Tables 3.3 to 3.6), the type codes, modifiers
and conversion pairs each operation accepts (R48, R84 to R97, R112, R131, R141, R144, R155, R160, R221). An event of the
device is always well formed.
-/
namespace Sys2Proof

/-- Class I of Table 4.1. -/
def ETy.inI : ETy → Bool
  | .s8 | .n8 | .s16 | .n16 | .s32 | .n32 | .s64 | .n64 => true
  | _ => false

/-- Class S of Table 4.1. -/
def ETy.inS : ETy → Bool
  | .s8 | .s16 | .s32 | .s64 => true
  | _ => false

/-- Class W of Table 4.1. -/
def ETy.inW : ETy → Bool
  | .s8 | .n8 | .s16 | .n16 | .s32 | .n32 => true
  | _ => false

/-- Class B of Table 4.1. -/
def ETy.inB : ETy → Bool
  | .s8 | .n8 => true
  | _ => false

/-- Class P of Table 4.1. -/
def ETy.inP : ETy → Bool
  | .n8 => true
  | _ => false

/-- Class F of Table 4.1. -/
def ETy.inF : ETy → Bool
  | .f32 | .bf16 | .f16 => true
  | _ => false

/-- The floating types of a conversion (Table 4.8, first row). -/
def ETy.isFloat : ETy → Bool
  | .f32 | .bf16 | .f16 | .k8a | .k8b | .k6a | .k6b | .k4 => true
  | _ => false

/-- The integer types of a conversion (Table 4.8, second row). -/
def ETy.isInt : ETy → Bool
  | .s4 | .n4 | .s8 | .n8 | .s16 | .n16 | .s32 | .n32 | .s64 | .n64 => true
  | _ => false

/-- The mantissa width of a BFP type; 0 for another type (Table 2.1). -/
def ETy.bfpM : ETy → Nat
  | .bfp2 => 2
  | .bfp3 => 3
  | .bfp4 => 4
  | .bfp5 => 5
  | .bfp6 => 6
  | .bfp7 => 7
  | .bfp8 => 8
  | _ => 0

/-- A BFP type. -/
def ETy.isBfp (t : ETy) : Bool := t.bfpM != 0

/-- The type pairs CV accepts (R131, Table 4.8): result, source. -/
def cvtPair (res src : ETy) : Bool :=
  (src != res) &&
  ((src.isFloat && res.isFloat) || (src.inF && res.isInt) || (src.isInt && res.isFloat) || (src.isInt && res.isInt) ||
   (src == .f32 && res.isBfp) || (src.isBfp && res.inF) || (src.isBfp && res == .n16))

/-- Ports with a c latch (Table 3.6): all but SA, CT and SY. -/
def PortUnit.hasC : PortUnit → Bool
  | .sa | .ct | .sy => false
  | _ => true

/-- Sources (Table 3.3): register numbers, long-immediate slots and ports that exist. -/
def Src.wf : Src → Bool
  | .v n => n < 96
  | .s n => n < 64
  | .a n => n < 16
  | .g n => n < 16
  | .port u => u != .ct
  | .spec (.k n) => n < 8
  | .spec _ => true
  | .limm k => k < 6
  | .imm _ => true

/-- Destinations (Table 3.4). -/
def Dst.wf : Dst → Bool
  | .v n => n < 96
  | .s n => n < 64
  | .a n => n < 16
  | .g n => n < 16
  | .spec (.k n) => n < 8
  | .spec _ => true

/-- Guard and source of a move. -/
def Mv.wf (m : Mv) : Bool := m.gidx < 16 && m.src.wf

/-- The fill codes of a destination (R19): 0 to 4 for v, 0 for the others. -/
def fillOk (d : Dst) (fill : BitVec 5) : Bool :=
  match d with
  | .v _ => fill.toNat ≤ 4
  | _ => fill == 0

/-- An operand-port write (R88): the port exists and its fill is legal. -/
def portOk (u : PortUnit) (p : Latch) (fill : BitVec 5) : Bool :=
  (p != .c || u.hasC) && (if u.hasC then fill.toNat ≤ 4 else fill == 0)

/-- Type codes of XS: classes I and F, MATCH class I only (Table 6.14). -/
def ETy.inIF (t : ETy) : Bool := t.inI || t.inF

/-- The source of a post-increment must be an address register (R141). -/
def piOk (m : Mv) (pi : Bool) : Bool :=
  match pi, m.src with
  | false, _ => true
  | true, .a _ => true
  | true, _ => false

/-- A load (R97, R141, R144). -/
def ldOk (m : Mv) (sz : Sz) (sx pi : Bool) : Bool := m.wf && !(sx && sz == .b16) && piOk m pi

/-- The width of an integer atomic (R95). -/
def AtW.isInt : AtW → Bool
  | .bf16 => false
  | _ => true

/-- The width of FADD (R95). -/
def AtW.isFadd : AtW → Bool
  | .w64 => false
  | _ => true

/-- The scopes of ACQN (R160). -/
def Scope.acqn : Scope → Bool
  | .sheet | .tract | .die | .pkg => true
  | _ => false

/-- The guard of BTAB (R221). -/
def Mv.g0 (m : Mv) : Bool := m.gidx == 0 && !m.inv

/-- Which instructions have an encoding; an event always is well formed. -/
def Instr.wf : Instr → Bool
  | .registerMove m d fill => m.wf && d.wf && fillOk d fill
  | .operandPortWrite m u p fill => m.wf && portOk u p fill
  | .nullSinkMove m => m.wf
  | .iaAdd m _ ty | .iaSub m _ ty | .iaAdds m _ ty | .iaSubs m _ ty | .iaNeg m _ ty | .iaMin m _ ty | .iaMax m _ ty
  | .iaAnd m _ ty | .iaOr m _ ty | .iaXor m _ ty | .iaAndn m _ ty | .iaNot m _ ty | .iaCmpeq m _ ty | .iaCmpne m _ ty
  | .iaCmplt m _ ty | .iaCmple m _ ty | .iaCmpgt m _ ty | .iaCmpge m _ ty | .iaSel m _ ty | .iaClz m _ ty
  | .iaPopc m _ ty | .iaBrev m _ ty | .iaAvg m _ ty | .iaAdc m _ ty | .iaSbb m _ ty => m.wf && ty.inI
  | .iaNegs m _ ty | .iaAbs m _ ty | .iaAbss m _ ty => m.wf && ty.inS
  | .mlMul m ty | .mlMulhi m ty | .mlMad m ty => m.wf && ty.inI
  | .mlMadw m ty => m.wf && ty.inW
  | .mlDot4 m ty => m.wf && ty.inB
  | .shShl m ty | .shShr m ty | .shSar m ty | .shRol m ty | .shRor m ty | .shBfe m ty | .shBfi m ty
  | .shFunl m ty => m.wf && ty.inI
  | .shPerm m ty => m.wf && ty.inP
  | .fmFadd m _ _ ty | .fmFsub m _ _ ty | .fmFmul m _ _ ty | .fmFma m _ _ ty | .fmFnma m _ _ ty | .fmFrint m _ _ ty
  | .fmFscale m _ _ ty => m.wf && ty.inF
  | .fmFmin m _ ty | .fmFmax m _ ty | .fmFminp m _ ty | .fmFmaxp m _ ty | .fmFclass m _ ty => m.wf && ty.inF
  | .fmFcmp m _ _ ty => m.wf && ty.inF
  | .fmFsgn m _ _ ty => m.wf && ty.inF
  | .chChain m s1 s2 _ => m.wf && !(s1 == .pass && s2 == .pass)
  | .cvCvt m res src _ => m.wf && cvtPair res src
  | .xsShfl m ty | .xsShflup m ty | .xsShfldn m ty | .xsShflx m ty | .xsBcast m ty | .xsVoteany m ty | .xsVoteall m ty
  | .xsBallot m ty | .xsRedadd m ty | .xsRedmax m ty | .xsRedmin m ty | .xsScanadd m ty => m.wf && ty.inIF
  | .xsMatch m ty => m.wf && ty.inI
  | .saAdd m | .saSub m | .saAnd m | .saOr m | .saXor m | .saShl m | .saShr m | .saSar m | .saMul m | .saMov m
  | .saLi m => m.wf
  | .saCmp m _ _ => m.wf
  | .saMin m _ | .saMax m _ => m.wf
  | .ldLdg m sz sx pi | .ldLds m sz sx pi | .ldLdl m sz sx pi | .ldLdb m sz sx pi | .ldLdsc m sz sx pi
  | .ldLdnt m sz sx pi => ldOk m sz sx pi
  | .stStg m _ pi | .stSts m _ pi | .stStsc m _ pi | .stStnt m _ pi => m.wf && piOk m pi
  | .atAdd m w _ _ | .atSub m w _ _ | .atMin m w _ _ | .atMax m w _ _ | .atMinu m w _ _ | .atMaxu m w _ _
  | .atAnd m w _ _ | .atOr m w _ _ | .atXor m w _ _ | .atXchg m w _ _ | .atCas m w _ _ | .atInc m w _ _ => m.wf && w.isInt
  | .atFadd m w _ _ => m.wf && w.isFadd
  | .lgPub m _ | .lgAcq m _ => m.wf
  | .lgAcqn m sc => m.wf && sc.acqn
  | .lgDrain m | .lgLogst m => m.wf
  | .baBinit m | .baArrive m | .baWait m | .baTest m | .baPbar m => m.wf
  | .baCbinit m _ | .baCbresv m _ | .baCbfill m _ | .baCbtake m _ | .baCbfree m _ => m.wf
  | .mxCfg m | .mxKat m | .mxQstat m => m.wf
  | .mxLdb m _ => m.wf
  | .mxMmq m _ _ | .mxMmw m _ _ => m.wf
  | .mxZacc m _ | .mxStacc m _ | .mxRdacc m _ => m.wf
  | .gaGidx m | .gaGrows m | .gaGstat m => m.wf
  | .sxCopy2d m | .sxCopy2dw m | .sxStop m | .sxWaitc m => m.wf
  | .sxLoopcopy m _ => m.wf
  | .sxLandresv m _ | .sxLandsend m _ | .sxLandclr m _ | .sxZoneinit m _ => m.wf
  | .sfEx2 m ty | .sfLg2 m ty | .sfRcp m ty | .sfRsq m ty | .sfSqrt m ty | .sfSinpi m ty | .sfCospi m ty | .sfTanh m ty
  | .sfErf m ty => m.wf && ty.inF
  | .ctBra m | .ctBany m | .ctBall m | .ctBnone m | .ctCall m | .ctRet m | .ctLoop m | .ctAllon m | .ctAlloff m
  | .ctMaskg m | .ctMasks m | .ctSeg m | .ctPhase m | .ctRoute m | .ctYield m | .ctExit m | .ctWaite m => m.wf
  | .ctBscal m _ _ => m.wf
  | .ctBtab m _ => m.wf && m.g0
  | .syTrap m | .syRett m | .syCsrr m | .syCsrw m | .syCsrs m | .syCsrc m | .syIcinv m | .syFbar m | .syLaunch m
  | .sySleep m | .syQfence m | .syRdv m | .syWheelq m => m.wf
  | .syPref m _ => m.wf
  | .exposedResultLand _ | .waveExchange _ | .translationWalkDone _ | .ldEntryArrive _ _ | .loadNoResponse _ _
  | .atHomePerform _ | .atResend _ _ | .atResendTimeout _ _ | .atTagExpire _ _ _ | .spillMove _ | .logFullDrain _
  | .markStand _ | .acquireComplete _ | .drainComplete _ | .compactMark _ _ | .scPerform _ | .domainCountWarning
  | .stampLimitStop | .baWaitSatisfy _ | .baPbarComplete _ | .cbSlotReady _ _ | .mxCommandPerform _ | .mxIdle _
  | .mxWakeAdmit _ | .mxWakeStart _ | .gaComplete _ | .sfResult _ | .copy2dwStart _ | .sxCopyComplete _
  | .loopcopyIteration _ _ | .completionRecordWrite _ | .waitcSatisfy _ | .landresvReceive _ | .landsendReceive _
  | .landsendWriteComplete _ _ | .landclrRemoteReceive _ | .landfallResponse _ | .plotClearEffect _ _
  | .plotLeaseExpire _ _ _ | .failureNoticeReceive _ | .phaseEnd _ | .phaseStart _ | .taskAssign _ | .partyEnd _
  | .sleepExpire _ | .detectedError _ | .segRerunEnd _ | .twinRecordCompare _ | .twinEscapePerform _
  | .correctedError _ _ _ | .uncorrectableHbmError _ | .packetHead _ | .packetAge _ | .schedulePlace _
  | .preemptHaltComplete _ | .haltTimeout _ | .contextResume _ | .sliceSwitch _ | .launchComplete _ | .doneRecordWrite _
  | .wqtailWrite _ _ | .queueKill _ | .peerPacketReceive _ _ _ | .partitionEnable _ | .registerWrite _ _ _
  | .tlbinvInterface _ | .tlbinvAsid _ _ | .tlbinvVaRange _ _ _ _ | .tlbinvGpaRange _ _ _ | .tlbinvComplete _
  | .poisonSet _ | .poisonClear _ | .poisonCmdComplete | .placeSet _ _ | .placeQuery _ | .legendCommit _ _ _
  | .legendClear _ _ _ | .legendClearComplete _ | .mtcapWrite _ _ | .portEnable _ | .portDisable _ | .portTrainUp _ _ _
  | .portTrainTimeout _ | .portFail _ | .domainBringUp | .domainJoin _ _ | .domainDown | .fabricSubmit _
  | .fabricSubmitAnswer _ | .fabricSubmitTimeout | .zonePlotRead _ _ _ | .zoneClose _ _ | .counterClear _ | .counterSnap _
  | .snapall | .vcounterSnap _ | .dutyUpdate _ _ | .thermalTrip | .standbyPowerOn _ | .mcfwStart _ _ _ | .ccCore0Release
  | .ccfwStage3 _ _ | .moduleReset | .containerLoad _ _ _ | .patchCommit _ | .demandPageLoad _ _ _ _ | .quote _ | .query
  | .readbook _ | .preserve | .release _ _ | .retire _ _ | .returnCore _ _ | .raisemin _ _ _ | .loadlist _ _ | .reset _
  | .atResponseArrive _ _ _ | .remoteLoadRequest _ _ _ _ | .remoteRecordReceive _ | .fabricForward _ _ | .logLost _ _
  | .controlComplexAccess _ _ _ _ _ | .containerUnload _ | .powerLoss => true

end Sys2Proof
end

