-- ==== Sys2Proof/Decode.lean ====
section
/-!
DEFINITION. Decoding of the forty bits of a slot and of the parts of a bundle (Chapter 3), total, each refusal by name;
then the encoder, from the same tables.
-/
namespace Sys2Proof

/-- Why a slot or a bundle does not decode. Every one of them raises ILLEGAL_BUNDLE (R108). -/
inductive DecodeErr
  | reservedSource
  | reservedDestination
  | absentPort
  | reservedOpcode
  | reservedModifier
  | notAccepted
  | reservedClass
  | headerBits
  | tableReached
  | malformedTable
  | malformedUpdate
  deriving DecidableEq, Repr

/-! The codes of the fields. -/

/-- Type codes (Table 2.1). -/
def ETy.code : ETy → Nat
  | .f32 => 0
  | .bf16 => 1
  | .f16 => 2
  | .k8a => 3
  | .k8b => 4
  | .k6a => 5
  | .k6b => 6
  | .k4 => 7
  | .s8 => 8
  | .n8 => 9
  | .s4 => 10
  | .n4 => 11
  | .s16 => 12
  | .n16 => 13
  | .s32 => 14
  | .n32 => 15
  | .s64 => 16
  | .n64 => 17
  | .bfp2 => 18
  | .bfp3 => 19
  | .bfp4 => 20
  | .bfp5 => 21
  | .bfp6 => 22
  | .bfp7 => 23
  | .bfp8 => 24

/-- The type a code names; 0x19 to 0x1F name none (R48). -/
def ETy.ofCode : Nat → Option ETy
  | 0 => some .f32
  | 1 => some .bf16
  | 2 => some .f16
  | 3 => some .k8a
  | 4 => some .k8b
  | 5 => some .k6a
  | 6 => some .k6b
  | 7 => some .k4
  | 8 => some .s8
  | 9 => some .n8
  | 10 => some .s4
  | 11 => some .n4
  | 12 => some .s16
  | 13 => some .n16
  | 14 => some .s32
  | 15 => some .n32
  | 16 => some .s64
  | 17 => some .n64
  | 18 => some .bfp2
  | 19 => some .bfp3
  | 20 => some .bfp4
  | 21 => some .bfp5
  | 22 => some .bfp6
  | 23 => some .bfp7
  | 24 => some .bfp8
  | _ => none

/-- Scope codes (Table 0.2). -/
def Scope.code : Scope → Nat
  | .wave => 0
  | .party => 1
  | .sheet => 2
  | .tract => 3
  | .die => 4
  | .pkg => 5
  | .sys => 6

/-- Code 7 names no scope (R2). -/
def Scope.ofCode : Nat → Option Scope
  | 0 => some .wave
  | 1 => some .party
  | 2 => some .sheet
  | 3 => some .tract
  | 4 => some .die
  | 5 => some .pkg
  | 6 => some .sys
  | _ => none

/-- Rounding codes (Table 2.7). -/
def Rm.code : Rm → Nat
  | .rne => 0
  | .rtz => 1
  | .rup => 2
  | .rdn => 3
  | .sr => 4
  | .dyn => 7

/-- Codes 5 and 6 are reserved (R62). -/
def Rm.ofCode : Nat → Option Rm
  | 0 => some .rne
  | 1 => some .rtz
  | 2 => some .rup
  | 3 => some .rdn
  | 4 => some .sr
  | 7 => some .dyn
  | _ => none

/-- Conditions of SA.CMP (Table 3.11). -/
def SCond.code : SCond → Nat
  | .eq => 0
  | .ne => 1
  | .lt => 2
  | .le => 3
  | .gt => 4
  | .ge => 5

/-- Conditions 6 and 7 are reserved. -/
def SCond.ofCode : Nat → Option SCond
  | 0 => some .eq
  | 1 => some .ne
  | 2 => some .lt
  | 3 => some .le
  | 4 => some .gt
  | 5 => some .ge
  | _ => none

/-- Conditions of FCMP (Table 3.8). -/
def FCond.code : FCond → Nat
  | .eq => 0
  | .ne => 1
  | .lt => 2
  | .le => 3
  | .gt => 4
  | .ge => 5
  | .un => 6
  | .ord => 7

/-- All eight codes are conditions. -/
def FCond.ofCode : Nat → Option FCond
  | 0 => some .eq
  | 1 => some .ne
  | 2 => some .lt
  | 3 => some .le
  | 4 => some .gt
  | 5 => some .ge
  | 6 => some .un
  | 7 => some .ord
  | _ => none

/-- Forms of FSGN (Table 3.8). -/
def SgnOp.code : SgnOp → Nat
  | .abs => 0
  | .neg => 1
  | .nabs => 2

/-- Codes 3 to 7 are reserved. -/
def SgnOp.ofCode : Nat → Option SgnOp
  | 0 => some .abs
  | 1 => some .neg
  | 2 => some .nabs
  | _ => none

/-- Chain stages (R94). -/
def Stage.code : Stage → Nat
  | .pass => 0
  | .add => 1
  | .sub => 2
  | .rsub => 3
  | .mulb => 4
  | .mulc => 5
  | .addc => 6
  | .max => 7
  | .min => 8
  | .abs => 9
  | .relu => 10
  | .clamp => 11
  | .rbf => 12

/-- Codes 0xD to 0xF are reserved. -/
def Stage.ofCode : Nat → Option Stage
  | 0 => some .pass
  | 1 => some .add
  | 2 => some .sub
  | 3 => some .rsub
  | 4 => some .mulb
  | 5 => some .mulc
  | 6 => some .addc
  | 7 => some .max
  | 8 => some .min
  | 9 => some .abs
  | 10 => some .relu
  | 11 => some .clamp
  | 12 => some .rbf
  | _ => none

/-- Size codes (Table 3.11). -/
def Sz.code : Sz → Nat
  | .b1 => 0
  | .b2 => 1
  | .b4 => 2
  | .b8 => 3
  | .b16 => 4

/-- Codes 5 to 7 are reserved. -/
def Sz.ofCode : Nat → Option Sz
  | 0 => some .b1
  | 1 => some .b2
  | 2 => some .b4
  | 3 => some .b8
  | 4 => some .b16
  | _ => none

/-- Order codes (Table 3.11). -/
def AOrd.code : AOrd → Nat
  | .relaxed => 0
  | .release => 1
  | .acquire => 2
  | .sc => 3

/-- All four codes are orders. -/
def AOrd.ofCode : Nat → Option AOrd
  | 0 => some .relaxed
  | 1 => some .release
  | 2 => some .acquire
  | 3 => some .sc
  | _ => none

/-- Width codes of an atomic (R95). -/
def AtW.code : AtW → Nat
  | .w32 => 0
  | .w64 => 1
  | .bf16 => 2

/-- W = 3 is reserved. -/
def AtW.ofCode : Nat → Option AtW
  | 0 => some .w32
  | 1 => some .w64
  | 2 => some .bf16
  | _ => none

/-- Unit numbers (Table 3.6). -/
def PortUnit.code : PortUnit → Nat
  | .ia0 => 0
  | .ia1 => 1
  | .sh => 2
  | .ml => 3
  | .fm0 => 4
  | .fm1 => 5
  | .ch => 6
  | .cv => 7
  | .xs => 8
  | .sa => 9
  | .ld => 10
  | .st => 11
  | .atm => 12
  | .lg => 13
  | .ba => 14
  | .mx => 15
  | .ga => 16
  | .sx => 17
  | .sf => 18
  | .ct => 19
  | .sy => 20

/-- The unit of a number. -/
def PortUnit.ofCode : Nat → Option PortUnit
  | 0 => some .ia0
  | 1 => some .ia1
  | 2 => some .sh
  | 3 => some .ml
  | 4 => some .fm0
  | 5 => some .fm1
  | 6 => some .ch
  | 7 => some .cv
  | 8 => some .xs
  | 9 => some .sa
  | 10 => some .ld
  | 11 => some .st
  | 12 => some .atm
  | 13 => some .lg
  | 14 => some .ba
  | 15 => some .mx
  | 16 => some .ga
  | 17 => some .sx
  | 18 => some .sf
  | 19 => some .ct
  | 20 => some .sy
  | _ => none

/-- Operand ports within a unit (R87). -/
def Latch.code : Latch → Nat
  | .a => 1
  | .b => 2
  | .c => 3

/-- The port of an offset. -/
def Latch.ofCode : Nat → Option Latch
  | 1 => some .a
  | 2 => some .b
  | 3 => some .c
  | _ => none

/-- Read codes of the specials, from 0x200 (Table 3.5). -/
def RSpec.code : RSpec → Nat
  | .k n => n
  | .exm => 8
  | .exs => 9
  | .rrb => 10
  | .lc => 11
  | .ec => 12
  | .fpc => 13
  | .ssig => 14
  | .bcnt => 15
  | .lane => 16
  | .wave => 17
  | .core => 18
  | .taskx => 19
  | .tasky => 20

/-- The readable special of an offset from 0x200. -/
def RSpec.ofCode (n : Nat) : Option RSpec :=
  if n < 8 then some (.k n)
  else
    match n with
    | 8 => some .exm
    | 9 => some .exs
    | 10 => some .rrb
    | 11 => some .lc
    | 12 => some .ec
    | 13 => some .fpc
    | 14 => some .ssig
    | 15 => some .bcnt
    | 16 => some .lane
    | 17 => some .wave
    | 18 => some .core
    | 19 => some .taskx
    | 20 => some .tasky
    | _ => none

/-- Write codes of the specials, from 0x300 (Table 3.5). -/
def WSpec.code : WSpec → Nat
  | .k n => n
  | .rrb => 10
  | .lc => 11
  | .ec => 12
  | .fpc => 13

/-- The writable special of an offset from 0x300. -/
def WSpec.ofCode (n : Nat) : Option WSpec :=
  if n < 8 then some (.k n)
  else
    match n with
    | 10 => some .rrb
    | 11 => some .lc
    | 12 => some .ec
    | 13 => some .fpc
    | _ => none

/-! Source and destination fields. -/

/-- The source a code names (Table 3.3). -/
def decodeSrc (c : BitVec 11) : Except DecodeErr Src :=
  let n := c.toNat
  if n < 0x60 then .ok (.v n)
  else if n < 0x80 then .error .reservedSource
  else if n < 0xC0 then .ok (.s (n - 0x80))
  else if n < 0xD0 then .ok (.a (n - 0xC0))
  else if n < 0xE0 then .ok (.g (n - 0xD0))
  else if n < 0x100 then .error .reservedSource
  else if n < 0x200 then
    if n % 8 = 0 then
      match PortUnit.ofCode ((n - 0x100) / 8) with
      | some u => if u = .ct then .error .absentPort else .ok (.port u)
      | none => .error .absentPort
    else .error .absentPort
  else if n < 0x300 then
    match RSpec.ofCode (n - 0x200) with
    | some r => .ok (.spec r)
    | none => .error .reservedSource
  else if n < 0x3F8 then .error .reservedSource
  else if n < 0x3FE then .ok (.limm (n - 0x3F8))
  else if n < 0x400 then .error .reservedSource
  else .ok (.imm (c.extractLsb' 0 10))

/-- The code of a source. -/
def encodeSrc : Src → BitVec 11
  | .v n => BitVec.ofNat 11 n
  | .s n => BitVec.ofNat 11 (0x80 + n)
  | .a n => BitVec.ofNat 11 (0xC0 + n)
  | .g n => BitVec.ofNat 11 (0xD0 + n)
  | .port u => BitVec.ofNat 11 (0x100 + 8 * u.code)
  | .spec r => BitVec.ofNat 11 (0x200 + r.code)
  | .limm k => BitVec.ofNat 11 (0x3F8 + k)
  | .imm x => 1#1 ++ x

/-- What a destination code names (Table 3.4). -/
inductive DstField
  | null
  | reg (d : Dst)
  | latch (u : PortUnit) (p : Latch)
  | trigger (u : PortUnit)
  deriving DecidableEq, Repr

/-- The destination a code names (Tables 3.4 to 3.6). -/
def decodeDst (c : BitVec 11) : Except DecodeErr DstField :=
  let n := c.toNat
  if n = 0 then .ok .null
  else if n < 0x60 then .ok (.reg (.v n))
  else if n = 0x60 then .ok (.reg (.v 0))
  else if n < 0x80 then .error .reservedDestination
  else if n < 0xC0 then .ok (.reg (.s (n - 0x80)))
  else if n < 0xD0 then .ok (.reg (.a (n - 0xC0)))
  else if n < 0xE0 then .ok (.reg (.g (n - 0xD0)))
  else if n < 0x100 then .error .reservedDestination
  else if n < 0x200 then
    match PortUnit.ofCode ((n - 0x100) / 8), Latch.ofCode (n % 8) with
    | some u, some p => if p = .c && !u.hasC then .error .absentPort else .ok (.latch u p)
    | _, _ => .error .absentPort
  else if n < 0x300 then
    match PortUnit.ofCode (n - 0x200) with
    | some u => .ok (.trigger u)
    | none => .error .absentPort
  else if n < 0x380 then
    match WSpec.ofCode (n - 0x300) with
    | some r => .ok (.reg (.spec r))
    | none => .error .reservedDestination
  else .error .reservedDestination

/-- The code of a register or special destination. -/
def Dst.code : Dst → Nat
  | .v n => if n = 0 then 0x60 else n
  | .s n => 0x80 + n
  | .a n => 0xC0 + n
  | .g n => 0xD0 + n
  | .spec r => 0x300 + r.code

/-! Operation maps (Tables 3.7 to 3.10). -/

/-- IA0 and IA1. -/
def iaOp : Nat → Option (Mv → Bool → ETy → Instr)
  | 1 => some .iaAdd
  | 2 => some .iaSub
  | 3 => some .iaAdds
  | 4 => some .iaSubs
  | 5 => some .iaNeg
  | 6 => some .iaNegs
  | 7 => some .iaAbs
  | 8 => some .iaAbss
  | 9 => some .iaMin
  | 10 => some .iaMax
  | 11 => some .iaAnd
  | 12 => some .iaOr
  | 13 => some .iaXor
  | 14 => some .iaAndn
  | 15 => some .iaNot
  | 16 => some .iaCmpeq
  | 17 => some .iaCmpne
  | 18 => some .iaCmplt
  | 19 => some .iaCmple
  | 20 => some .iaCmpgt
  | 21 => some .iaCmpge
  | 22 => some .iaSel
  | 23 => some .iaClz
  | 24 => some .iaPopc
  | 25 => some .iaBrev
  | 26 => some .iaAvg
  | 27 => some .iaAdc
  | 28 => some .iaSbb
  | _ => none

/-- ML. -/
def mlOp : Nat → Option (Mv → ETy → Instr)
  | 1 => some .mlMul
  | 2 => some .mlMulhi
  | 3 => some .mlMad
  | 4 => some .mlMadw
  | 5 => some .mlDot4
  | _ => none

/-- SH. -/
def shOp : Nat → Option (Mv → ETy → Instr)
  | 1 => some .shShl
  | 2 => some .shShr
  | 3 => some .shSar
  | 4 => some .shRol
  | 5 => some .shRor
  | 6 => some .shBfe
  | 7 => some .shBfi
  | 8 => some .shFunl
  | 9 => some .shPerm
  | _ => none

/-- XS. -/
def xsOp : Nat → Option (Mv → ETy → Instr)
  | 1 => some .xsShfl
  | 2 => some .xsShflup
  | 3 => some .xsShfldn
  | 4 => some .xsShflx
  | 5 => some .xsBcast
  | 6 => some .xsVoteany
  | 7 => some .xsVoteall
  | 8 => some .xsBallot
  | 9 => some .xsRedadd
  | 10 => some .xsRedmax
  | 11 => some .xsRedmin
  | 12 => some .xsScanadd
  | 13 => some .xsMatch
  | _ => none

/-- SF. -/
def sfOp : Nat → Option (Mv → ETy → Instr)
  | 1 => some .sfEx2
  | 2 => some .sfLg2
  | 3 => some .sfRcp
  | 4 => some .sfRsq
  | 5 => some .sfSqrt
  | 6 => some .sfSinpi
  | 7 => some .sfCospi
  | 8 => some .sfTanh
  | 9 => some .sfErf
  | _ => none

/-- LD. -/
def ldOp : Nat → Option (Mv → Sz → Bool → Bool → Instr)
  | 1 => some .ldLdg
  | 2 => some .ldLds
  | 3 => some .ldLdl
  | 4 => some .ldLdb
  | 5 => some .ldLdsc
  | 6 => some .ldLdnt
  | _ => none

/-- ST. -/
def stOp : Nat → Option (Mv → Sz → Bool → Instr)
  | 1 => some .stStg
  | 2 => some .stSts
  | 3 => some .stStsc
  | 4 => some .stStnt
  | _ => none

/-- AT. -/
def atOp : Nat → Option (Mv → AtW → Scope → AOrd → Instr)
  | 1 => some .atAdd
  | 2 => some .atSub
  | 3 => some .atMin
  | 4 => some .atMax
  | 5 => some .atMinu
  | 6 => some .atMaxu
  | 7 => some .atAnd
  | 8 => some .atOr
  | 9 => some .atXor
  | 10 => some .atXchg
  | 11 => some .atCas
  | 12 => some .atInc
  | 13 => some .atFadd
  | _ => none

/-- FM operations with a rounding code (Table 3.8). -/
def fmRoundOp : Nat → Option (Mv → Bool → Rm → ETy → Instr)
  | 1 => some .fmFadd
  | 2 => some .fmFsub
  | 3 => some .fmFmul
  | 4 => some .fmFma
  | 5 => some .fmFnma
  | 6 => some .fmFrint
  | 7 => some .fmFscale
  | _ => none

/-- FM operations with X = 0 (Table 3.8). -/
def fmPlainOp : Nat → Option (Mv → Bool → ETy → Instr)
  | 8 => some .fmFmin
  | 9 => some .fmFmax
  | 10 => some .fmFminp
  | 11 => some .fmFmaxp
  | 13 => some .fmFclass
  | _ => none

/-- Lifts an absent code to its refusal. -/
def orErr {α : Type} (e : DecodeErr) : Option α → Except DecodeErr α
  | some a => .ok a
  | none => .error e

/-- A trigger whose modifier is a type code. -/
def decodeTyped (f : Option (Mv → ETy → Instr)) (m : Mv) (md : Nat) : Except DecodeErr Instr := do
  let g ← orErr .reservedOpcode f
  let ty ← orErr .reservedModifier (ETy.ofCode md)
  return g m ty

/-- IA0 and IA1. -/
def decodeIa (m : Mv) (u : Bool) (op md : Nat) : Except DecodeErr Instr := do
  let g ← orErr .reservedOpcode (iaOp op)
  let ty ← orErr .reservedModifier (ETy.ofCode md)
  return g m u ty

/-- FM0 and FM1 (R92). -/
def decodeFm (m : Mv) (u : Bool) (op md : Nat) : Except DecodeErr Instr := do
  let ty ← orErr .reservedModifier (ETy.ofCode md)
  let x := op / 32
  match fmRoundOp (op % 32), fmPlainOp (op % 32) with
  | some g, _ => return g m u (← orErr .reservedOpcode (Rm.ofCode x)) ty
  | none, some g => if x = 0 then return g m u ty else .error .reservedOpcode
  | none, none =>
    if op % 32 = 12 then return .fmFcmp m u (← orErr .reservedOpcode (FCond.ofCode x)) ty
    else if op % 32 = 14 then return .fmFsgn m u (← orErr .reservedOpcode (SgnOp.ofCode x)) ty
    else .error .reservedOpcode

/-- CH (R94). -/
def decodeCh (m : Mv) (op md : Nat) : Except DecodeErr Instr := do
  let s1 ← orErr .reservedOpcode (Stage.ofCode (op / 16))
  let s2 ← orErr .reservedOpcode (Stage.ofCode (op % 16))
  let s3 ← orErr .reservedModifier (Stage.ofCode md)
  return .chChain m s1 s2 s3

/-- CV (R93). -/
def decodeCv (m : Mv) (op md : Nat) : Except DecodeErr Instr := do
  let rm ← orErr .reservedOpcode (Rm.ofCode (op / 32))
  let src ← orErr .reservedOpcode (ETy.ofCode (op % 32))
  let res ← orErr .reservedModifier (ETy.ofCode md)
  return .cvCvt m res src rm

/-- A trigger whose modifier must be zero. -/
def plain (md : Nat) (i : Instr) : Except DecodeErr Instr :=
  if md = 0 then .ok i else .error .reservedModifier

/-- SA (Tables 3.7 and 3.11). -/
def decodeSa (m : Mv) (op md : Nat) : Except DecodeErr Instr :=
  match op with
  | 1 => plain md (.saAdd m)
  | 2 => plain md (.saSub m)
  | 3 => plain md (.saAnd m)
  | 4 => plain md (.saOr m)
  | 5 => plain md (.saXor m)
  | 6 => plain md (.saShl m)
  | 7 => plain md (.saShr m)
  | 8 => plain md (.saSar m)
  | 9 => plain md (.saMul m)
  | 10 =>
    if md < 16 then do
      let c ← orErr .reservedModifier (SCond.ofCode (md % 8))
      return .saCmp m (md / 8 == 1) c
    else .error .reservedModifier
  | 11 => plain md (.saMov m)
  | 12 => plain md (.saLi m)
  | 13 => if md = 0 ∨ md = 8 then .ok (.saMin m (md == 8)) else .error .reservedModifier
  | 14 => if md = 0 ∨ md = 8 then .ok (.saMax m (md == 8)) else .error .reservedModifier
  | _ => .error .reservedOpcode

/-- LD. -/
def decodeLd (m : Mv) (op md : Nat) : Except DecodeErr Instr := do
  let g ← orErr .reservedOpcode (ldOp op)
  let sz ← orErr .reservedModifier (Sz.ofCode (md / 4))
  return g m sz (md / 2 % 2 == 1) (md % 2 == 1)

/-- ST. -/
def decodeSt (m : Mv) (op md : Nat) : Except DecodeErr Instr := do
  let g ← orErr .reservedOpcode (stOp op)
  let sz ← orErr .reservedModifier (Sz.ofCode (md / 4))
  if md / 2 % 2 = 1 then .error .reservedModifier else return g m sz (md % 2 == 1)

/-- AT (R95). -/
def decodeAt (m : Mv) (op md : Nat) : Except DecodeErr Instr := do
  let g ← orErr .reservedOpcode (atOp (op % 32))
  let w ← orErr .reservedOpcode (AtW.ofCode (op / 32))
  let sc ← orErr .reservedModifier (Scope.ofCode (md / 4))
  let ord ← orErr .reservedModifier (AOrd.ofCode (md % 4))
  return g m w sc ord

/-- LG. -/
def decodeLg (m : Mv) (op md : Nat) : Except DecodeErr Instr :=
  let withScope (f : Scope → Instr) : Except DecodeErr Instr :=
    if md % 4 = 0 then (orErr .reservedModifier (Scope.ofCode (md / 4))).map f else .error .reservedModifier
  match op with
  | 1 => withScope (.lgPub m)
  | 2 => withScope (.lgAcq m)
  | 3 => withScope (.lgAcqn m)
  | 4 => plain md (.lgDrain m)
  | 5 => plain md (.lgLogst m)
  | _ => .error .reservedOpcode

/-- A trigger whose modifier is a number below 16. -/
def below16 (md : Nat) (f : BitVec 4 → Instr) : Except DecodeErr Instr :=
  if md < 16 then .ok (f (BitVec.ofNat 4 md)) else .error .reservedModifier

/-- A trigger whose modifier is a number below 8. -/
def below8 (md : Nat) (f : BitVec 3 → Instr) : Except DecodeErr Instr :=
  if md < 8 then .ok (f (BitVec.ofNat 3 md)) else .error .reservedModifier

/-- BA. -/
def decodeBa (m : Mv) (op md : Nat) : Except DecodeErr Instr :=
  match op with
  | 1 => plain md (.baBinit m)
  | 2 => plain md (.baArrive m)
  | 3 => plain md (.baWait m)
  | 4 => plain md (.baTest m)
  | 5 => plain md (.baPbar m)
  | 6 => below16 md (.baCbinit m)
  | 7 => below16 md (.baCbresv m)
  | 8 => below16 md (.baCbfill m)
  | 9 => below16 md (.baCbtake m)
  | 10 => below16 md (.baCbfree m)
  | _ => .error .reservedOpcode

/-- MX (R96): the latch stands in opcode bits [7:6]. -/
def decodeMx (m : Mv) (op md : Nat) : Except DecodeErr Instr :=
  let bl := BitVec.ofNat 2 (op / 64)
  let nolatch (r : Except DecodeErr Instr) : Except DecodeErr Instr := if op / 64 = 0 then r else .error .reservedOpcode
  match op % 64 with
  | 1 => nolatch (plain md (.mxCfg m))
  | 2 => plain md (.mxLdb m bl)
  | 3 => below16 md (.mxMmq m bl)
  | 4 => below16 md (.mxMmw m bl)
  | 5 => nolatch (below16 md (.mxZacc m))
  | 6 => nolatch (below16 md (.mxStacc m))
  | 7 => nolatch (below16 md (.mxRdacc m))
  | 8 => nolatch (plain md (.mxKat m))
  | 9 => nolatch (plain md (.mxQstat m))
  | _ => .error .reservedOpcode

/-- GA. -/
def decodeGa (m : Mv) (op md : Nat) : Except DecodeErr Instr :=
  match op with
  | 1 => plain md (.gaGidx m)
  | 2 => plain md (.gaGrows m)
  | 3 => plain md (.gaGstat m)
  | _ => .error .reservedOpcode

/-- SX. -/
def decodeSx (m : Mv) (op md : Nat) : Except DecodeErr Instr :=
  match op with
  | 1 => plain md (.sxCopy2d m)
  | 2 => plain md (.sxCopy2dw m)
  | 3 => below16 md (.sxLoopcopy m)
  | 4 => plain md (.sxStop m)
  | 5 => below8 md (.sxLandresv m)
  | 6 => below8 md (.sxLandsend m)
  | 7 => below8 md (.sxLandclr m)
  | 8 => below8 md (.sxZoneinit m)
  | 9 => plain md (.sxWaitc m)
  | _ => .error .reservedOpcode

/-- CT. -/
def decodeCt (m : Mv) (op md : Nat) : Except DecodeErr Instr :=
  match op with
  | 1 => plain md (.ctBra m)
  | 2 => plain md (.ctBany m)
  | 3 => plain md (.ctBall m)
  | 4 => plain md (.ctBnone m)
  | 5 => if md < 16 then .ok (.ctBscal m (md / 8 == 1) (BitVec.ofNat 3 md)) else .error .reservedModifier
  | 6 => plain md (.ctCall m)
  | 7 => plain md (.ctRet m)
  | 8 => if md < 4 then .ok (.ctBtab m (BitVec.ofNat 2 md)) else .error .reservedModifier
  | 9 => plain md (.ctLoop m)
  | 10 => plain md (.ctAllon m)
  | 11 => plain md (.ctAlloff m)
  | 12 => plain md (.ctMaskg m)
  | 13 => plain md (.ctMasks m)
  | 14 => plain md (.ctSeg m)
  | 15 => plain md (.ctPhase m)
  | 16 => plain md (.ctRoute m)
  | 17 => plain md (.ctYield m)
  | 18 => plain md (.ctExit m)
  | 19 => plain md (.ctWaite m)
  | _ => .error .reservedOpcode

/-- SY. -/
def decodeSy (m : Mv) (op md : Nat) : Except DecodeErr Instr :=
  match op with
  | 1 => plain md (.syTrap m)
  | 2 => plain md (.syRett m)
  | 3 => plain md (.syCsrr m)
  | 4 => plain md (.syCsrw m)
  | 5 => plain md (.syCsrs m)
  | 6 => plain md (.syCsrc m)
  | 7 => plain md (.syIcinv m)
  | 8 => plain md (.syFbar m)
  | 9 => if md < 2 then .ok (.syPref m (md == 1)) else .error .reservedModifier
  | 10 => plain md (.syLaunch m)
  | 11 => plain md (.sySleep m)
  | 12 => plain md (.syQfence m)
  | 13 => plain md (.syRdv m)
  | 14 => plain md (.syWheelq m)
  | _ => .error .reservedOpcode

/-- The operation of a trigger move (R90). -/
def decodeTrigger (u : PortUnit) (m : Mv) (op md : Nat) : Except DecodeErr Instr :=
  match u with
  | .ia0 => decodeIa m false op md
  | .ia1 => decodeIa m true op md
  | .sh => decodeTyped (shOp op) m md
  | .ml => decodeTyped (mlOp op) m md
  | .fm0 => decodeFm m false op md
  | .fm1 => decodeFm m true op md
  | .ch => decodeCh m op md
  | .cv => decodeCv m op md
  | .xs => decodeTyped (xsOp op) m md
  | .sa => decodeSa m op md
  | .ld => decodeLd m op md
  | .st => decodeSt m op md
  | .atm => decodeAt m op md
  | .lg => decodeLg m op md
  | .ba => decodeBa m op md
  | .mx => decodeMx m op md
  | .ga => decodeGa m op md
  | .sx => decodeSx m op md
  | .sf => decodeTyped (sfOp op) m md
  | .ct => decodeCt m op md
  | .sy => decodeSy m op md

/-! The slot. -/

/-- Guard invert (Table 3.2). -/
def slotInv (w : SlotBits) : Bool := w.getLsbD 39
/-- Guard register. -/
def slotGidx (w : SlotBits) : BitVec 4 := w.extractLsb' 35 4
/-- Source code. -/
def slotSrc (w : SlotBits) : BitVec 11 := w.extractLsb' 24 11
/-- Destination code. -/
def slotDst (w : SlotBits) : BitVec 11 := w.extractLsb' 13 11
/-- Opcode byte. -/
def slotOpc (w : SlotBits) : BitVec 8 := w.extractLsb' 5 8
/-- Modifier. -/
def slotMod (w : SlotBits) : BitVec 5 := w.extractLsb' 0 5

/-- The forty bits of a slot from its fields (Table 3.2). -/
def packSlot (inv : Bool) (gidx : BitVec 4) (src dst : BitVec 11) (opc : BitVec 8) (md : BitVec 5) : SlotBits :=
  BitVec.ofBool inv ++ gidx ++ src ++ dst ++ opc ++ md

/-- A move by its fields, before the checks that Instr.wf makes. -/
def decodeFields (m : Mv) (d : DstField) (opc : BitVec 8) (md : BitVec 5) : Except DecodeErr Instr :=
  match d with
  | .null => if opc = 0 ∧ md = 0 then .ok (.nullSinkMove m) else .error .reservedOpcode
  | .reg d => if opc = 0 then .ok (.registerMove m d md) else .error .reservedOpcode
  | .latch u p => if opc = 0 then .ok (.operandPortWrite m u p md) else .error .reservedOpcode
  | .trigger u => decodeTrigger u m opc.toNat md.toNat

/-- The instruction of a move slot, or the name of the check it fails (R80 to R97). -/
def decodeSlot (w : SlotBits) : Except DecodeErr Instr := do
  let src ← decodeSrc (slotSrc w)
  let d ← decodeDst (slotDst w)
  let i ← decodeFields { inv := slotInv w, gidx := (slotGidx w).toNat, src := src } d (slotOpc w) (slotMod w)
  if i.wf then return i else .error .notAccepted

/-! The encoder. -/

/-- A move's forty bits. -/
def packMv (m : Mv) (dst opc md : Nat) : SlotBits :=
  packSlot m.inv (BitVec.ofNat 4 m.gidx) (encodeSrc m.src) (BitVec.ofNat 11 dst) (BitVec.ofNat 8 opc) (BitVec.ofNat 5 md)

/-- The trigger port of IA0 or IA1. -/
def iaPort (u : Bool) : Nat := if u then 0x201 else 0x200
/-- The trigger port of FM0 or FM1. -/
def fmPort (u : Bool) : Nat := if u then 0x205 else 0x204
/-- The size, sign-extend and post-increment bits of a load or store. -/
def memMod (sz : Sz) (sx pi : Bool) : Nat := 4 * sz.code + 2 * sx.toNat + pi.toNat
/-- The scope and order bits of an atomic. -/
def atMod (sc : Scope) (ord : AOrd) : Nat := 4 * sc.code + ord.code

/-- The forty bits of a move; none for an event, which has no encoding. -/
def encode : Instr → Option SlotBits
  | .registerMove m d fill => some (packMv m d.code 0 fill.toNat)
  | .operandPortWrite m u p fill => some (packMv m (0x100 + 8 * u.code + p.code) 0 fill.toNat)
  | .nullSinkMove m => some (packMv m 0 0 0)
  | .iaAdd m u ty => some (packMv m (iaPort u) 1 ty.code)
  | .iaSub m u ty => some (packMv m (iaPort u) 2 ty.code)
  | .iaAdds m u ty => some (packMv m (iaPort u) 3 ty.code)
  | .iaSubs m u ty => some (packMv m (iaPort u) 4 ty.code)
  | .iaNeg m u ty => some (packMv m (iaPort u) 5 ty.code)
  | .iaNegs m u ty => some (packMv m (iaPort u) 6 ty.code)
  | .iaAbs m u ty => some (packMv m (iaPort u) 7 ty.code)
  | .iaAbss m u ty => some (packMv m (iaPort u) 8 ty.code)
  | .iaMin m u ty => some (packMv m (iaPort u) 9 ty.code)
  | .iaMax m u ty => some (packMv m (iaPort u) 10 ty.code)
  | .iaAnd m u ty => some (packMv m (iaPort u) 11 ty.code)
  | .iaOr m u ty => some (packMv m (iaPort u) 12 ty.code)
  | .iaXor m u ty => some (packMv m (iaPort u) 13 ty.code)
  | .iaAndn m u ty => some (packMv m (iaPort u) 14 ty.code)
  | .iaNot m u ty => some (packMv m (iaPort u) 15 ty.code)
  | .iaCmpeq m u ty => some (packMv m (iaPort u) 16 ty.code)
  | .iaCmpne m u ty => some (packMv m (iaPort u) 17 ty.code)
  | .iaCmplt m u ty => some (packMv m (iaPort u) 18 ty.code)
  | .iaCmple m u ty => some (packMv m (iaPort u) 19 ty.code)
  | .iaCmpgt m u ty => some (packMv m (iaPort u) 20 ty.code)
  | .iaCmpge m u ty => some (packMv m (iaPort u) 21 ty.code)
  | .iaSel m u ty => some (packMv m (iaPort u) 22 ty.code)
  | .iaClz m u ty => some (packMv m (iaPort u) 23 ty.code)
  | .iaPopc m u ty => some (packMv m (iaPort u) 24 ty.code)
  | .iaBrev m u ty => some (packMv m (iaPort u) 25 ty.code)
  | .iaAvg m u ty => some (packMv m (iaPort u) 26 ty.code)
  | .iaAdc m u ty => some (packMv m (iaPort u) 27 ty.code)
  | .iaSbb m u ty => some (packMv m (iaPort u) 28 ty.code)
  | .mlMul m ty => some (packMv m 0x203 1 ty.code)
  | .mlMulhi m ty => some (packMv m 0x203 2 ty.code)
  | .mlMad m ty => some (packMv m 0x203 3 ty.code)
  | .mlMadw m ty => some (packMv m 0x203 4 ty.code)
  | .mlDot4 m ty => some (packMv m 0x203 5 ty.code)
  | .shShl m ty => some (packMv m 0x202 1 ty.code)
  | .shShr m ty => some (packMv m 0x202 2 ty.code)
  | .shSar m ty => some (packMv m 0x202 3 ty.code)
  | .shRol m ty => some (packMv m 0x202 4 ty.code)
  | .shRor m ty => some (packMv m 0x202 5 ty.code)
  | .shBfe m ty => some (packMv m 0x202 6 ty.code)
  | .shBfi m ty => some (packMv m 0x202 7 ty.code)
  | .shFunl m ty => some (packMv m 0x202 8 ty.code)
  | .shPerm m ty => some (packMv m 0x202 9 ty.code)
  | .fmFadd m u rm ty => some (packMv m (fmPort u) (32 * rm.code + 1) ty.code)
  | .fmFsub m u rm ty => some (packMv m (fmPort u) (32 * rm.code + 2) ty.code)
  | .fmFmul m u rm ty => some (packMv m (fmPort u) (32 * rm.code + 3) ty.code)
  | .fmFma m u rm ty => some (packMv m (fmPort u) (32 * rm.code + 4) ty.code)
  | .fmFnma m u rm ty => some (packMv m (fmPort u) (32 * rm.code + 5) ty.code)
  | .fmFrint m u rm ty => some (packMv m (fmPort u) (32 * rm.code + 6) ty.code)
  | .fmFscale m u rm ty => some (packMv m (fmPort u) (32 * rm.code + 7) ty.code)
  | .fmFmin m u ty => some (packMv m (fmPort u) 8 ty.code)
  | .fmFmax m u ty => some (packMv m (fmPort u) 9 ty.code)
  | .fmFminp m u ty => some (packMv m (fmPort u) 10 ty.code)
  | .fmFmaxp m u ty => some (packMv m (fmPort u) 11 ty.code)
  | .fmFcmp m u c ty => some (packMv m (fmPort u) (32 * c.code + 12) ty.code)
  | .fmFclass m u ty => some (packMv m (fmPort u) 13 ty.code)
  | .fmFsgn m u o ty => some (packMv m (fmPort u) (32 * o.code + 14) ty.code)
  | .chChain m s1 s2 s3 => some (packMv m 0x206 (16 * s1.code + s2.code) s3.code)
  | .cvCvt m res src rm => some (packMv m 0x207 (32 * rm.code + src.code) res.code)
  | .xsShfl m ty => some (packMv m 0x208 1 ty.code)
  | .xsShflup m ty => some (packMv m 0x208 2 ty.code)
  | .xsShfldn m ty => some (packMv m 0x208 3 ty.code)
  | .xsShflx m ty => some (packMv m 0x208 4 ty.code)
  | .xsBcast m ty => some (packMv m 0x208 5 ty.code)
  | .xsVoteany m ty => some (packMv m 0x208 6 ty.code)
  | .xsVoteall m ty => some (packMv m 0x208 7 ty.code)
  | .xsBallot m ty => some (packMv m 0x208 8 ty.code)
  | .xsRedadd m ty => some (packMv m 0x208 9 ty.code)
  | .xsRedmax m ty => some (packMv m 0x208 10 ty.code)
  | .xsRedmin m ty => some (packMv m 0x208 11 ty.code)
  | .xsScanadd m ty => some (packMv m 0x208 12 ty.code)
  | .xsMatch m ty => some (packMv m 0x208 13 ty.code)
  | .saAdd m => some (packMv m 0x209 1 0)
  | .saSub m => some (packMv m 0x209 2 0)
  | .saAnd m => some (packMv m 0x209 3 0)
  | .saOr m => some (packMv m 0x209 4 0)
  | .saXor m => some (packMv m 0x209 5 0)
  | .saShl m => some (packMv m 0x209 6 0)
  | .saShr m => some (packMv m 0x209 7 0)
  | .saSar m => some (packMv m 0x209 8 0)
  | .saMul m => some (packMv m 0x209 9 0)
  | .saCmp m uns c => some (packMv m 0x209 10 (8 * uns.toNat + c.code))
  | .saMov m => some (packMv m 0x209 11 0)
  | .saLi m => some (packMv m 0x209 12 0)
  | .saMin m uns => some (packMv m 0x209 13 (8 * uns.toNat))
  | .saMax m uns => some (packMv m 0x209 14 (8 * uns.toNat))
  | .ldLdg m sz sx pi => some (packMv m 0x20A 1 (memMod sz sx pi))
  | .ldLds m sz sx pi => some (packMv m 0x20A 2 (memMod sz sx pi))
  | .ldLdl m sz sx pi => some (packMv m 0x20A 3 (memMod sz sx pi))
  | .ldLdb m sz sx pi => some (packMv m 0x20A 4 (memMod sz sx pi))
  | .ldLdsc m sz sx pi => some (packMv m 0x20A 5 (memMod sz sx pi))
  | .ldLdnt m sz sx pi => some (packMv m 0x20A 6 (memMod sz sx pi))
  | .stStg m sz pi => some (packMv m 0x20B 1 (memMod sz false pi))
  | .stSts m sz pi => some (packMv m 0x20B 2 (memMod sz false pi))
  | .stStsc m sz pi => some (packMv m 0x20B 3 (memMod sz false pi))
  | .stStnt m sz pi => some (packMv m 0x20B 4 (memMod sz false pi))
  | .atAdd m w sc ord => some (packMv m 0x20C (32 * w.code + 1) (atMod sc ord))
  | .atSub m w sc ord => some (packMv m 0x20C (32 * w.code + 2) (atMod sc ord))
  | .atMin m w sc ord => some (packMv m 0x20C (32 * w.code + 3) (atMod sc ord))
  | .atMax m w sc ord => some (packMv m 0x20C (32 * w.code + 4) (atMod sc ord))
  | .atMinu m w sc ord => some (packMv m 0x20C (32 * w.code + 5) (atMod sc ord))
  | .atMaxu m w sc ord => some (packMv m 0x20C (32 * w.code + 6) (atMod sc ord))
  | .atAnd m w sc ord => some (packMv m 0x20C (32 * w.code + 7) (atMod sc ord))
  | .atOr m w sc ord => some (packMv m 0x20C (32 * w.code + 8) (atMod sc ord))
  | .atXor m w sc ord => some (packMv m 0x20C (32 * w.code + 9) (atMod sc ord))
  | .atXchg m w sc ord => some (packMv m 0x20C (32 * w.code + 10) (atMod sc ord))
  | .atCas m w sc ord => some (packMv m 0x20C (32 * w.code + 11) (atMod sc ord))
  | .atInc m w sc ord => some (packMv m 0x20C (32 * w.code + 12) (atMod sc ord))
  | .atFadd m w sc ord => some (packMv m 0x20C (32 * w.code + 13) (atMod sc ord))
  | .lgPub m sc => some (packMv m 0x20D 1 (4 * sc.code))
  | .lgAcq m sc => some (packMv m 0x20D 2 (4 * sc.code))
  | .lgAcqn m sc => some (packMv m 0x20D 3 (4 * sc.code))
  | .lgDrain m => some (packMv m 0x20D 4 0)
  | .lgLogst m => some (packMv m 0x20D 5 0)
  | .baBinit m => some (packMv m 0x20E 1 0)
  | .baArrive m => some (packMv m 0x20E 2 0)
  | .baWait m => some (packMv m 0x20E 3 0)
  | .baTest m => some (packMv m 0x20E 4 0)
  | .baPbar m => some (packMv m 0x20E 5 0)
  | .baCbinit m cb => some (packMv m 0x20E 6 cb.toNat)
  | .baCbresv m cb => some (packMv m 0x20E 7 cb.toNat)
  | .baCbfill m cb => some (packMv m 0x20E 8 cb.toNat)
  | .baCbtake m cb => some (packMv m 0x20E 9 cb.toNat)
  | .baCbfree m cb => some (packMv m 0x20E 10 cb.toNat)
  | .mxCfg m => some (packMv m 0x20F 1 0)
  | .mxLdb m bl => some (packMv m 0x20F (64 * bl.toNat + 2) 0)
  | .mxMmq m bl acc => some (packMv m 0x20F (64 * bl.toNat + 3) acc.toNat)
  | .mxMmw m bl acc => some (packMv m 0x20F (64 * bl.toNat + 4) acc.toNat)
  | .mxZacc m acc => some (packMv m 0x20F 5 acc.toNat)
  | .mxStacc m acc => some (packMv m 0x20F 6 acc.toNat)
  | .mxRdacc m acc => some (packMv m 0x20F 7 acc.toNat)
  | .mxKat m => some (packMv m 0x20F 8 0)
  | .mxQstat m => some (packMv m 0x20F 9 0)
  | .gaGidx m => some (packMv m 0x210 1 0)
  | .gaGrows m => some (packMv m 0x210 2 0)
  | .gaGstat m => some (packMv m 0x210 3 0)
  | .sxCopy2d m => some (packMv m 0x211 1 0)
  | .sxCopy2dw m => some (packMv m 0x211 2 0)
  | .sxLoopcopy m cb => some (packMv m 0x211 3 cb.toNat)
  | .sxStop m => some (packMv m 0x211 4 0)
  | .sxLandresv m z => some (packMv m 0x211 5 z.toNat)
  | .sxLandsend m z => some (packMv m 0x211 6 z.toNat)
  | .sxLandclr m z => some (packMv m 0x211 7 z.toNat)
  | .sxZoneinit m z => some (packMv m 0x211 8 z.toNat)
  | .sxWaitc m => some (packMv m 0x211 9 0)
  | .sfEx2 m ty => some (packMv m 0x212 1 ty.code)
  | .sfLg2 m ty => some (packMv m 0x212 2 ty.code)
  | .sfRcp m ty => some (packMv m 0x212 3 ty.code)
  | .sfRsq m ty => some (packMv m 0x212 4 ty.code)
  | .sfSqrt m ty => some (packMv m 0x212 5 ty.code)
  | .sfSinpi m ty => some (packMv m 0x212 6 ty.code)
  | .sfCospi m ty => some (packMv m 0x212 7 ty.code)
  | .sfTanh m ty => some (packMv m 0x212 8 ty.code)
  | .sfErf m ty => some (packMv m 0x212 9 ty.code)
  | .ctBra m => some (packMv m 0x213 1 0)
  | .ctBany m => some (packMv m 0x213 2 0)
  | .ctBall m => some (packMv m 0x213 3 0)
  | .ctBnone m => some (packMv m 0x213 4 0)
  | .ctBscal m z k => some (packMv m 0x213 5 (8 * z.toNat + k.toNat))
  | .ctCall m => some (packMv m 0x213 6 0)
  | .ctRet m => some (packMv m 0x213 7 0)
  | .ctBtab m n => some (packMv m 0x213 8 n.toNat)
  | .ctLoop m => some (packMv m 0x213 9 0)
  | .ctAllon m => some (packMv m 0x213 10 0)
  | .ctAlloff m => some (packMv m 0x213 11 0)
  | .ctMaskg m => some (packMv m 0x213 12 0)
  | .ctMasks m => some (packMv m 0x213 13 0)
  | .ctSeg m => some (packMv m 0x213 14 0)
  | .ctPhase m => some (packMv m 0x213 15 0)
  | .ctRoute m => some (packMv m 0x213 16 0)
  | .ctYield m => some (packMv m 0x213 17 0)
  | .ctExit m => some (packMv m 0x213 18 0)
  | .ctWaite m => some (packMv m 0x213 19 0)
  | .syTrap m => some (packMv m 0x214 1 0)
  | .syRett m => some (packMv m 0x214 2 0)
  | .syCsrr m => some (packMv m 0x214 3 0)
  | .syCsrw m => some (packMv m 0x214 4 0)
  | .syCsrs m => some (packMv m 0x214 5 0)
  | .syCsrc m => some (packMv m 0x214 6 0)
  | .syIcinv m => some (packMv m 0x214 7 0)
  | .syFbar m => some (packMv m 0x214 8 0)
  | .syPref m l2 => some (packMv m 0x214 9 l2.toNat)
  | .syLaunch m => some (packMv m 0x214 10 0)
  | .sySleep m => some (packMv m 0x214 11 0)
  | .syQfence m => some (packMv m 0x214 12 0)
  | .syRdv m => some (packMv m 0x214 13 0)
  | .syWheelq m => some (packMv m 0x214 14 0)
  | .exposedResultLand _ | .waveExchange _ | .translationWalkDone _ | .ldEntryArrive _ _ | .loadNoResponse _ _
  | .atHomePerform _ | .atResend _ _ | .atResendTimeout _ _ | .atTagExpire _ _ _ | .spillMove _ | .logFullDrain _
  | .markStand _ | .acquireComplete _ | .drainComplete _ | .compactMark _ _ | .scPerform _ | .domainCountWarning
  | .stampLimitStop | .baWaitSatisfy _ | .baPbarComplete _ | .cbSlotReady _ _ | .mxCommandPerform _ | .mxIdle _
  | .mxWakeAdmit _ | .mxWakeStart _ | .gaComplete _ | .sfResult _ | .copy2dwStart _ | .sxCopyComplete _
  | .loopcopyIteration _ _ | .completionRecordWrite _ | .waitcSatisfy _ | .landresvReceive _ | .landsendReceive _
  | .landsendWriteComplete _ _ | .landclrRemoteReceive _ | .landfallResponse _ | .plotClearEffect _ _
  | .plotLeaseExpire _ _ _ | .failureNoticeReceive _ | .phaseEnd _ | .phaseStart _ | .taskAssign _ | .partyEnd _
  | .sleepExpire _ | .detectedError _ | .segRerunEnd _ | .twinRecordCompare _ | .twinEscapePerform _
  | .correctedError _ _ _ | .uncorrectableHbmError _ | .packetHead _ | .packetAge _ | .schedulePlace _
  | .preemptHaltComplete _ | .haltTimeout _ | .contextResume _ | .sliceSwitch _ | .launchComplete _ | .doneRecordWrite _
  | .wqtailWrite _ _ | .queueKill _ | .peerPacketReceive _ _ _ | .partitionEnable _ | .registerWrite _ _ _
  | .tlbinvInterface _ | .tlbinvAsid _ _ | .tlbinvVaRange _ _ _ _ | .tlbinvGpaRange _ _ _ | .tlbinvComplete _
  | .poisonSet _ | .poisonClear _ | .poisonCmdComplete | .placeSet _ _ | .placeQuery _ | .legendCommit _ _ _
  | .legendClear _ _ _ | .legendClearComplete _ | .mtcapWrite _ _ | .portEnable _ | .portDisable _ | .portTrainUp _ _ _
  | .portTrainTimeout _ | .portFail _ | .domainBringUp | .domainJoin _ _ | .domainDown | .fabricSubmit _
  | .fabricSubmitAnswer _ | .fabricSubmitTimeout | .zonePlotRead _ _ _ | .zoneClose _ _ | .counterClear _ | .counterSnap _
  | .snapall | .vcounterSnap _ | .dutyUpdate _ _ | .thermalTrip | .standbyPowerOn _ | .mcfwStart _ _ _ | .ccCore0Release
  | .ccfwStage3 _ _ | .moduleReset | .containerLoad _ _ _ | .patchCommit _ | .demandPageLoad _ _ _ _ | .quote _ | .query
  | .readbook _ | .preserve | .release _ _ | .retire _ _ | .returnCore _ _ | .raisemin _ _ _ | .loadlist _ _ | .reset _
  | .atResponseArrive _ _ _ | .remoteLoadRequest _ _ _ _ | .remoteRecordReceive _ | .fabricForward _ _ | .logLost _ _
  | .controlComplexAccess _ _ _ _ _ | .containerUnload _ | .powerLoss => none

/-- A move of a bundle, that is, an instruction with an encoding; the others are events. -/
def Instr.isMove (i : Instr) : Bool := (encode i).isSome

/-! The bundle (Table 3.1). -/

/-- CLASS. -/
def bundleClass (b : Bundle) : BitVec 3 := b.extractLsb' 253 3
/-- LIMM: bit s is set when slot s holds a long immediate. -/
def bundleLimm (b : Bundle) : BitVec 6 := b.extractLsb' 247 6
/-- SEG. -/
def bundleSeg (b : Bundle) : Bool := b.getLsbD 246
/-- SER. -/
def bundleSer (b : Bundle) : Bool := b.getLsbD 245
/-- Header bits 4:0. -/
def bundleLow (b : Bundle) : BitVec 5 := b.extractLsb' 240 5
/-- Slot s. -/
def bundleSlot (b : Bundle) (s : Nat) : SlotBits := b.extractLsb' (200 - 40 * s) 40
/-- A loop-class bundle. -/
def bundleLoop (b : Bundle) : Bool := bundleClass b == 1
/-- Slots of the bundle that can hold a move. -/
def bundleMoveSlots (b : Bundle) : Nat := if bundleLoop b then 5 else 6
/-- Slot s holds a move: it is no long immediate and no address-update slot. -/
def bundleIsMove (b : Bundle) (s : Nat) : Bool := decide (s < bundleMoveSlots b) && !(bundleLimm b).getLsbD s

/-- The header's own checks (R38, R77, R78), in a bundle that is to be performed. -/
def checkHeader (b : Bundle) : Except DecodeErr Unit :=
  if bundleClass b = 2 then .error .tableReached
  else if 3 ≤ (bundleClass b).toNat then .error .reservedClass
  else if bundleLow b ≠ 0 then .error .headerBits
  else if bundleLoop b && (bundleLimm b).getLsbD 5 then .error .headerBits
  else .ok ()

/-- An address update (Table 3.12): register, step in bytes. -/
structure Update where
  reg : Nat
  step : Int
  deriving DecidableEq, Repr

/-- One half of the address-update slot: absent, an update, or malformed (R98, R99). -/
def decodeUpdate (x : BitVec 20) : Except DecodeErr (Option Update) :=
  if x.getLsbD 19 then
    .ok (some { reg := (x.extractLsb' 15 4).toNat, step := (x.extractLsb' 0 14).toInt * (if x.getLsbD 14 then 64 else 1) })
  else if x = 0 then .ok none
  else .error .malformedUpdate

/-- The address updates of slot 5 of a loop-class bundle (R98, R99). -/
def decodeUpdates (w : SlotBits) : Except DecodeErr (List Update) := do
  let a ← decodeUpdate (w.extractLsb' 20 20)
  let b ← decodeUpdate (w.extractLsb' 0 20)
  match a, b with
  | some u, some v => if u.reg = v.reg then .error .malformedUpdate else return [u, v]
  | some u, none => return [u]
  | none, some v => return [v]
  | none, none => return []

/-- COUNT of a table bundle (Table 3.13). -/
def tableCount (b : Bundle) : Nat := (b.extractLsb' 232 8).toNat
/-- JOIN. -/
def tableJoin (b : Bundle) : BitVec 24 := b.extractLsb' 208 24
/-- ENTRY e. -/
def tableEntry (b : Bundle) (e : Nat) : BitVec 24 := b.extractLsb' (184 - 24 * e) 24

/-- Table bundle j of n is well formed (R101). -/
def tableBundleOk (n j : Nat) (b : Bundle) : Bool :=
  bundleClass b == 2 && b.extractLsb' 240 13 == 0 && decide (1 ≤ tableCount b) && decide (tableCount b ≤ 8) &&
  (decide (j + 1 = n) || tableCount b == 8) && (j == 0 || tableJoin b == 0) &&
  (List.range 8).all (fun e => decide (e < tableCount b) || tableEntry b e == 0) && b.extractLsb' 0 16 == 0

/-- Every bundle of a table is well formed (R101). -/
def tableOk (bs : List Bundle) : Bool :=
  (List.range bs.length).all (fun j => match bs[j]? with
    | some b => tableBundleOk bs.length j b
    | none => false)

/-- The listed targets of a table, in order (R100). -/
def tableTargets (bs : List Bundle) : List (BitVec 24) :=
  bs.flatMap (fun b => (List.range (tableCount b)).map (tableEntry b))

/-- A bundle from its header and six slots. -/
def packBundle (hdr : BitVec 16) (s0 s1 s2 s3 s4 s5 : SlotBits) : Bundle :=
  hdr ++ s0 ++ s1 ++ s2 ++ s3 ++ s4 ++ s5

/-- The instruction a bundle carries first: its first move that is not the no-op, in slot order. -/
def firstMove (b : Bundle) : Option Instr :=
  (List.range 6).findSome? (fun s =>
    if bundleIsMove b s && bundleSlot b s != 0 then (decodeSlot (bundleSlot b s)).toOption else none)

/-- The opcode table's word: forty bits or fewer are one slot, placed in slot 0 of a normal bundle; more are the low bits of
a whole bundle. Log 7. -/
def tableBundleWord (nbits w : Nat) : Bundle :=
  if nbits ≤ 40 then packBundle 0 (BitVec.ofNat 40 w) 0 0 0 0 0 else BitVec.ofNat 256 w

/-- The instruction the decoder reads from an opcode-table word. -/
def decodeTableWord (nbits w : Nat) : Option Instr :=
  if nbits ≤ 40 then (decodeSlot (BitVec.ofNat 40 w)).toOption
  else match checkHeader (tableBundleWord nbits w) with
    | .ok _ => firstMove (tableBundleWord nbits w)
    | .error _ => none

end Sys2Proof
end

