-- ==== Sys2Proof/Machine/Tab.lean ====
section
/-!
DEFINITION. Sparse tables: a list of numbered entries. A number that is missing stands for the reset value the reader names.
-/
namespace Sys2Proof.Machine

/-- The entry of a number. -/
def Tab.get? {α : Type} : List (Nat × α) → Nat → Option α
  | [], _ => none
  | (k, v) :: t, n => if k = n then some v else Tab.get? t n

/-- The entry of a number, or the reset value d. -/
def Tab.getD {α : Type} (t : List (Nat × α)) (n : Nat) (d : α) : α := (Tab.get? t n).getD d

/-- Replaces the entry of a number, or adds it. -/
def Tab.set {α : Type} : List (Nat × α) → Nat → α → List (Nat × α)
  | [], n, a => [(n, a)]
  | (k, v) :: t, n, a => if k = n then (n, a) :: t else (k, v) :: Tab.set t n a

/-- Removes the entry of a number. -/
def Tab.erase {α : Type} (t : List (Nat × α)) (n : Nat) : List (Nat × α) := t.filter (fun p => p.1 != n)

/-- Changes the entry of a number, which is d if it is missing. -/
def Tab.upd {α : Type} (t : List (Nat × α)) (n : Nat) (d : α) (f : α → α) : List (Nat × α) :=
  Tab.set t n (f (Tab.getD t n d))

/-- Changes the entry of a number that is present. -/
def Tab.modify {α : Type} (t : List (Nat × α)) (n : Nat) (f : α → α) : List (Nat × α) :=
  match Tab.get? t n with
  | some a => Tab.set t n (f a)
  | none => t

/-- Element n of a list, or d. -/
def nth {α : Type} (l : List α) (n : Nat) (d : α) : α := l.getD n d

/-- The list with element n replaced; unchanged where the list is shorter. -/
def setNth {α : Type} : List α → Nat → α → List α
  | [], _, _ => []
  | _ :: t, 0, a => a :: t
  | x :: t, n + 1, a => x :: setNth t n a

/-- The entries of a list with their places. -/
def enum {α : Type} (l : List α) : List (Nat × α) := (List.range l.length).zip l

/-- The least element under a natural measure, the first of equals. -/
def leastBy {α : Type} (f : α → Nat) : List α → Option α
  | [] => none
  | a :: t =>
    match leastBy f t with
    | some b => if f b < f a then some b else some a
    | none => some a

end Sys2Proof.Machine
end

