-- ==== Sys2Proof/Machine/Bits.lean ====
section
/-!
DEFINITION. Bit fields, byte order, sign extension and the elements of a lane (R7, R47, R49, R59).
-/
namespace Sys2Proof.Machine

/-- Bits hi:lo of a number. -/
def bits (x hi lo : Nat) : Nat := (x >>> lo) % 2 ^ (hi + 1 - lo)

/-- Bit i of a number. -/
def bit (x i : Nat) : Bool := x.testBit i

/-- The two's-complement value of the low w bits. -/
def sint (w x : Nat) : Int :=
  let y := x % 2 ^ w
  if y ≥ 2 ^ (w - 1) ∧ 0 < w then (y : Int) - (2 ^ w : Nat) else y

/-- An integer modulo 2^w. -/
def wrap (w : Nat) (x : Int) : Nat := (x % ((2 ^ w : Nat) : Int)).toNat

/-- The smaller and larger integer, and the clamp of a range. -/
def imin (a b : Int) : Int := if a ≤ b then a else b
def imax (a b : Int) : Int := if a ≤ b then b else a
def clamp (lo hi x : Int) : Int := imax lo (imin hi x)

/-- The n low bytes of a number, lowest first (R7). -/
def bytesOf : Nat → Nat → List Byte
  | 0, _ => []
  | n + 1, x => BitVec.ofNat 8 x :: bytesOf n (x / 256)

/-- The number a list of bytes holds, lowest first (R7). -/
def ofBytes : List Byte → Nat
  | [] => 0
  | b :: t => b.toNat + 256 * ofBytes t

/-- Bits an element of a type takes in a register (Table 2.1). -/
def ETy.width : ETy → Nat
  | .f32 | .s32 | .n32 => 32
  | .bf16 | .f16 | .s16 | .n16 => 16
  | .s64 | .n64 => 64
  | .k4 | .s4 | .n4 | .bfp2 | .bfp3 | .bfp4 => 4
  | .k8a | .k8b | .k6a | .k6b | .s8 | .n8 | .bfp5 | .bfp6 | .bfp7 | .bfp8 => 8

/-- The .s types, read as two's complement. -/
def ETy.signed : ETy → Bool
  | .s4 | .s8 | .s16 | .s32 | .s64 => true
  | _ => false

/-- Element i of width w of a lane (R47). -/
def elem (w : Nat) (x : Lane) (i : Nat) : Nat := (x.toNat >>> (w * i)) % 2 ^ w

/-- Elements of width w, element 0 first, as a number. -/
def packNat (w : Nat) : List Nat → Nat
  | [] => 0
  | e :: t => e % 2 ^ w + 2 ^ w * packNat w t

/-- Elements of width w as a lane (R47). -/
def packLane (w : Nat) (es : List Nat) : Lane := BitVec.ofNat 128 (packNat w es)

/-- The lane whose element i is f i, for elements of width w. -/
def mapElems (w : Nat) (f : Nat → Nat) : Lane := packLane w ((List.range (128 / w)).map f)

/-- An element read by the signedness of its type (R112). -/
def ETy.read (ty : ETy) (e : Nat) : Int := if ETy.signed ty then sint (ETy.width ty) e else e

/-- The smallest and largest value of an integer type (R55). -/
def ETy.imin (ty : ETy) : Int := if ETy.signed ty then -((2 ^ (ETy.width ty - 1) : Nat) : Int) else 0
def ETy.imax (ty : ETy) : Int :=
  if ETy.signed ty then ((2 ^ (ETy.width ty - 1) : Nat) : Int) - 1 else ((2 ^ ETy.width ty : Nat) : Int) - 1

/-- A value repeated in every element of width w (Table 1.2). -/
def splat (w : Nat) (x : Nat) : Lane := mapElems w (fun _ => x)

/-! Lane masks. -/

/-- The mask of the first n lanes. -/
def lanesBelow (n : Nat) : BitVec 64 := BitVec.ofNat 64 (2 ^ n - 1)

/-- The lanes of a mask, lowest first. -/
def lanesOf (m : BitVec 64) : List Nat := (List.range 64).filter (fun i => m.getLsbD i)

/-- The lowest lane of a mask. -/
def lowest (m : BitVec 64) : Option Nat := (List.range 64).find? (fun i => m.getLsbD i)

/-- The mask of the lanes that satisfy a test. -/
def maskOf (p : Nat → Bool) : BitVec 64 :=
  BitVec.ofNat 64 ((List.range 64).foldl (fun acc i => if p i then acc + 2 ^ i else acc) 0)

/-- Number of lanes of a mask. -/
def popcount (m : BitVec 64) : Nat := (lanesOf m).length

/-- Lane L of a list of lanes; a lane beyond the list holds zero. -/
def laneAt (l : List Lane) (L : Nat) : Lane := l.getD L 0

/-- The lanes with those of the mask taken from another list. -/
def mergeLanes (n : Nat) (m : BitVec 64) (new old : List Lane) : List Lane :=
  (List.range n).map (fun L => if m.getLsbD L then laneAt new L else laneAt old L)

/-- Repeats a move's fill over a lane (Table 1.2). -/
def fillLane (fill : Nat) (x : Lane) : Lane :=
  match fill with
  | 1 => splat 8 x.toNat
  | 2 => splat 16 x.toNat
  | 3 => splat 32 x.toNat
  | 4 => splat 64 x.toNat
  | _ => x

end Sys2Proof.Machine
end

