-- ==== Sys2Proof/Machine/Formats.lean ====
section
/-!
DEFINITION. Floating formats and their arithmetic (Chapter 2): the value of a code, exact sums and products, RoundTo,
RoundIntegral, the stochastic draw, block scales.
-/
namespace Sys2Proof.Machine

/-- A floating format: width, fraction width, bias, and whether it is one of the Krytavo narrow floats (Tables 2.2, 2.3). -/
structure Fmt where
  w : Nat
  m : Nat
  bias : Nat
  narrow : Bool
  deriving DecidableEq, Repr

/-- FP32. -/
def fp32 : Fmt := { w := 32, m := 23, bias := 127, narrow := false }
/-- BF16. -/
def bf16 : Fmt := { w := 16, m := 7, bias := 127, narrow := false }
/-- FP16. -/
def fp16 : Fmt := { w := 16, m := 10, bias := 15, narrow := false }

/-- The format of a floating type; FP32 for a type that is not floating. -/
def fmtOf : ETy → Fmt
  | .bf16 => bf16
  | .f16 => fp16
  | .k8a => { w := 8, m := 3, bias := 8, narrow := true }
  | .k8b => { w := 8, m := 2, bias := 16, narrow := true }
  | .k6a => { w := 6, m := 2, bias := 4, narrow := true }
  | .k6b => { w := 6, m := 3, bias := 2, narrow := true }
  | .k4 => { w := 4, m := 1, bias := 2, narrow := true }
  | _ => fp32

/-- The code of the largest finite magnitude. -/
def Fmt.maxCode (f : Fmt) : Nat :=
  if f.narrow then 2 ^ (f.w - 1) - 1 else (2 ^ (f.w - 1 - f.m) - 1) * 2 ^ f.m - 1

/-- The sign bit. -/
def Fmt.signBit (f : Fmt) : Nat := 2 ^ (f.w - 1)

/-- The code of +∞ of an IEEE format. -/
def Fmt.infCode (f : Fmt) : Nat := (2 ^ (f.w - 1 - f.m) - 1) * 2 ^ f.m

/-- The canonical NaN (Table 2.2), or the NaN code of a narrow format (Table 2.3). -/
def Fmt.nan (f : Fmt) : Nat := if f.narrow then f.signBit else f.infCode + 2 ^ (f.m - 1)

/-- The exponent of the smallest normal (R63). -/
def Fmt.emin (f : Fmt) : Int := 1 - (f.bias : Int)

/-- An exact value: NaN, an infinity, or (−1)^neg × num / den × 2^ex with den positive; a zero keeps its sign. -/
inductive XVal
  | nan
  | inf (neg : Bool)
  | fin (neg : Bool) (num den : Nat) (ex : Int)
  deriving DecidableEq, Repr

/-- A zero. -/
def XVal.zero (neg : Bool) : XVal := .fin neg 0 1 0

/-- An integer. -/
def XVal.ofInt (x : Int) : XVal := .fin (x < 0) x.natAbs 1 0

/-- A zero of either sign. -/
def XVal.isZero : XVal → Bool
  | .fin _ n _ _ => n == 0
  | _ => false

/-- NaN. -/
def XVal.isNan : XVal → Bool
  | .nan => true
  | _ => false

/-- The sign; that of a NaN is positive. -/
def XVal.isNeg : XVal → Bool
  | .nan => false
  | .inf n => n
  | .fin n _ _ _ => n

/-- The value of a code (R50, R53). -/
def Fmt.value (f : Fmt) (code : Nat) : XVal :=
  let c := code % 2 ^ f.w
  let s := c ≥ f.signBit
  let mag := c % f.signBit
  let e := mag / 2 ^ f.m
  let fr := mag % 2 ^ f.m
  if f.narrow ∧ c = f.signBit then .nan
  else if ¬ f.narrow ∧ mag > f.infCode then .nan
  else if ¬ f.narrow ∧ mag = f.infCode then .inf s
  else if e = 0 then .fin s fr 1 (f.emin - f.m)
  else .fin s (2 ^ f.m + fr) 1 ((e : Int) - f.bias - f.m)

/-- A subnormal code. -/
def Fmt.isSub (f : Fmt) (code : Nat) : Bool :=
  let mag := code % 2 ^ f.w % f.signBit
  mag != 0 && decide (mag < 2 ^ f.m)

/-- The code of an operand after FIN: a subnormal of an IEEE format reads as a zero of its sign (R66). -/
def Fmt.afterFin (f : Fmt) (fin : Bool) (code : Nat) : Nat :=
  let c := code % 2 ^ f.w
  if fin && !f.narrow && f.isSub c then c / f.signBit * f.signBit else c

/-- Rounding modes: Table 2.7 without DYN. -/
inductive RMode
  | rne | rtz | rup | rdn | sr
  deriving DecidableEq, Repr

/-- FPC's fields (Table 2.6). -/
def fpcSeed (fpc : Word) : Nat := bits fpc.toNat 63 32
def fpcFres (fpc : Word) : Bool := fpc.getLsbD 5
def fpcFin (fpc : Word) : Bool := fpc.getLsbD 4
def fpcOvf (fpc : Word) : Bool := fpc.getLsbD 3
def fpcRm (fpc : Word) : RMode :=
  match bits fpc.toNat 2 0 with
  | 1 => .rtz
  | 2 => .rup
  | 3 => .rdn
  | 4 => .sr
  | _ => .rne

/-- A write of FPC (R60, R61): reserved bits read zero; RM 5 to 7 leaves RM as it was. -/
def fpcWrite (old new : Word) : Word :=
  let keep := new &&& 0xFFFFFFFF00000038#64
  if bits new.toNat 2 0 ≤ 4 then keep ||| (new &&& 7) else keep ||| (old &&& 7)

/-- The mode a rounding code selects under an FPC (R62). -/
def Rm.mode (r : Rm) (fpc : Word) : RMode :=
  match r with
  | .rne => .rne
  | .rtz => .rtz
  | .rup => .rup
  | .rdn => .rdn
  | .sr => .sr
  | .dyn => fpcRm fpc

/-- One step of the LFSR (R67). -/
def lfsrStep (st : Nat) : Nat := if st % 2 = 1 then (st >>> 1) ^^^ 0x80200003 else st >>> 1

/-- n steps of the LFSR. -/
def lfsrRun : Nat → Nat → Nat
  | 0, st => st
  | n + 1, st => lfsrRun n (lfsrStep st)

/-- Eight output bits, first highest. -/
def lfsrByte : Nat → Nat → Nat → Nat
  | 0, _, d => d
  | n + 1, st, d => lfsrByte n (lfsrStep st) (2 * d + st % 2)

/-- Where a stochastic draw is taken: seed, bundle count, slot, lane (R67). -/
structure DrawAt where
  seed : Nat
  t : Nat
  slot : Nat
  lane : Nat
  deriving DecidableEq, Repr

/-- Draw8 for an element (R67). -/
def draw8 (d : DrawAt) (e : Nat) : Nat :=
  let mix := (d.t % 2 ^ 16) * 2 ^ 16 + (d.slot % 8) * 2 ^ 13 + (d.lane % 64) * 2 ^ 7 + e % 128
  let x := (d.seed ^^^ mix) % 2 ^ 32
  lfsrByte 8 (lfsrRun 32 (if x = 0 then 1 else x)) 0

/-- The integer a positive rational num / den rounds to, for a value of the sign neg (R63, R124). -/
def roundMag (num den : Nat) (rm : RMode) (neg : Bool) (draw : Unit → Nat) : Nat :=
  let lo := num / den
  let r := num % den
  if r = 0 then lo
  else
    match rm with
    | .rne => if 2 * r < den then lo else if 2 * r > den then lo + 1 else if lo % 2 = 0 then lo else lo + 1
    | .rtz => lo
    | .rup => if neg then lo else lo + 1
    | .rdn => if neg then lo + 1 else lo
    | .sr => if draw () < r * 256 / den then lo + 1 else lo

/-- floor(log2(num / den)) for a positive rational. -/
def log2Rat (num den : Nat) : Int :=
  let k : Int := (num.log2 : Int) - (den.log2 : Int)
  if k ≥ 0 then (if num ≥ den <<< k.toNat then k else k - 1)
  else (if num <<< (-k).toNat ≥ den then k else k - 1)

/-- num / den × 2^s as a fraction. -/
def scaleRat (num den : Nat) (s : Int) : Nat × Nat :=
  if s ≥ 0 then (num <<< s.toNat, den) else (num, den <<< (-s).toNat)

/-- How a rounding writes its result: overflow into a narrow float gives NaN; subnormal IEEE results are flushed. -/
structure RoundOpts where
  ovf : Bool
  fres : Bool
  deriving DecidableEq, Repr

/-- No flush and no NaN on overflow: the matrix sums, legend decoding, AT.FADD (R63, R70, R75, R155). -/
def RoundOpts.none : RoundOpts := { ovf := false, fres := false }

/-- FM, CH, CV, XS and SF under an FPC (R66). -/
def RoundOpts.ofFpc (fpc : Word) : RoundOpts := { ovf := fpcOvf fpc, fres := fpcFres fpc }

/-- Overflow(fmt, x, rm) (R64). -/
def overflowCode (f : Fmt) (neg : Bool) (rm : RMode) (o : RoundOpts) : Nat :=
  let sgn := if neg then f.signBit else 0
  if f.narrow then (if o.ovf then f.nan else sgn + f.maxCode)
  else
    match rm, neg with
    | .rne, _ | .sr, _ | .rup, false | .rdn, true => sgn + f.infCode
    | _, _ => sgn + f.maxCode

/-- ZeroOf(fmt, x) (R65). -/
def zeroCode (f : Fmt) (neg : Bool) : Nat := if f.narrow then 0 else if neg then f.signBit else 0

/-- RoundTo(fmt, x, rm) (R63): the code written. -/
def roundTo (f : Fmt) (x : XVal) (rm : RMode) (o : RoundOpts) (draw : Unit → Nat) : Nat :=
  match x with
  | .nan => f.nan
  | .inf neg => if f.narrow then overflowCode f neg rm o else (if neg then f.signBit else 0) + f.infCode
  | .fin neg num den ex =>
    if num = 0 then zeroCode f neg
    else
      let e := imax (log2Rat num den + ex) f.emin
      let r := scaleRat num den (ex - (e - f.m))
      let k := roundMag r.1 r.2 rm neg draw
      let code := (e - f.emin).toNat * 2 ^ f.m + k
      if code > f.maxCode then overflowCode f neg rm o
      else if code = 0 then zeroCode f neg
      else if o.fres && !f.narrow && decide (code < 2 ^ f.m) then zeroCode f neg
      else (if neg then f.signBit else 0) + code

/-- No draw: a rounding that is never stochastic. -/
def noDraw : Unit → Nat := fun _ => 0

/-- RoundIntegral(v, rm) of a finite value (R124). -/
def roundIntegral (neg : Bool) (num den : Nat) (ex : Int) (rm : RMode) (draw : Unit → Nat) : Int :=
  let r := scaleRat num den ex
  let k : Int := roundMag r.1 r.2 rm neg draw
  if neg then -k else k

/-! Exact arithmetic. -/

/-- The negation. -/
def XVal.neg : XVal → XVal
  | .nan => .nan
  | .inf n => .inf (!n)
  | .fin n a d e => .fin (!n) a d e

/-- The exact product; ∞ × 0 is NaN. -/
def XVal.mul (x y : XVal) : XVal :=
  match x, y with
  | .nan, _ | _, .nan => .nan
  | .inf s, .inf t => .inf (s != t)
  | .inf s, .fin t n _ _ | .fin t n _ _, .inf s => if n = 0 then .nan else .inf (s != t)
  | .fin s n d e, .fin t n' d' e' => .fin (s != t) (n * n') (d * d') (e + e')

/-- A finite value as a signed numerator over den at exponent e0, not above its own. -/
def signedAt (neg : Bool) (num : Nat) (ex e0 : Int) : Int :=
  let m : Int := (num <<< (ex - e0).toNat : Nat)
  if neg then -m else m

/-- The exact sum; opposite infinities give NaN; the sign of an exact zero follows R65. -/
def XVal.add (x y : XVal) (rm : RMode) : XVal :=
  match x, y with
  | .nan, _ | _, .nan => .nan
  | .inf s, .inf t => if s = t then .inf s else .nan
  | .inf s, _ | _, .inf s => .inf s
  | .fin s n d e, .fin t n' d' e' =>
    if n = 0 ∧ n' = 0 then .zero (if s = t then s else rm == .rdn)
    else
      let e0 := imin e e'
      let v := signedAt s (n * d') e e0 + signedAt t (n' * d) e' e0
      if v = 0 then .zero (rm == .rdn) else .fin (v < 0) v.natAbs (d * d') e0

/-- x < y for ordered values, zeros equal. -/
def XVal.lt (x y : XVal) : Bool :=
  match x, y with
  | .nan, _ | _, .nan => false
  | .inf s, .inf t => s && !t
  | .inf s, _ => s
  | _, .inf t => !t
  | .fin s n d e, .fin t n' d' e' =>
    let e0 := imin e e'
    decide (signedAt s (n * d') e e0 < signedAt t (n' * d) e' e0)

/-- x = y for ordered values, zeros equal. -/
def XVal.eq (x y : XVal) : Bool :=
  match x, y with
  | .nan, _ | _, .nan => false
  | _, _ => !x.lt y && !y.lt x

/-- x × 2^k. -/
def XVal.scale (x : XVal) (k : Int) : XVal :=
  match x with
  | .fin s n d e => .fin s n d (e + k)
  | y => y

/-! Block floating point. -/

/-- How a scale slot reads (R56, R57). -/
inductive Scale
  | nanBlock
  | zeroBlock
  /-- (16 + f) × 2^ex -/
  | ordinary (f : Nat) (ex : Int)
  deriving DecidableEq, Repr

/-- The reading of a 16-bit scale slot (R56, R57). -/
def readScale (slot : Nat) : Scale :=
  let e := bits slot 11 4
  let f := bits slot 3 0
  if bits slot 15 12 ≠ 0 ∨ e = 0xFF then .nanBlock
  else if e = 0 ∧ f = 0 then .zeroBlock
  else .ordinary f ((e : Int) - 127 - 4)

/-- The exact value of a mantissa of width m under a scale slot (R56, R57). -/
def bfpValue (m : Nat) (mant slot : Nat) : XVal :=
  match readScale slot with
  | .nanBlock => .nan
  | .zeroBlock => .zero false
  | .ordinary f ex =>
    let v := sint m mant
    .fin (v < 0) (v.natAbs * (16 + f)) 1 (ex - ((m : Int) - 1))

/-- A narrow value under an optional scale slot (R75). -/
def scaledValue (v : XVal) (slot : Option Nat) : XVal :=
  match slot with
  | none => v
  | some sl =>
    match readScale sl, v with
    | .nanBlock, _ => .nan
    | _, .nan => .nan
    | .zeroBlock, _ => .zero false
    | .ordinary f ex, w => w.mul (.fin false (16 + f) 1 ex)

/-! Sums of the matrix engine (R68 to R70). -/

/-- The exact sum of a list of exact values; none at an infinity. Used for chunks without NaN or infinities. -/
def exactSum (l : List XVal) : XVal := l.foldl (fun acc x => acc.add x .rne) (.zero false)

/-- The code FP32 of a chunk's products (R68). An exact zero sum is +0. -/
def chunkCode (prods : List XVal) : Nat :=
  let s := exactSum prods
  if s.isZero then 0 else roundTo fp32 s .rne RoundOpts.none noDraw

/-- acc + p, rounded once to FP32 (R68, R69). -/
def accAdd (acc : BitVec 32) (p : Nat) : BitVec 32 :=
  BitVec.ofNat 32
    (roundTo fp32 ((fp32.value acc.toNat).add (fp32.value p) .rne) .rne RoundOpts.none noDraw)

end Sys2Proof.Machine
end

