-- ==== Sys2Proof/Machine/State.lean ====
section
/-!
DEFINITION. The state of one package (module), as plain data; why a step can stop; and the state after power-on.
A table is a list of numbered entries, a missing number standing for the entry's reset value (Machine/Tab.lean reads and
writes them). Memory is a list of (address, byte) pairs in canonical form (Machine/Memory.lean).
-/
namespace Sys2Proof.Machine

/-- Kinds of load (Table 5.2). -/
inductive LdKind
  | ldg | lds | ldl | ldb | ldsc | ldnt
  deriving DecidableEq, Repr

/-- Kinds of store (Table 5.3). -/
inductive StKind
  | stg | sts | stsc | stnt
  deriving DecidableEq, Repr

/-- Barrier and buffer operations (Table 5.13). -/
inductive BaOp
  | binit | arrive | wait | test | pbar | cbinit | cbresv | cbfill | cbtake | cbfree
  deriving DecidableEq, Repr

/-- Special functions (Table 6.13). -/
inductive SfFn
  | ex2 | lg2 | rcp | rsq | sqrt | sinpi | cospi | tanh | erf
  deriving DecidableEq, Repr

/-- Streamer operations (R199). -/
inductive SxOp
  | copy2d | copy2dw | loopcopy | stop | landresv | landsend | landclr | zoneinit | waitc
  deriving DecidableEq, Repr

/-- What a pushed command does: the operation and its modifier fields. -/
inductive QOp
  | ld (k : LdKind) (sz : Sz) (sx : Bool)
  | st (k : StKind) (sz : Sz)
  | atm (o : AtOp) (w : AtW) (sc : Scope) (ord : AOrd)
  | pub (sc : Scope)
  | acq (sc : Scope)
  | acqn (sc : Scope)
  | drain
  | logst
  | ba (o : BaOp) (cb : Nat)
  | mxCfg
  | mxLdb (bl : Nat)
  | mxMmq (bl acc : Nat)
  | mxMmw (bl acc : Nat)
  | mxZacc (acc : Nat)
  | mxStacc (acc : Nat)
  | mxRdacc (acc : Nat)
  | mxKat
  | mxQstat
  | gaGidx
  | gaGrows
  | gaGstat
  | sf (f : SfFn) (ty : ETy)
  | sx (o : SxOp) (n : Nat)
  deriving DecidableEq, Repr

/-- How far a pushed command has come: queued; begun, at a stage (Machine/Perform.lean lists them) with a mark, a stamp or a write number; sent to
another package under a tag at a cycle, resent or not. -/
inductive CmdSt
  | queued
  | begun (stage x : Nat)
  | sent (tag pkg at' : Nat) (resent : Bool)
  deriving DecidableEq, Repr

/-- A command in a queue (R23, R26, R35): what it samples at its push. -/
structure Cmd where
  id : Nat
  wave : Nat
  party : Nat
  op : QOp
  mask : BitVec 64
  a : List Lane
  b : List Lane
  c : List Lane
  fpc : Word
  t : Nat
  /-- the number of its bundle among all that the wave has issued, handlers' included -/
  nth : Nat
  slot : Nat
  seg : Nat
  handler : Bool
  pushed : Nat
  /-- the pushing core's horizon at the push, for a streamer command (R272) -/
  he : List Nat
  st : CmdSt
  /-- what a copy that has moved its bytes and waits for its publication has done: bytes, the cause it stopped at, its engine-log writes
  (R204, R206); of an LG.DRAIN, how many records it has applied, and the commands that ran at its push (R165) -/
  got : Option (Nat × Option Nat × List Nat)
  deriving DecidableEq, Repr

/-- State of a result entry (R27, R148). -/
inductive EntrySt
  | pending | ready | failed | poisoned
  deriving DecidableEq, Repr

/-- A place of a result queue: the lanes active at the trigger hold defined values. -/
structure Entry where
  id : Nat
  mask : BitVec 64
  st : EntrySt
  vals : List Lane
  deriving DecidableEq, Repr

/-- Operand latches of one unit, one value a lane (R26). -/
structure UnitLatch where
  a : List Lane
  b : List Lane
  c : List Lane
  deriving DecidableEq, Repr

/-- Operand latches of SA, CT and SY, 64 bits (R88). -/
structure ScalarLatch where
  a : Word
  b : Word
  deriving DecidableEq, Repr

/-- An exposed result not yet visible (R29): unit number, slot, trigger count, bound, lanes, values. -/
structure Flight where
  u : Nat
  slot : Nat
  t : Nat
  bound : Nat
  mask : BitVec 64
  vals : List Lane
  deriving DecidableEq, Repr

/-- The port state of a wave: what a trap parks (R39, Table 1.5). portDef is what a lane of a port shows that no result
has reached: zero after placement (R348), undefined in a handler (R39). -/
structure WaveIo where
  latches : List (Nat × UnitLatch)
  slatches : List (Nat × ScalarLatch)
  ports : List (Nat × List (Option Lane))
  portDef : Option Lane
  flight : List Flight
  res : List (Nat × List Entry)
  deriving DecidableEq, Repr

/-- A pending control transfer (R30, R32, Table 7.6). -/
structure Xfer where
  target : BitVec 56
  taken : Bool
  left : Nat
  deriving DecidableEq, Repr

/-- Pending branch-table state (R33, R232): the join address, EXM at the BTAB, delay slots left before the first target,
and the targets still to run with their lanes, in table order. -/
structure TableSt where
  join : BitVec 56
  exm : BitVec 64
  left : Nat
  targets : List (BitVec 56 × BitVec 64)
  deriving DecidableEq, Repr

/-- Trap state held by the E CSRs (Table 7.4), with the parked table state and ports. -/
structure TrapSt where
  epc : BitVec 56
  ecause : Word
  eaddr : Word
  epend : Word
  eexm : Word
  eexs : Word
  eflag : Bool
  errb : BitVec 5
  elc : Word
  eec : Word
  efpc : Word
  essig : Word
  table : Option TableSt
  deriving DecidableEq, Repr

/-- What an SY operation holds a wave's next bundle with, besides its queues (R237, R241, R252, R253). -/
inductive Hold
  | none
  | sleep (until' : Nat) (evc : Option (BitVec 32)) (timed : Bool)
  | qfence (mask : Nat) (upTo : Nat)
  | rdv (mask : Nat)
  | launch (addr queue slot t nth : Nat) (published : Bool)
  deriving DecidableEq, Repr

/-- Which run of a segment a wave is in (R315): its own, or re-run A or B with A's count and signature. -/
inductive Rerun
  | none
  | a
  | b (count : Nat) (sig : Word)
  deriving DecidableEq, Repr

/-- A value forwarded from a leading to a trailing twin (R319): which value it is, and the lanes. -/
structure Fwd where
  kind : Nat
  seg : Nat
  mask : BitVec 64
  vals : List Lane
  deriving DecidableEq, Repr

/-- A trap: cause, slot, lane, address, the code of SY.TRAP (Table 7.5), and the stage of a walk that faulted (R368). -/
structure Trap where
  cause : Nat
  slot : Nat
  lane : Nat
  addr : Nat
  code : Nat
  stage : Option Nat := none
  deriving DecidableEq, Repr

/-- A bundle of a twin that holds escaping triggers (R321): its address, its place among the wave's bundles, and of each such trigger the slot and
the Fold of operand a. -/
structure Escape where
  pc : BitVec 56
  nth : Nat
  ops : List (Nat × Word)
  deriving DecidableEq, Repr

/-- One resident wave: its architectural context (Table 1.1) and its place in the machine. -/
structure Wave where
  core : Nat
  rslot : Nat
  launch : Nat
  party : Nat
  num : Nat
  role : Nat
  /-- 16, 32 or 64 lanes (R44 to R46) -/
  width : Nat
  alloc : Nat
  v : List (Nat × List Lane)
  g : List (Nat × BitVec 64)
  s : List (Nat × Word)
  a : List (Nat × Word)
  k : List (Nat × Bool)
  exm : BitVec 64
  exs : BitVec 64
  rrb : BitVec 5
  lc : Word
  ec : Word
  fpc : Word
  ssig : Word
  pc : BitVec 56
  xfer : Option Xfer
  table : Option TableSt
  bracket : Bool
  io : WaveIo
  count : Nat
  hmode : Bool
  hcount : Nat
  /-- all bundles issued, those of handlers and those rolled back too -/
  issued : Nat
  trap : TrapSt
  parked : Option WaveIo
  cmds : List Cmd
  /-- in the active set (R14) -/
  inSet : Bool
  age : Nat
  stalled : Nat
  pendSince : Nat
  hold : Hold
  /-- the event count of a CT.WAITE whose hold has not ended (R241) -/
  evcHold : Option (BitVec 32)
  exited : Bool
  /-- standing at a phase boundary: the target and SPKEEP (R238) -/
  atPhase : Option (BitVec 56 × Bool)
  /-- step 2 of its boundary is done: its waypoint record is written and its allocation released (R238) -/
  carried : Bool
  /-- records of the wave that a drain has applied and that no publication has covered since (R166) -/
  unpub : Nat
  /-- the next bundle is a segment entry (R236) -/
  segEntry : Bool
  seg : Nat
  segBundles : Nat
  rerun : Rerun
  recovering : Bool
  /-- a log-full drain has applied records of the open segment (R259) -/
  drained : Bool
  /-- the key of the other twin, and whether this one leads (R319) -/
  twin : Option (Nat × Bool)
  twinFails : Nat
  /-- records compared since the segment entry (R320) -/
  compared : Nat
  fwd : List Fwd
  /-- Folds of this twin's records not yet compared (R320): with the leading twin's, the record; with the trailing one's, the segment -/
  folds : List (Nat × Word)
  /-- Of a trailing twin, the escaping bundles it has issued that its leader has not matched; of a leading one, the bundle it stands at once that is
  matched (R321) -/
  escapes : List Escape
  /-- traps of the other twin that this one takes too, each with the number of its bundle, oldest first (R325) -/
  trapDue : List (Nat × Trap)
  /-- the trap to which the walk of an access of the next bundle has led: it is taken when the bundle would issue (R230, R368) -/
  walkBad : Option Trap
  /-- SEQ of the field-book record of the error that its re-run follows (R328, Table 17.4) -/
  errSeq : Nat
  deriving DecidableEq, Repr

/-- A survey-log or engine-log record (Table 8.1), with the model's write number, the command and the wave it belongs to and the
stamp of the first mark that covers it. -/
structure Rec where
  wid : Nat
  pkg : Nat
  gran : Nat
  ben : BitVec 16
  data : Lane
  kind : Nat
  wslot : Nat
  isOpen : Bool
  held : Bool
  seq : Nat
  engine : Bool
  cmd : Nat
  wave : Nat
  launch : Nat
  seg : Nat
  spilled : Bool
  stamp : Option Nat
  deriving DecidableEq, Repr

/-- A write applied at home, newest first in State.hist, so in coherence order (R265): granule, bytes, data, the granule's
bytes before it, cycle, whether an SC write (R269). -/
structure Applied where
  wid : Nat
  gran : Nat
  ben : BitVec 16
  data : Lane
  old : Lane
  time : Nat
  sc : Bool
  deriving DecidableEq, Repr

/-- A mark (R261): stamp, publisher, scope number, covered writes, horizon; whether it stands and whether it has left, since when, and whether the
field book has noted that records of it are held (R276). Of a peer's mark, tail is how many of its records are still to come here. -/
structure Mark where
  id : Nat
  stamp : Nat
  pkg : Nat
  core : Nat
  scope : Nat
  tail : Nat
  wids : List Nat
  hor : List Nat
  launch : Nat
  stands : Bool
  gone : Bool
  since : Nat
  /-- its records sent to other packages whose compactors are not known to have applied them (R264) -/
  away : List Nat
  deriving DecidableEq, Repr

/-- A circular buffer (Table 5.12). -/
structure Cb where
  base : Nat
  slots : Nat
  size : Nat
  free : Nat
  resv : Nat
  filled : Nat
  tak : Nat
  pix : Nat
  cix : Nat
  seqp : Nat
  seqc : Nat
  ef : Bool
  efr : Bool
  deriving DecidableEq, Repr

/-- A B latch (R186): the bytes of 32 columns and of their scale slots. -/
structure BLatch where
  cols : List (List Byte)
  scales : List (List Byte)
  deriving DecidableEq, Repr

/-- Idle and wake state of a matrix engine (R393). -/
inductive MxPower
  | idle
  | requested (at' : Nat)
  | admitted (at' : Nat)
  | awake (lastBusy : Nat)
  deriving DecidableEq, Repr

/-- The pass that later quarter operations of a hardware wave may still join (R189): latch, accumulator, configuration, the cycle of its first push,
the quarters taken. -/
structure MxPass where
  bl : Nat
  acc : Nat
  types : ETy × ETy
  first : Nat
  quarters : List Nat
  deriving DecidableEq, Repr

/-- The matrix engine of a core (R182, R194). An accumulator element is numbered 2048 acc + 32 r + n; an open pass 2 × wave + half. -/
structure MxEngine where
  acc : List (Nat × BitVec 32)
  bl : List (Nat × BLatch)
  atype : ETy
  btype : ETy
  passes : Nat
  errs : Nat
  open' : List (Nat × MxPass)
  power : MxPower
  /-- the cycle in which it last held a command (R393) -/
  lastHeld : Nat
  deriving DecidableEq, Repr

/-- A running LOOPCOPY (R207). -/
structure LoopCtx where
  cmd : Cmd
  i : Nat
  stop : Bool
  /-- the field book has its record of an access that the worlds forbid (R363) -/
  noted : Bool
  deriving DecidableEq, Repr

/-- States of a plot (Table 6.9). -/
inductive PlotSt
  | free | reserved | landed | torn
  deriving DecidableEq, Repr

/-- A plot of a landfall zone (Table 6.9); since is the cycle of the last change of ARRIVED (R215). -/
structure Plot where
  st : PlotSt
  gen : Nat
  ownPkg : Nat
  ownCore : Nat
  expect : Nat
  arrived : Nat
  since : Nat
  deriving DecidableEq, Repr

/-- A landfall zone (R209, R210). -/
structure Zone where
  granted : Option Nat
  vi : Nat
  isOpen : Bool
  base : Nat
  psz : Nat
  plotsm1 : Nat
  lease : Nat
  barix : Nat
  baren : Bool
  plots : List (Nat × Plot)
  deriving DecidableEq, Repr

/-- A send accepted and not yet written (R212). -/
structure SendIn where
  id : Nat
  sPkg : Nat
  sCore : Nat
  tag : Nat
  zone : Nat
  plot : Nat
  offset : Nat
  data : List Byte
  deriving DecidableEq, Repr

/-- A clear, cancel, zone command or lease expiry that waits for the sends accepted before it (R300). -/
inductive ClearOp
  | localClr (zone plot : Nat)
  | remoteClr (zone plot gen : Nat) (sPkg sCore tag : Nat)
  | lease (zone plot : Nat)
  | zoneInit (zone : Nat) (a b : Lane) (cmd : Nat)
  | zoneClose (zone : Nat) (quiet : Bool)
  /-- the party to which the zone is granted has ended (R386) -/
  | zoneEnd (zone : Nat)
  deriving DecidableEq, Repr

/-- A waiting clear, with the sends it waits for. -/
structure ClearReq where
  op : ClearOp
  sends : List Nat
  deriving DecidableEq, Repr

/-- A cached translation of a 4 KiB page (R370). -/
structure TlbEntry where
  vi : Nat
  asid : Nat
  /-- the stage tag: stage 1 took part (R370) -/
  s1 : Bool
  /-- a page that the loader maps (R278, R284, R287, Log 22) -/
  own : Bool
  vpage : Nat
  gpage : Nat
  ppage : Nat
  pkgsel : Nat
  r : Bool
  w : Bool
  x : Bool
  atm : Bool
  deriving DecidableEq, Repr

/-- A request of an atomic to a home on another package, not yet answered (R159): wave and command, package, tag, address, cycle of the first
send; lost is set by a failure notice. -/
structure AtSent where
  wave : Nat
  cmd : Nat
  pkg : Nat
  tag : Nat
  pa : Nat
  time : Nat
  lost : Bool
  deriving DecidableEq, Repr

/-- A prefetch in progress (R251): number, wave, launch, the virtual address of its next line, lines left, whether the field book has its record of a line
that the worlds forbid (R363). -/
structure Prefetch where
  id : Nat
  wave : Nat
  launch : Nat
  va : Nat
  left : Nat
  noted : Bool
  deriving DecidableEq, Repr

/-- An implicit publication that has waited for a place in a mark table (R261): of a command; of the SY.LAUNCH of a wave's n-th bundle; of a party
at the end of a phase or, at SYSTEM scope, of itself. -/
inductive PubOf
  | cmd (id : Nat)
  | launch (wave nth : Nat)
  | tail (party phase scope : Nat)
  deriving DecidableEq, Repr

/-- One compute core. -/
structure Core where
  sram : List Host.Cell
  log : List Rec
  seq : Nat
  horizon : List Nat
  replayed : List Nat
  lastStamp : Nat
  lastPub : Nat
  /-- a log-full drain in progress: the write number of the last record it drains (R259) -/
  draining : Option Nat
  bars : List Nat
  cbs : List (Nat × Cb)
  mx : MxEngine
  mxq : List Cmd
  gaq : List Cmd
  sfq : List Cmd
  loops : List (Nat × LoopCtx)
  lastSc : Option Nat
  icache : List (Nat × Bundle)
  /-- the first-level TLB, newest translation first (R370) -/
  tlb : List TlbEntry
  /-- misses of streamer commands that wait for a walk: command, launch, virtual address; and what their walks gave, for each command and virtual page
  (R370) -/
  sxMiss : List (Nat × Nat × Nat)
  sxWalks : List (Nat × Nat × Option TlbEntry)
  /-- prefetches in progress, oldest first (R251) -/
  prefs : List Prefetch
  /-- the implicit publications of the core that have waited for a place in a mark table, each counted once in MTSTAT.WAITS (R378) -/
  pubWaits : List PubOf
  zones : List (Nat × Zone)
  sends : List SendIn
  clears : List ClearReq
  zcmd : Word
  zplot : Word
  tags : List (Nat × Nat × Nat)
  /-- requests of atomics to other packages that have not been answered (R159) -/
  reqs : List AtSent
  running : Option Nat
  sliceStart : Nat
  haltAt : Option Nat
  deriving DecidableEq, Repr

/-- A waypoint record (Table 10.5 and R301): header and body of carried registers. -/
structure Waypoint where
  header : BitVec 512
  v : List (Nat × List Lane)
  s : List (Nat × Word)
  a : List (Nat × Word)
  deriving DecidableEq, Repr

/-- A completion record that waits for a place in its ring (R200): the wave and the segment of its command, none for a landing event. -/
structure HeldRec where
  own : Option (Nat × Nat)
  rec' : BitVec 256
  deriving DecidableEq, Repr

/-- One party (R12). -/
structure Party where
  launch : Nat
  core : Nat
  banks : List (Nat × Nat)
  cbGrant : List Nat
  zoneGrant : List Nat
  matrix : Bool
  cring : Word
  held : List HeldRec
  sxq : List Cmd
  /-- landfall commands started and awaiting their answer, and WAITCs waiting (R199) -/
  sxWait : List Cmd
  evc : BitVec 32
  route : Nat
  routeReq : Nat
  phaseno : Nat
  tscratch : Word
  gaOut : Nat
  gaDone : Nat
  drains : Nat
  taskx : Nat
  tasky : Nat
  wheel : List Nat
  waitSince : Nat
  /-- between phases: waiting for a task, or placed with one -/
  waiting : Bool
  firstBundle : Option Nat
  waypoints : List (Nat × Waypoint)
  spkeep : Bool
  /-- step 3 of its boundary was completed in this cycle: the next phase is queued at the cycle's end (R238, R307, R308) -/
  phaseOver : Bool
  resident : Bool
  ended : Bool
  /-- the leading party of a twin pair, whose trailing party has the next number (R319) -/
  lead : Bool
  placedAt : Nat
  /-- its slot of the launch's waypoint area (R347) -/
  wslot : Nat
  /-- the marks of its last publication, once made: it ends when they stand (R243, R305) -/
  ending : Option (List Nat) := none
  deriving DecidableEq, Repr

/-- One launch, from its placement to its done record. -/
structure Launch where
  vi : Nat
  queue : Nat
  index : Nat
  words : List Word
  func : Func
  handle : BitVec 32
  edition : Nat
  textBase : Nat
  dataBase : Nat
  level : Nat
  roles : List Role
  stencil : Nat
  xs : Nat
  ys : Nat
  maxParties : Nat
  twin : Bool
  tvec : BitVec 56
  args : List (Nat × Lane)
  lright : Bool
  wheelN : Nat
  wpkib : Nat
  tag : Nat
  released : List (Nat × Nat)
  /-- tasks whose retirement falls in this cycle, taken at its end by (y, x) (R307) -/
  retiring : List (Nat × Nat)
  /-- durations measured in this cycle, taken at its end by core: core, route, cycles (R308) -/
  timed : List (Nat × Nat × Nat)
  assigned : List (Nat × Nat)
  retired : List (Nat × Nat)
  routesT : List (Nat × Nat)
  scratch : Nat
  s1root : Nat
  s1on : Bool
  asid : Nat
  start : Nat
  fault : Option (Nat × Nat)
  cancelled : Bool
  completed : Bool
  /-- writes applied at home before the doorbell that submitted it (R339) -/
  seen : Nat
  /-- bytes of its data pages, and the 64 KiB of physical memory that hold its data and its scratch text (R278, R287) -/
  dataBytes : Nat
  dataUnits : List Nat
  scratchUnits : List Nat
  deriving DecidableEq, Repr

/-- Why a packet stopped being head: a done record that is due (Table 14.3). -/
structure DoneDue where
  queue : Nat
  launch : Option Nat
  record : BitVec 256
  deriving DecidableEq, Repr

/-- One work queue (Table 14.2), with its head packet. -/
structure WQueue where
  ring : Word
  tail : Nat
  head : Nat
  vi : Nat
  serialBit : Bool
  ceil : Nat
  peers : Bool
  devlaunch : Bool
  enable : Bool
  done : Word
  dtail : Nat
  dhead : Nat
  ovf : Bool
  irq : Word
  running : Nat
  /-- the checked head packet: its words, function, the cycle it became head, its address space, its arguments -/
  headPkt : Option (List Word)
  headSince : Nat
  headLevel : Nat
  headS1 : Word
  headAsid : Nat
  headArgs : List (Nat × Lane)
  /-- 2 k for a packet k that arrived from a fabric peer (R353), 2 k + 1 for one submitted through a view or by SY.LAUNCH -/
  peerRing : List Nat
  /-- what each doorbell or submission made of TAIL, how many writes had been applied at home before it, and whether it was a doorbell (R339, R341) -/
  bells : List (Nat × Nat × Bool)
  headSeen : Nat
  due : List DoneDue
  /-- the stamp of the acquire that the read of an argument block waits for (R344) -/
  acq : Option Nat := none
  deriving DecidableEq, Repr

/-- One virtual interface: its partition block (Table 14.7), translation block (Table 15.3) and counter page (R399). -/
structure Vi where
  maxprio : Nat
  haltlim : Nat
  slice : Nat
  secure : Bool
  spsize : Nat
  enable : Bool
  qcount : Nat
  qfirst : Nat
  cores : List Nat
  ctxbase : Nat
  running : Nat
  lastServed : List (Nat × Nat)
  s2base : Nat
  s2valid : Bool
  astab : Nat
  pkgmap : Nat
  tlbinva : Nat
  tlbinv : Word
  /-- PAGE as TLBINVA held it when TLBINV was written last (R371) -/
  tlbPage : Nat
  /-- an invalidation in progress: the write number from which on records are not waited for (R371) -/
  tlbBusy : Option Nat
  /-- covered translations that have entered a TLB since that write (R371) -/
  tlbSince : List TlbEntry
  counters : List (Nat × Word)
  snap : List (Nat × Word)
  showSnap : Bool
  snapCyc : Word
  /-- the cycle of a snapshot: events counted later in it belong to the snapshot (R398) -/
  snapAt : Option Nat
  ring : List (BitVec 256)
  ringHead : Nat
  /-- word writes of the newest records of the ring that are still to come (R401, R402) -/
  ringTodo : Nat
  deriving DecidableEq, Repr

/-- A legend register (Table 15.8) as four words, and the top word of a withdrawal in progress (R377). -/
structure Legend where
  w0 : Word
  w1 : Word
  w2 : Word
  top : Word
  clearing : Option Word
  deriving DecidableEq, Repr

/-- One tract: its block (Table 15.9), counters and snapshot (Table 17.1). -/
structure Tract where
  widecap : Nat
  tractcap : Nat
  sheetcap : Nat
  share : Nat
  waits : Nat
  counters : List (Nat × Word)
  snap : List (Nat × Word)
  showSnap : Bool
  snapCyc : Word
  /-- the cycle of a snapshot: events counted later in it belong to the snapshot (R398) -/
  snapAt : Option Nat
  /-- the cycle of a CLEAR that came after a snapshot of the same cycle: events counted later in it belong to that snapshot alone (R398) -/
  clearAt : Option Nat
  wakes : List (Nat × Nat)
  /-- waves of the tract whose access waits for a walk, in order of arrival (R370) -/
  misses : List Nat
  deriving DecidableEq, Repr

/-- Port states (R380). -/
inductive PortSt
  | down | train | up | failed
  deriving DecidableEq, Repr

/-- One fabric port (Table 15.11). -/
structure FabPort where
  enable : Bool
  st : PortSt
  fails : Nat
  peerPkg : Nat
  peerPort : Nat
  since : Nat
  deriving DecidableEq, Repr

/-- The fabric control block (Table 15.12) and the domain count. -/
structure Fabric where
  pkgid : Nat
  master : Bool
  domup : Bool
  sync : Bool
  /-- the domain count minus the cycle count -/
  domOffset : Int
  ratbase : Nat
  ratlog : Nat
  fsuba : Nat
  busy : Bool
  result : Nat
  fqueue : Nat
  fpkg : Nat
  fsince : Nat
  warned : Bool
  stopped : Bool
  /-- the highest stamp of an operation at SYSTEM scope completed here, below which no further mark of a peer can come to light (R262) -/
  acqTop : Nat
  /-- for a package, the last cycle in which it could be reached (R276) -/
  reached : List (Nat × Nat)
  /-- records held in their logs, and recorded, because their home cannot be reached (R276) -/
  heldFar : List Nat
  deriving DecidableEq, Repr

/-- A remote-atomic tag record at the home (R159): requester, tag, returned values, cycle. -/
structure TagRec where
  pkg : Nat
  core : Nat
  tag : Nat
  ret : List (Nat × Word)
  time : Nat
  deriving DecidableEq, Repr

/-- What this package puts on the fabric for another (R382). -/
inductive Wire
  | atReq (pkg tag wave id pa : Nat)
  | atAns (pkg core tag status : Nat) (ret : List (Nat × Word))
  | ldReq (pkg wave id line : Nat)
  | ldAns (pkg core : Nat) (data : List Byte) (poison : Bool)
  | land (pkg : Nat) (m : LandMsg)
  | landAns (pkg tag : Nat) (a : LandAns)
  | logRec (pkg core : Nat) (r : Rec)
  | mark (m : Mark)
  | packet (pkg queue : Nat) (words : List Word)
  | pktAns (pkg : Nat) (accepted : Bool)
  | notice (pkg : Nat) (n : Notice)
  | fwd (dst hop : Nat)
  deriving DecidableEq, Repr

/-- A text edition (R284): container, number, text base, failed pages, whether it is the newest. -/
structure Edition where
  handle : BitVec 32
  number : Nat
  vi : Nat
  /-- the bundle number at which it is mapped, and the 64 KiB of physical memory that hold each page brought in (R284, R286) -/
  base : Nat
  units : List (Nat × Nat)
  pages : List (Nat × List Byte × BitVec 256)
  loaded : List Nat
  /-- pages that failed their digest, with the digest computed (R286) -/
  failedPages : List (Nat × BitVec 256)
  newest : Bool
  deriving DecidableEq, Repr

/-- A loaded container (R278). -/
structure Loaded where
  handle : BitVec 32
  vi : Nat
  c : Container
  /-- its functions as the loader read them, and its DATA section -/
  funcs : List Func
  data : Option (List Byte)
  /-- where its DATA section is mapped, and the 64 KiB of physical memory that hold it (R278) -/
  dataBase : Nat
  dataUnits : List Nat
  deriving DecidableEq, Repr

/-- The checkpoint of a wave at its segment entry (Table 11.1). -/
structure Ckpt where
  wave : Wave
  seq : Nat
  acc : List (Nat × BitVec 32)
  deriving DecidableEq, Repr

/-- A halted core context (R357) in the shadow array or in the context area. -/
structure SavedCtx where
  core : Nat
  vi : Nat
  coreSt : Core
  waves : List (Nat × Wave)
  parties : List Nat
  ckpts : List (Nat × Ckpt)
  inShadow : Bool
  deriving DecidableEq, Repr

/-- A field-book ring (R400): next SEQ and records, newest first, with those whose places the newest take; and how many of the five word writes of each
of the newest records are still to come (R401). -/
structure FbRing where
  seq : Nat
  recs : List (BitVec 256)
  todo : Nat
  deriving DecidableEq, Repr

/-- A reply of the management port (R407). -/
inductive MgmtReply
  | result (r : Nat)
  | quote (body : List Byte) (sig : List Byte) (key : BitVec 512) (cert : List Byte)
  | query (pwrstat : Word) (stop : Nat) (retmap : List Nat) (overrides : List Nat) (slots : List Bool)
  | book (recs : List (BitVec 256))
  deriving DecidableEq, Repr

/-- A reply of the management port, with the request number that it repeats, or of the loader (R278, R407). -/
inductive Reply
  | mgmt (req : Nat) (r : MgmtReply)
  | load (status : Nat) (handle : BitVec 32)
  deriving DecidableEq, Repr

/-- The header of a management request (R407): total length, command code, bytes 6 and 7, request number
(Log 66). -/
structure MgmtHdr where
  len : Nat
  code : Nat
  zero : Nat
  req : Nat
  deriving DecidableEq, Repr

/-- Power, thermal and boot state (16, 17). -/
structure Mgmt where
  limit : Nat
  power : Nat
  tmax : Nat
  rpower : Bool
  rtherm : Bool
  duty : Nat
  lowers : Nat
  /-- ENTRY of CCFW (R389) -/
  ccEntry : Nat
  /-- 0 standby, 1 MCFW verified, 2 powered and CCFW verified, 3 core 0 released, 4 OS started -/
  stage : Nat
  powered : Bool
  stop : Nat
  meas : List (Nat × BitVec 256)
  fused : List (Nat × Nat)
  retmap : List Nat
  /-- cores whose RETMAP bit was cleared since the reset: placeable only after it (R404) -/
  returned : List Nat
  trust : List (BitVec 512)
  operators : List (BitVec 512)
  operatorVersion : Nat
  lastReq : List (BitVec 512 × Nat)
  slots : List (Nat × List (BitVec 256))
  slotTime : List (Nat × Nat)
  /-- the slot of the copy made last, and when it began (R403) -/
  copying : Option (Nat × Nat)
  /-- the cycles that passed before the last start of CYCLE, and each corrected error reported: core, time (R405) -/
  before : Nat
  corrected : List (Nat × Nat)
  /-- the headers of the requests received and not yet performed, in order of receipt (R407) -/
  inbox : List MgmtHdr
  deriving DecidableEq, Repr

/-- The bundle being performed: its decoded moves by slot, its long immediates, whether its end (R18) has been done, and
the table bundles of a BTAB. -/
structure Issue where
  on : Bool
  moves : List (Option Instr)
  limm : List SlotBits
  advanced : Bool
  table : List Bundle
  deriving DecidableEq, Repr

/-- Why a step stops for good. -/
inductive Fault
  /-- Raised by step when the compute dies have no power (before R390, after R396 or a power loss) and no event is on the
  agenda: nothing can act. Safe: the hardware does nothing either. -/
  | unpowered
  deriving DecidableEq, Repr

/-- Why an instruction has no meaning here. -/
inductive Refusal
  /-- Raised by an arm of exec for an instruction the model does not cover. Safe: no claim is made of it. -/
  | notModelled (mnemonic : String)
  deriving DecidableEq, Repr

/-- The package. The last fields, from cur on, are the model's own. -/
structure State where
  cycle : Nat
  waves : List (Nat × Wave)
  cores : List (Nat × Core)
  parties : List (Nat × Party)
  launches : List (Nat × Launch)
  home : List Host.Cell
  /-- frames whose bytes a placement command left undefined (R375), each with the number of its free values -/
  undef : List (Nat × Nat)
  hist : List Applied
  marks : List Mark
  lastStamp : Nat
  placeModes : List (Nat × Nat)
  /-- the 3 MiB parts of context areas that hold a spilled context, whose layout is not given: physical base and number of free values (R355) -/
  ctxBytes : List (Nat × Nat)
  poison : List Nat
  poisonBase : Nat
  poisonCmd : Word
  placeCmd : Word
  queues : List (Nat × WQueue)
  vis : List (Nat × Vi)
  regions : List (Nat × (Word × Word))
  worldleg : List (Nat × Word)
  /-- the world bits of the control-complex cores that have been released (R360, R389) -/
  ccWorld : List (Nat × Bool)
  /-- where the control-complex cores that have been started began (R389): core and physical address -/
  ccStart : List (Nat × Nat)
  legends : List (Nat × Legend)
  tracts : List (Nat × Tract)
  wheelOwn : List (Nat × Word)
  ports : List (Nat × FabPort)
  fabric : Fabric
  routes : List (Nat × Word)
  tagStore : List TagRec
  /-- the second-level TLBs, one a sheet, newest translation first (R370) -/
  l2tlb : List (Nat × List TlbEntry)
  /-- peers' records that wait at this home for records ordered before them, oldest first (R264, R265) -/
  recHeld : List PeerRecord
  /-- peers' atomic requests that wait at this home for room in the tag store, oldest first, each with the cycle of its first receipt (R159, R384) -/
  atHeld : List (Nat × PeerAt)
  fieldBook : List (Nat × FbRing)
  mgmt : Mgmt
  containers : List Loaded
  editions : List Edition
  saved : List SavedCtx
  ckpts : List (Nat × Ckpt)
  net : List LandMsg
  /-- reservations that have arrived in this cycle, judged at its end (R299) -/
  resvs : List LandMsg
  answers : List LandAns
  /-- messages put on the fabric, each with the port by which it left (R382, R383) -/
  wire : List (Wire × Option Nat)
  /-- message-signalled interrupts raised (R342): the control-complex core, the interface whose guest interrupt file is meant, or none, and the identity -/
  irqs : List (Nat × Option Nat × Nat)
  replies : List Reply
  cur : Nat
  slot : Nat
  ib : Issue
  pre : Option Wave
  agenda : List Instr
  tape : List Nat
  fresh : Nat
  nextId : Nat
  turn : List Nat
  ccData : Word
  deriving DecidableEq, Repr

/-- Port state at wave start (R13, R348). -/
def WaveIo.start : WaveIo :=
  { latches := [], slatches := [], ports := [], portDef := some 0, flight := [], res := [] }

/-- The E CSRs at reset (Table 7.4). -/
def TrapSt.reset : TrapSt :=
  { epc := 0, ecause := 0, eaddr := 0, epend := 0, eexm := 0, eexs := 0, eflag := false, errb := 0, elc := 0, eec := 0,
    efpc := 0, essig := 0, table := none }

/-- A circular buffer at launch (R296). -/
def Cb.reset : Cb :=
  { base := 0, slots := 0, size := 0, free := 0, resv := 0, filled := 0, tak := 0, pix := 0, cix := 0, seqp := 0, seqc := 0,
    ef := false, efr := false }

/-- A matrix engine at reset: +0, zero latches, BF16 by BF16, idle (R182, R390). -/
def MxEngine.reset : MxEngine :=
  { acc := [], bl := [], atype := .bf16, btype := .bf16, passes := 0, errs := 0, open' := [], power := .idle, lastHeld := 0 }

/-- A plot at module reset (R209). -/
def Plot.reset : Plot := { st := .free, gen := 0, ownPkg := 0, ownCore := 0, expect := 0, arrived := 0, since := 0 }

/-- A zone at module reset: closed and ungranted (R209). -/
def Zone.reset : Zone :=
  { granted := none, vi := 0, isOpen := false, base := 0, psz := 0, plotsm1 := 0, lease := 0, barix := 0, baren := false,
    plots := [] }

/-- A core at module reset: halted, logs empty, engine idle (R276, R390). -/
def Core.reset : Core :=
  { sram := [], log := [], seq := 0, horizon := [], replayed := [], lastStamp := 0, lastPub := 0, draining := none, bars := [],
    cbs := [], mx := MxEngine.reset, mxq := [], gaq := [], sfq := [], loops := [], lastSc := none, icache := [], tlb := [], sxMiss := [], sxWalks := [],
    prefs := [], pubWaits := [],
    zones := [], sends := [], clears := [], zcmd := 0, zplot := 0, tags := [], reqs := [], running := none, sliceStart := 0, haltAt := none }

/-- A work queue at reset (Table 14.2). -/
def WQueue.reset : WQueue :=
  { ring := 0, tail := 0, head := 0, vi := 0, serialBit := false, ceil := 0, peers := false, devlaunch := false, enable := false,
    done := 0, dtail := 0, dhead := 0, ovf := false, irq := 0, running := 0, headPkt := none, headSince := 0, headLevel := 0,
    headS1 := 0, headAsid := 0, headArgs := [], peerRing := [], bells := [], headSeen := 0, due := [] }

/-- A virtual interface at reset (Tables 14.7 and 15.3). -/
def Vi.reset : Vi :=
  { maxprio := 31, haltlim := 2000, slice := 0, secure := false, spsize := 3, enable := false, qcount := 0, qfirst := 0,
    cores := [], ctxbase := 0, running := 0, lastServed := [], s2base := 0, s2valid := false, astab := 0, pkgmap := 0,
    tlbinva := 0, tlbinv := 0x8000000000000000#64, tlbPage := 0, tlbBusy := none, tlbSince := [], counters := [], snap := [], showSnap := false, snapCyc := 0,
    snapAt := none, ring := [], ringHead := 0, ringTodo := 0 }

/-- A legend register at reset (Table 15.8). -/
def Legend.reset : Legend := { w0 := 0, w1 := 0, w2 := 0, top := 0, clearing := none }

/-- A tract at reset (Tables 15.9 and 17.1). -/
def Tract.reset : Tract :=
  { widecap := 512, tractcap := 512, sheetcap := 256, share := 10, waits := 0, counters := [], snap := [], showSnap := false,
    snapCyc := 0, snapAt := none, clearAt := none, wakes := [], misses := [] }

/-- A fabric port at reset (Table 15.11). -/
def FabPort.reset : FabPort := { enable := false, st := .down, fails := 0, peerPkg := 0, peerPort := 0, since := 0 }

/-- The fabric control block at reset (Table 15.12). -/
def Fabric.reset : Fabric :=
  { pkgid := 0, master := false, domup := false, sync := false, domOffset := 0, ratbase := 0, ratlog := 16, fsuba := 0,
    busy := false, result := 0, fqueue := 0, fpkg := 0, fsince := 0, warned := false, stopped := false, acqTop := 0,
    reached := [], heldFar := [] }

/-- The management controller on standby power (R389, R391; Log 6 for what manufacture leaves). -/
def Mgmt.reset : Mgmt :=
  { limit := 3000, power := 0, tmax := 0, rpower := false, rtherm := false, duty := 16, lowers := 0, ccEntry := 0, stage := 0, powered := false,
    stop := 0, meas := [], fused := [], retmap := [], returned := [], trust := [], operators := [], operatorVersion := 0,
    lastReq := [], slots := [], slotTime := [], copying := none, before := 0, corrected := [], inbox := [] }

/-- No bundle is being performed. -/
def Issue.idle : Issue := { on := false, moves := [], limm := [], advanced := false, table := [] }

/-- The machine right after power reaches the management controller: nothing has booted, no wave is resident, every log is
empty, home memory lists nothing (R276, R389, R390). -/
def State.reset : State :=
  { cycle := 0, waves := [], cores := [], parties := [], launches := [], home := [], undef := [], hist := [], marks := [], lastStamp := 0,
    placeModes := [], ctxBytes := [], poison := [], poisonBase := 0, poisonCmd := 0x8000000000000000#64, placeCmd := 0x8000000000000000#64,
    queues := [], vis := [], regions := [], worldleg := [], ccWorld := [], ccStart := [], legends := [], tracts := [], wheelOwn := [],
    ports := [], fabric := Fabric.reset, routes := [], tagStore := [], l2tlb := [], recHeld := [], atHeld := [], fieldBook := [], mgmt := Mgmt.reset, containers := [],
    editions := [], saved := [], ckpts := [], net := [], resvs := [], answers := [], wire := [], irqs := [], replies := [], cur := 0, slot := 0,
    ib := Issue.idle, pre := none, agenda := [], tape := [], fresh := 0, nextId := 0, turn := [], ccData := 0 }

end Sys2Proof.Machine
end

