-- ==== Sys2Proof/Machine/SpecialFn.lean ====
section
/-!
DEFINITION. The special functions of SF (R217, Table 6.13). The exact special values and SQRT are computed. Elsewhere the
manual gives a bound only: the result is the free value Config.sfValue where that lies within the bound, and the nearest
FP32 number otherwise. The reference values are fixed-point series with 320 fraction bits (Log 9).
-/
namespace Sys2Proof.Machine

/-- Fraction bits of the reference values. -/
def refBits : Nat := 320

/-- One in fixed point. -/
def refOne : Nat := 2 ^ refBits

/-- The integer square root, bit by bit from bit n − 1 down. -/
def isqrtFrom : Nat → Nat → Nat → Nat
  | 0, _, r => r
  | n + 1, x, r => let c := r + 2 ^ n; isqrtFrom n x (if c * c ≤ x then c else r)

/-- floor(√x). -/
def isqrt (x : Nat) : Nat := isqrtFrom (x.log2 / 2 + 1) x 0

/-- z − z³/3 + z⁵/5 − … (sgn −1) or with plus signs (sgn 1): n terms, z in fixed point; p is the current power. -/
def atanTerms : Nat → Nat → Int → Nat → Int → Int → Int
  | 0, _, _, _, _, acc => acc
  | n + 1, k, sgn, z2, p, acc =>
    atanTerms n (k + 2) sgn z2 (sgn * p * z2 / (refOne : Int)) (acc + p / (k : Int))

/-- atan z (sgn −1) or atanh z (sgn 1) of a fixed-point number. -/
def atanSeries (sgn : Int) (z : Nat) : Int := atanTerms 250 1 sgn (z * z / refOne) z 0

/-- ln 2. -/
def refLn2 : Nat := 2 * (atanSeries 1 (refOne / 3)).toNat

/-- π, by Machin's formula. -/
def refPi : Nat := (16 * atanSeries (-1) (refOne / 5) - 4 * atanSeries (-1) (refOne / 239)).toNat

/-- Σ t^k / k!, n terms from k. -/
def expTerms : Nat → Nat → Nat → Nat → Nat → Nat
  | 0, _, _, _, acc => acc
  | n + 1, k, t, p, acc => expTerms n (k + 1) t (p * t / (refOne * (k + 1))) (acc + p)

/-- exp t for a fixed-point t from 0 to 20. -/
def refExp (t : Nat) : Nat := expTerms 220 0 t refOne 0

/-- t − t³/3! + …, n terms. -/
def sinTerms : Nat → Nat → Nat → Int → Int → Int
  | 0, _, _, _, acc => acc
  | n + 1, k, t2, p, acc => sinTerms n (k + 2) t2 (-(p * t2 / ((refOne * (k + 1) * (k + 2) : Nat) : Int))) (acc + p)

/-- sin t for a fixed-point t from 0 to π/2. -/
def refSin (t : Nat) : Nat := (sinTerms 70 1 (t * t / refOne) t 0).toNat

/-- Σ (−1)^k t^(2k+1) / (k! (2k+1)), n terms: p is t^(2k+1) / k!. -/
def erfTerms : Nat → Nat → Nat → Int → Int → Int
  | 0, _, _, _, acc => acc
  | n + 1, k, t2, p, acc =>
    erfTerms n (k + 1) t2 (-(p * t2 / ((refOne * (k + 1) : Nat) : Int))) (acc + p / ((2 * k + 1 : Nat) : Int))

/-- erf t for a fixed-point t from 0 to 4. -/
def refErf (t : Nat) : Nat :=
  let s := (erfTerms 200 0 (t * t / refOne) t 0).toNat
  2 * s * refOne / isqrt (refPi * refOne)

/-- A finite value's magnitude in fixed point. -/
def toFixed (num : Nat) (ex : Int) : Nat :=
  let r := scaleRat num 1 (ex + refBits)
  r.1 / r.2

/-- |a| as a fixed-point number compared with b: |a − b|. -/
def absDiff (a b : Int) : Nat := (a - b).natAbs

/-- The FP32 spacing around a positive fixed-point magnitude, in fixed point. -/
def refUlp (y : Nat) : Nat :=
  let e := imax (log2Rat y refOne) (-126)
  toFixed 1 (e - 23)

/-- A signed fixed-point reference rounded to FP32 under RNE. -/
def refRound (neg : Bool) (y : Nat) : Nat := roundTo fp32 (.fin neg y refOne 0) .rne RoundOpts.none noDraw

/-- A code's value as a signed fixed-point number; none at NaN and infinities. -/
def codeFixed (c : Nat) : Option Int :=
  match fp32.value c with
  | .fin n num _ ex => some (if n then -((toFixed num ex : Nat) : Int) else (toFixed num ex : Nat))
  | _ => none

/-- A result within tol of the reference: the free value if it is, else the nearest FP32 number. -/
def within (cand : Nat) (neg : Bool) (y tol : Nat) : Nat :=
  let r : Int := if neg then -(y : Int) else y
  match codeFixed cand with
  | some v => if absDiff v r ≤ tol then cand else refRound neg y
  | none => refRound neg y

/-- ±1. -/
def oneCode (neg : Bool) : Nat := if neg then 0xBF800000 else 0x3F800000
/-- ±∞. -/
def infCode32 (neg : Bool) : Nat := if neg then 0xFF800000 else 0x7F800000
/-- ±0. -/
def zero32 (neg : Bool) : Nat := if neg then 0x80000000 else 0
/-- The canonical NaN. -/
def nan32 : Nat := 0x7FC00000

/-- Where the result has overflowed FP32: the manual states no rounding mode, so infinity or the largest number. -/
def overflow32 (cand : Nat) (neg : Bool) : Nat :=
  if cand = (if neg then 0xFF7FFFFF else 0x7F7FFFFF) then cand else infCode32 neg

/-- 2^x. -/
def sfEx2 (cand : Nat) (neg : Bool) (num : Nat) (ex : Int) : Nat :=
  -- floor(x) and the fraction in fixed point
  let fx : Int := if neg then -((toFixed num ex : Nat) : Int) else toFixed num ex
  let r := scaleRat num 1 ex
  let isInt := r.1 % r.2 == 0
  if num = 0 then oneCode false
  else if !neg && decide (fx ≥ 128 * refOne) then infCode32 false
  else if neg && decide (fx < -150 * (refOne : Int)) then 0
  else
    let k := fx / (refOne : Int)
    let f := (fx % (refOne : Int)).toNat
    if isInt && decide (k ≥ -126) then roundTo fp32 (.fin false 1 1 k) .rne RoundOpts.none noDraw
    else
      let y := refExp (f * refLn2 / refOne)
      let r := scaleRat y 1 k
      let yk := r.1 / r.2
      within cand false yk (if decide (k < -126) then toFixed 1 (-149) else 3 * refUlp yk / 2)

/-- log2 of a positive finite value. -/
def sfLg2 (cand : Nat) (num : Nat) (ex : Int) : Nat :=
  let k : Int := num.log2 + ex
  if num = 2 ^ num.log2 then roundTo fp32 (XVal.ofInt k) .rne RoundOpts.none noDraw
  else
    let m := toFixed num (-(num.log2 : Int))
    let l := 2 * (atanSeries 1 ((m - refOne) * refOne / (m + refOne))).toNat * refOne / refLn2
    let y : Int := k * (refOne : Int) + l
    let near := decide (k = 0) || decide (k = -1)
    within cand (y < 0) y.natAbs (if near then toFixed 1 (-22) else 3 * refUlp y.natAbs / 2)

/-- 1 / x of a finite nonzero value. -/
def sfRcp (cand : Nat) (neg : Bool) (num : Nat) (ex : Int) : Nat :=
  let exact := roundTo fp32 (.fin neg 1 num (-ex)) .rne RoundOpts.none noDraw
  if exact = infCode32 neg then overflow32 cand neg
  else if num = 2 ^ num.log2 then exact
  else
    let r := scaleRat 1 num (-ex + refBits)
    within cand neg (r.1 / r.2) (refUlp (r.1 / r.2))

/-- √x of a positive value num × 2^ex, in fixed point at scale 2^sh, with a sticky half where inexact. -/
def sqrtRat (num : Nat) (ex : Int) : XVal :=
  -- make the exponent even and give the root at least 64 bits
  let n0 := if ex % 2 = 0 then num else 2 * num
  let e0 := if ex % 2 = 0 then ex else ex - 1
  let n1 := n0 * 2 ^ 128
  let root := isqrt n1
  let exact := decide (root * root = n1)
  .fin false (2 * root + (if exact then 0 else 1)) 1 (e0 / 2 - 65)

/-- 1 / √x of a positive value. -/
def sfRsq (cand : Nat) (num : Nat) (ex : Int) : Nat :=
  match sqrtRat num ex with
  | .fin _ n _ e =>
    let r := scaleRat 1 n (-e + refBits)
    within cand false (r.1 / r.2) (refUlp (r.1 / r.2))
  | _ => nan32

/-- sin(π r / 2^refBits) for the fixed-point r below 2; sign apart. -/
def sinpiFixed (r : Nat) : Bool × Nat :=
  let neg := decide (r ≥ refOne)
  let r1 := r % refOne
  let r2 := if r1 * 2 > refOne then refOne - r1 else r1
  (neg, refSin (r2 * refPi / refOne))

/-- sin(π x) of a value of sign neg, x = num × 2^ex, shifted by half when half is set (that is cos). -/
def sfSinpi (cand : Nat) (neg : Bool) (num : Nat) (ex : Int) (half : Bool) : Nat :=
  let sh : Int := if ex < -1 then ex else -1
  let unit := 2 ^ (-sh).toNat               -- one, in units of 2^sh
  let m : Int := signedAt neg num ex sh + (if half then (unit / 2 : Nat) else 0)
  let r := (m % ((2 * unit : Nat) : Int)).toNat
  if r % unit = 0 then (if half then 0 else zero32 neg)
  else if r = unit / 2 ∨ r = unit + unit / 2 then oneCode (r > unit)
  else
    let y := sinpiFixed (r * refOne / unit)
    within cand y.1 y.2 (2 * refUlp y.2)

/-- tanh x. -/
def sfTanh (cand : Nat) (neg : Bool) (num : Nat) (ex : Int) : Nat :=
  let t := toFixed num ex
  if t ≥ 9 * refOne then oneCode neg
  else
    let e := refExp (2 * t)
    let y := (e - refOne) * refOne / (e + refOne)
    within cand neg y (2 * refUlp y)

/-- erf x. -/
def sfErf (cand : Nat) (neg : Bool) (num : Nat) (ex : Int) : Nat :=
  let t := toFixed num ex
  if t ≥ 4 * refOne then oneCode neg
  else
    let y := refErf t
    within cand neg y (2 * refUlp y)

/-- Function codes (Table 3.7). -/
def SfFn.code : SfFn → Nat
  | .ex2 => 1
  | .lg2 => 2
  | .rcp => 3
  | .rsq => 4
  | .sqrt => 5
  | .sinpi => 6
  | .cospi => 7
  | .tanh => 8
  | .erf => 9

/-- The FP32 result of a special function (Table 6.13). -/
def sf32 (f : SfFn) (x : XVal) (cand : Nat) : Nat :=
  match x with
  | .nan => nan32
  | .inf neg =>
    match f with
    | .ex2 => if neg then 0 else infCode32 false
    | .lg2 => if neg then nan32 else infCode32 false
    | .rcp => zero32 neg
    | .rsq => if neg then nan32 else 0
    | .sqrt => if neg then nan32 else infCode32 false
    | .sinpi => nan32
    | .cospi => nan32
    | .tanh => oneCode neg
    | .erf => oneCode neg
  | .fin neg num _ ex =>
    match f with
    | .ex2 => sfEx2 cand neg num ex
    | .lg2 => if num = 0 then infCode32 true else if neg then nan32 else sfLg2 cand num ex
    | .rcp => if num = 0 then infCode32 neg else sfRcp cand neg num ex
    | .rsq => if num = 0 then infCode32 neg else if neg then nan32 else sfRsq cand num ex
    | .sqrt =>
      if num = 0 then zero32 neg else if neg then nan32
      else roundTo fp32 (sqrtRat num ex) .rne RoundOpts.none noDraw
    | .sinpi => sfSinpi cand neg num ex false
    | .cospi => sfSinpi cand neg num ex true
    | .tanh => if num = 0 then zero32 neg else sfTanh cand neg num ex
    | .erf => if num = 0 then zero32 neg else sfErf cand neg num ex

/-- SF on one element of a type (R217): read after FIN, computed in FP32, rounded to the type, flushed under FRES. -/
def sfElem (f : SfFn) (ty : ETy) (fpc : Word) (code : Nat) : Nat :=
  let fm := fmtOf ty
  let x := fm.value (fm.afterFin (fpcFin fpc) code)
  let key := roundTo fp32 x .rne RoundOpts.none noDraw
  let y := sf32 f x (Config.sfValue (SfFn.code f) (BitVec.ofNat 32 key)).toNat
  if y % fp32.signBit = 0 then (if y = 0 then 0 else fm.signBit)
  else roundTo fm (fp32.value y) .rne (RoundOpts.ofFpc fpc) noDraw

end Sys2Proof.Machine
end

