-- ==== Sys2Proof/Machine/Memory.lean ====
section
/-!
DEFINITION. Memory as a list of (address, byte) pairs in one canonical form: addresses strictly rising, no entry equal to
Config.emptyByte, which is what an unlisted address reads as (Log 4, Log 5).
-/
namespace Sys2Proof.Machine

/-- One byte. -/
def Mem.read : List Host.Cell → Nat → Byte
  | [], _ => Config.emptyByte
  | (k, b) :: t, a => if k = a then b else Mem.read t a

/-- One byte written; writing the empty byte removes the entry. -/
def Mem.write : List Host.Cell → Nat → Byte → List Host.Cell
  | [], a, b => if b = Config.emptyByte then [] else [(a, b)]
  | (k, c) :: t, a, b =>
    if a < k then (if b = Config.emptyByte then (k, c) :: t else (a, b) :: (k, c) :: t)
    else if a = k then (if b = Config.emptyByte then t else (a, b) :: t)
    else (k, c) :: Mem.write t a b

/-- Every address of the list lies above a bound, in rising order, and no entry is the empty byte. -/
def Mem.wfAbove : Option Nat → List Host.Cell → Bool
  | _, [] => true
  | lo, (k, b) :: t => (match lo with
      | none => true
      | some l => decide (l < k)) && b != Config.emptyByte && Mem.wfAbove (some k) t

/-- The canonical form. -/
def Mem.wf (m : List Host.Cell) : Bool := Mem.wfAbove none m

/-- n bytes from an address, lowest first. -/
def Mem.readN (m : List Host.Cell) (a : Nat) : Nat → List Byte
  | 0 => []
  | n + 1 => Mem.read m a :: Mem.readN m (a + 1) n

/-- Bytes written from an address, lowest first. -/
def Mem.writeN (m : List Host.Cell) (a : Nat) : List Byte → List Host.Cell
  | [] => m
  | b :: t => Mem.writeN (Mem.write m a b) (a + 1) t

/-- The little-endian number at an address (R7). -/
def Mem.readNat (m : List Host.Cell) (a n : Nat) : Nat := ofBytes (Mem.readN m a n)

/-- A number of n bytes written little-endian (R7). -/
def Mem.writeNat (m : List Host.Cell) (a n x : Nat) : List Host.Cell := Mem.writeN m a (bytesOf n x)

/-- Zero written to n bytes. -/
def Mem.zero (m : List Host.Cell) (a n : Nat) : List Host.Cell := m.filter (fun c => c.1 < a || a + n ≤ c.1)

end Sys2Proof.Machine
end

