-- ==== Sys2Proof/Machine/Access.lean ====
section
/-!
DEFINITION. Reading and writing the parts of State by number.
-/
namespace Sys2Proof.Machine

/-- The wave of a key, if it is resident. A key is a number that no other wave ever had. -/
def State.wave? (s : State) (k : Nat) : Option Wave := Tab.get? s.waves k
/-- Places a wave. -/
def State.setWave (s : State) (k : Nat) (w : Wave) : State := { s with waves := Tab.set s.waves k w }
/-- Changes a wave, if it is resident. -/
def State.modWave (s : State) (k : Nat) (f : Wave → Wave) : State := { s with waves := Tab.modify s.waves k f }
/-- Removes a wave. -/
def State.dropWave (s : State) (k : Nat) : State := { s with waves := Tab.erase s.waves k }
/-- A core. -/
def State.core (s : State) (c : Nat) : Core := Tab.getD s.cores c Core.reset
/-- Changes a core. -/
def State.modCore (s : State) (c : Nat) (f : Core → Core) : State := { s with cores := Tab.upd s.cores c Core.reset f }
/-- A party. -/
def State.party? (s : State) (p : Nat) : Option Party := Tab.get? s.parties p
/-- Changes a party. -/
def State.modParty (s : State) (p : Nat) (f : Party → Party) : State := { s with parties := Tab.modify s.parties p f }
/-- A launch. -/
def State.launch? (s : State) (l : Nat) : Option Launch := Tab.get? s.launches l

/-- The interface of a launch. -/
def State.launchVi (s : State) (l : Nat) : Option Nat := (s.launch? l).map (fun x => x.vi)
/-- Changes a launch. -/
def State.modLaunch (s : State) (l : Nat) (f : Launch → Launch) : State :=
  { s with launches := Tab.modify s.launches l f }
/-- A work queue. -/
def State.queue (s : State) (q : Nat) : WQueue := Tab.getD s.queues q WQueue.reset
/-- Changes a work queue. -/
def State.modQueue (s : State) (q : Nat) (f : WQueue → WQueue) : State :=
  { s with queues := Tab.upd s.queues q WQueue.reset f }
/-- A virtual interface. -/
def State.vi (s : State) (v : Nat) : Vi := Tab.getD s.vis v Vi.reset
/-- Changes a virtual interface. -/
def State.modVi (s : State) (v : Nat) (f : Vi → Vi) : State := { s with vis := Tab.upd s.vis v Vi.reset f }
/-- A tract. -/
def State.tract (s : State) (t : Nat) : Tract := Tab.getD s.tracts t Tract.reset
/-- Changes a tract. -/
def State.modTract (s : State) (t : Nat) (f : Tract → Tract) : State :=
  { s with tracts := Tab.upd s.tracts t Tract.reset f }
/-- A fabric port. -/
def State.port (s : State) (i : Nat) : FabPort := Tab.getD s.ports i FabPort.reset
/-- Changes a fabric port. -/
def State.modPort (s : State) (i : Nat) (f : FabPort → FabPort) : State :=
  { s with ports := Tab.upd s.ports i FabPort.reset f }
/-- A legend register. -/
def State.legend (s : State) (n : Nat) : Legend := Tab.getD s.legends n Legend.reset
/-- A zone of a core. -/
def Core.zone (c : Core) (z : Nat) : Zone := Tab.getD c.zones z Zone.reset
/-- Changes a zone. -/
def State.modZone (s : State) (c z : Nat) (f : Zone → Zone) : State :=
  s.modCore c (fun k => { k with zones := Tab.upd k.zones z Zone.reset f })
/-- A plot of a zone. -/
def Zone.plot (z : Zone) (p : Nat) : Plot := Tab.getD z.plots p Plot.reset
/-- A circular buffer of a core. -/
def Core.cb (c : Core) (n : Nat) : Cb := Tab.getD c.cbs n Cb.reset
/-- Changes a circular buffer. -/
def State.modCb (s : State) (c n : Nat) (f : Cb → Cb) : State :=
  s.modCore c (fun k => { k with cbs := Tab.upd k.cbs n Cb.reset f })

/-- A new number, never used before. -/
def State.newId (s : State) : Nat × State := (s.nextId, { s with nextId := s.nextId + 1 })

/-- The next choice of the tape; 0 when the tape is empty (Log 2). -/
def State.choose (s : State) : Nat × State :=
  match s.tape with
  | [] => (0, s)
  | n :: t => (n, { s with tape := t })

/-- A free value of a lane of the move being performed (Log 8). -/
def State.free (s : State) (lane : Nat) : Lane := Config.freeBits ((s.fresh * 8 + s.slot) * 64 + lane)

/-- The counter of free values moves on. -/
def State.refresh (s : State) : State := { s with fresh := s.fresh + 1 }

/-- The acting wave. -/
def State.cur? (s : State) : Option Wave := s.wave? s.cur

/-- The core of a wave. -/
def State.coreOf (s : State) (k : Nat) : Nat :=
  match s.wave? k with
  | some w => w.core
  | none => 0

/-- The waves of a party, in WAVE order of the table. -/
def State.partyWaves (s : State) (p : Nat) : List (Nat × Wave) := s.waves.filter (fun e => e.2.party == p)

/-- The waves resident on a core. -/
def State.coreWaves (s : State) (c : Nat) : List (Nat × Wave) := s.waves.filter (fun e => e.2.core == c)

/-- The parties placed on a core. -/
def State.coreParties (s : State) (c : Nat) : List (Nat × Party) :=
  s.parties.filter (fun e => e.2.core == c && e.2.resident && !e.2.ended)

/-! Identifiers (R3). -/

/-- The 10-bit identifier of a linear core number. -/
def coreIdent (n : Nat) : Nat := n / 160 * 256 + n / 40 % 4 * 64 + n / 8 % 5 * 8 + n % 8

/-- The linear core number of an identifier; none where the sheet field is 5, 6 or 7. -/
def coreLinear (i : Nat) : Option Nat :=
  if i ≥ 1024 ∨ i / 8 % 8 ≥ 5 then none else some (i / 256 * 160 + i / 64 % 4 * 40 + i / 8 % 8 * 8 + i % 8)

/-- The instance of a scope that holds a core: its number among the instances of that scope (R161). -/
def scopeInst (sc core : Nat) : Nat :=
  if sc ≤ 1 then core
  else if sc = 2 then core / 8
  else if sc = 3 then core / 40
  else if sc = 4 then core / 160
  else 0

/-- A launch of which parties may be placed. -/
def Launch.active (l : Launch) : Bool := !l.completed && !l.cancelled && l.fault.isNone

end Sys2Proof.Machine
end

