-- ==== Sys2Proof/Machine/Shape.lean ====
section
/-!
DEFINITION. The shape of each instruction: the guard and source of a move, and the unit a trigger starts. An event is no move.
-/
namespace Sys2Proof.Machine

/-- The guard and source of a move; none for an event. -/
def moveOf : Instr → Option Mv
  | .registerMove m _ _ | .operandPortWrite m _ _ _ | .nullSinkMove m | .iaAdd m _ _ | .iaSub m _ _ | .iaAdds m _ _
  | .iaSubs m _ _ | .iaNeg m _ _ | .iaNegs m _ _ | .iaAbs m _ _ | .iaAbss m _ _ | .iaMin m _ _ | .iaMax m _ _
  | .iaAnd m _ _ | .iaOr m _ _ | .iaXor m _ _ | .iaAndn m _ _ | .iaNot m _ _ | .iaCmpeq m _ _ | .iaCmpne m _ _
  | .iaCmplt m _ _ | .iaCmple m _ _ | .iaCmpgt m _ _ | .iaCmpge m _ _ | .iaSel m _ _ | .iaClz m _ _ | .iaPopc m _ _
  | .iaBrev m _ _ | .iaAvg m _ _ | .iaAdc m _ _ | .iaSbb m _ _ | .mlMul m _ | .mlMulhi m _ | .mlMad m _ | .mlMadw m _
  | .mlDot4 m _ | .shShl m _ | .shShr m _ | .shSar m _ | .shRol m _ | .shRor m _ | .shBfe m _ | .shBfi m _
  | .shFunl m _ | .shPerm m _ | .fmFadd m _ _ _ | .fmFsub m _ _ _ | .fmFmul m _ _ _ | .fmFma m _ _ _
  | .fmFnma m _ _ _ | .fmFrint m _ _ _ | .fmFscale m _ _ _ | .fmFmin m _ _ | .fmFmax m _ _ | .fmFminp m _ _
  | .fmFmaxp m _ _ | .fmFcmp m _ _ _ | .fmFclass m _ _ | .fmFsgn m _ _ _ | .chChain m _ _ _ | .cvCvt m _ _ _
  | .xsShfl m _ | .xsShflup m _ | .xsShfldn m _ | .xsShflx m _ | .xsBcast m _ | .xsVoteany m _ | .xsVoteall m _
  | .xsBallot m _ | .xsRedadd m _ | .xsRedmax m _ | .xsRedmin m _ | .xsScanadd m _ | .xsMatch m _ | .saAdd m
  | .saSub m | .saAnd m | .saOr m | .saXor m | .saShl m | .saShr m | .saSar m | .saMul m | .saCmp m _ _ | .saMov m
  | .saLi m | .saMin m _ | .saMax m _ | .ldLdg m _ _ _ | .ldLds m _ _ _ | .ldLdl m _ _ _ | .ldLdb m _ _ _
  | .ldLdsc m _ _ _ | .ldLdnt m _ _ _ | .stStg m _ _ | .stSts m _ _ | .stStsc m _ _ | .stStnt m _ _ | .atAdd m _ _ _
  | .atSub m _ _ _ | .atMin m _ _ _ | .atMax m _ _ _ | .atMinu m _ _ _ | .atMaxu m _ _ _ | .atAnd m _ _ _
  | .atOr m _ _ _ | .atXor m _ _ _ | .atXchg m _ _ _ | .atCas m _ _ _ | .atInc m _ _ _ | .atFadd m _ _ _ | .lgPub m _
  | .lgAcq m _ | .lgAcqn m _ | .lgDrain m | .lgLogst m | .baBinit m | .baArrive m | .baWait m | .baTest m | .baPbar m
  | .baCbinit m _ | .baCbresv m _ | .baCbfill m _ | .baCbtake m _ | .baCbfree m _ | .mxCfg m | .mxLdb m _
  | .mxMmq m _ _ | .mxMmw m _ _ | .mxZacc m _ | .mxStacc m _ | .mxRdacc m _ | .mxKat m | .mxQstat m | .gaGidx m
  | .gaGrows m | .gaGstat m | .sxCopy2d m | .sxCopy2dw m | .sxLoopcopy m _ | .sxStop m | .sxLandresv m _
  | .sxLandsend m _ | .sxLandclr m _ | .sxZoneinit m _ | .sxWaitc m | .sfEx2 m _ | .sfLg2 m _ | .sfRcp m _
  | .sfRsq m _ | .sfSqrt m _ | .sfSinpi m _ | .sfCospi m _ | .sfTanh m _ | .sfErf m _ | .ctBra m | .ctBany m
  | .ctBall m | .ctBnone m | .ctBscal m _ _ | .ctCall m | .ctRet m | .ctBtab m _ | .ctLoop m | .ctAllon m
  | .ctAlloff m | .ctMaskg m | .ctMasks m | .ctSeg m | .ctPhase m | .ctRoute m | .ctYield m | .ctExit m | .ctWaite m
  | .syTrap m | .syRett m | .syCsrr m | .syCsrw m | .syCsrs m | .syCsrc m | .syIcinv m | .syFbar m | .syPref m _
  | .syLaunch m | .sySleep m | .syQfence m | .syRdv m | .syWheelq m => some m
  | .exposedResultLand _ | .waveExchange _ | .translationWalkDone _ | .ldEntryArrive _ _ | .loadNoResponse _ _
  | .atHomePerform _ | .atResend _ _ | .atResendTimeout _ _ | .atTagExpire _ _ _ | .spillMove _ | .logFullDrain _
  | .markStand _ | .acquireComplete _ | .drainComplete _ | .compactMark _ _ | .scPerform _ | .domainCountWarning
  | .stampLimitStop | .baWaitSatisfy _ | .baPbarComplete _ | .cbSlotReady _ _ | .mxCommandPerform _ | .mxIdle _
  | .mxWakeAdmit _ | .mxWakeStart _ | .gaComplete _ | .sfResult _ | .copy2dwStart _ | .sxCopyComplete _
  | .loopcopyIteration _ _ | .completionRecordWrite _ | .waitcSatisfy _ | .landresvReceive _ | .landsendReceive _
  | .landsendWriteComplete _ _ | .landclrRemoteReceive _ | .landfallResponse _ | .plotClearEffect _ _
  | .plotLeaseExpire _ _ _ | .failureNoticeReceive _ | .phaseEnd _ | .phaseStart _ | .taskAssign _ | .partyEnd _
  | .sleepExpire _ | .detectedError _ | .segRerunEnd _ | .twinRecordCompare _ | .twinEscapePerform _
  | .correctedError _ _ _ | .uncorrectableHbmError _ | .packetHead _ | .packetAge _ | .schedulePlace _
  | .preemptHaltComplete _ | .haltTimeout _ | .contextResume _ | .sliceSwitch _ | .launchComplete _
  | .doneRecordWrite _ | .wqtailWrite _ _ | .queueKill _ | .peerPacketReceive _ _ _ | .partitionEnable _
  | .registerWrite _ _ _ | .tlbinvInterface _ | .tlbinvAsid _ _ | .tlbinvVaRange _ _ _ _ | .tlbinvGpaRange _ _ _
  | .tlbinvComplete _ | .poisonSet _ | .poisonClear _ | .poisonCmdComplete | .placeSet _ _ | .placeQuery _
  | .legendCommit _ _ _ | .legendClear _ _ _ | .legendClearComplete _ | .mtcapWrite _ _ | .portEnable _
  | .portDisable _ | .portTrainUp _ _ _ | .portTrainTimeout _ | .portFail _ | .domainBringUp | .domainJoin _ _
  | .domainDown | .fabricSubmit _ | .fabricSubmitAnswer _ | .fabricSubmitTimeout | .zonePlotRead _ _ _
  | .zoneClose _ _ | .counterClear _ | .counterSnap _ | .snapall | .vcounterSnap _ | .dutyUpdate _ _ | .thermalTrip
  | .standbyPowerOn _ | .mcfwStart _ _ _ | .ccCore0Release | .ccfwStage3 _ _ | .moduleReset | .containerLoad _ _ _
  | .patchCommit _ | .demandPageLoad _ _ _ _ | .quote _ | .query | .readbook _ | .preserve | .release _ _
  | .retire _ _ | .returnCore _ _ | .raisemin _ _ _ | .loadlist _ _ | .reset _ | .atResponseArrive _ _ _
  | .remoteLoadRequest _ _ _ _ | .remoteRecordReceive _ | .fabricForward _ _ | .logLost _ _
  | .controlComplexAccess _ _ _ _ _ | .containerUnload _ | .powerLoss => none

/-- The unit whose trigger port a move writes; none for another move or an event. -/
def unitOf : Instr → Option PortUnit
  | .iaAdd _ u _ | .iaSub _ u _ | .iaAdds _ u _ | .iaSubs _ u _ | .iaNeg _ u _ | .iaNegs _ u _ | .iaAbs _ u _
  | .iaAbss _ u _ | .iaMin _ u _ | .iaMax _ u _ | .iaAnd _ u _ | .iaOr _ u _ | .iaXor _ u _ | .iaAndn _ u _
  | .iaNot _ u _ | .iaCmpeq _ u _ | .iaCmpne _ u _ | .iaCmplt _ u _ | .iaCmple _ u _ | .iaCmpgt _ u _
  | .iaCmpge _ u _ | .iaSel _ u _ | .iaClz _ u _ | .iaPopc _ u _ | .iaBrev _ u _ | .iaAvg _ u _ | .iaAdc _ u _
  | .iaSbb _ u _ => some (if u then .ia1 else .ia0)
  | .fmFadd _ u _ _ | .fmFsub _ u _ _ | .fmFmul _ u _ _ | .fmFma _ u _ _ | .fmFnma _ u _ _ | .fmFrint _ u _ _
  | .fmFscale _ u _ _ | .fmFmin _ u _ | .fmFmax _ u _ | .fmFminp _ u _ | .fmFmaxp _ u _ | .fmFcmp _ u _ _
  | .fmFclass _ u _ | .fmFsgn _ u _ _ => some (if u then .fm1 else .fm0)
  | .mlMul _ _ | .mlMulhi _ _ | .mlMad _ _ | .mlMadw _ _ | .mlDot4 _ _ => some .ml
  | .shShl _ _ | .shShr _ _ | .shSar _ _ | .shRol _ _ | .shRor _ _ | .shBfe _ _ | .shBfi _ _ | .shFunl _ _
  | .shPerm _ _ => some .sh
  | .chChain _ _ _ _ => some .ch
  | .cvCvt _ _ _ _ => some .cv
  | .xsShfl _ _ | .xsShflup _ _ | .xsShfldn _ _ | .xsShflx _ _ | .xsBcast _ _ | .xsVoteany _ _ | .xsVoteall _ _
  | .xsBallot _ _ | .xsRedadd _ _ | .xsRedmax _ _ | .xsRedmin _ _ | .xsScanadd _ _ | .xsMatch _ _ => some .xs
  | .saAdd _ | .saSub _ | .saAnd _ | .saOr _ | .saXor _ | .saShl _ | .saShr _ | .saSar _ | .saMul _ | .saCmp _ _ _
  | .saMov _ | .saLi _ | .saMin _ _ | .saMax _ _ => some .sa
  | .ldLdg _ _ _ _ | .ldLds _ _ _ _ | .ldLdl _ _ _ _ | .ldLdb _ _ _ _ | .ldLdsc _ _ _ _ | .ldLdnt _ _ _ _ => some .ld
  | .stStg _ _ _ | .stSts _ _ _ | .stStsc _ _ _ | .stStnt _ _ _ => some .st
  | .atAdd _ _ _ _ | .atSub _ _ _ _ | .atMin _ _ _ _ | .atMax _ _ _ _ | .atMinu _ _ _ _ | .atMaxu _ _ _ _
  | .atAnd _ _ _ _ | .atOr _ _ _ _ | .atXor _ _ _ _ | .atXchg _ _ _ _ | .atCas _ _ _ _ | .atInc _ _ _ _
  | .atFadd _ _ _ _ => some .atm
  | .lgPub _ _ | .lgAcq _ _ | .lgAcqn _ _ | .lgDrain _ | .lgLogst _ => some .lg
  | .baBinit _ | .baArrive _ | .baWait _ | .baTest _ | .baPbar _ | .baCbinit _ _ | .baCbresv _ _ | .baCbfill _ _
  | .baCbtake _ _ | .baCbfree _ _ => some .ba
  | .mxCfg _ | .mxLdb _ _ | .mxMmq _ _ _ | .mxMmw _ _ _ | .mxZacc _ _ | .mxStacc _ _ | .mxRdacc _ _ | .mxKat _
  | .mxQstat _ => some .mx
  | .gaGidx _ | .gaGrows _ | .gaGstat _ => some .ga
  | .sxCopy2d _ | .sxCopy2dw _ | .sxLoopcopy _ _ | .sxStop _ | .sxLandresv _ _ | .sxLandsend _ _ | .sxLandclr _ _
  | .sxZoneinit _ _ | .sxWaitc _ => some .sx
  | .sfEx2 _ _ | .sfLg2 _ _ | .sfRcp _ _ | .sfRsq _ _ | .sfSqrt _ _ | .sfSinpi _ _ | .sfCospi _ _ | .sfTanh _ _
  | .sfErf _ _ => some .sf
  | .ctBra _ | .ctBany _ | .ctBall _ | .ctBnone _ | .ctBscal _ _ _ | .ctCall _ | .ctRet _ | .ctBtab _ _ | .ctLoop _
  | .ctAllon _ | .ctAlloff _ | .ctMaskg _ | .ctMasks _ | .ctSeg _ | .ctPhase _ | .ctRoute _ | .ctYield _ | .ctExit _
  | .ctWaite _ => some .ct
  | .syTrap _ | .syRett _ | .syCsrr _ | .syCsrw _ | .syCsrs _ | .syCsrc _ | .syIcinv _ | .syFbar _ | .syPref _ _
  | .syLaunch _ | .sySleep _ | .syQfence _ | .syRdv _ | .syWheelq _ => some .sy
  | .registerMove _ _ _ | .operandPortWrite _ _ _ _ | .nullSinkMove _ | .exposedResultLand _ | .waveExchange _
  | .translationWalkDone _ | .ldEntryArrive _ _ | .loadNoResponse _ _ | .atHomePerform _ | .atResend _ _
  | .atResendTimeout _ _ | .atTagExpire _ _ _ | .spillMove _ | .logFullDrain _ | .markStand _ | .acquireComplete _
  | .drainComplete _ | .compactMark _ _ | .scPerform _ | .domainCountWarning | .stampLimitStop | .baWaitSatisfy _
  | .baPbarComplete _ | .cbSlotReady _ _ | .mxCommandPerform _ | .mxIdle _ | .mxWakeAdmit _ | .mxWakeStart _
  | .gaComplete _ | .sfResult _ | .copy2dwStart _ | .sxCopyComplete _ | .loopcopyIteration _ _
  | .completionRecordWrite _ | .waitcSatisfy _ | .landresvReceive _ | .landsendReceive _ | .landsendWriteComplete _ _
  | .landclrRemoteReceive _ | .landfallResponse _ | .plotClearEffect _ _ | .plotLeaseExpire _ _ _
  | .failureNoticeReceive _ | .phaseEnd _ | .phaseStart _ | .taskAssign _ | .partyEnd _ | .sleepExpire _
  | .detectedError _ | .segRerunEnd _ | .twinRecordCompare _ | .twinEscapePerform _ | .correctedError _ _ _
  | .uncorrectableHbmError _ | .packetHead _ | .packetAge _ | .schedulePlace _ | .preemptHaltComplete _
  | .haltTimeout _ | .contextResume _ | .sliceSwitch _ | .launchComplete _ | .doneRecordWrite _ | .wqtailWrite _ _
  | .queueKill _ | .peerPacketReceive _ _ _ | .partitionEnable _ | .registerWrite _ _ _ | .tlbinvInterface _
  | .tlbinvAsid _ _ | .tlbinvVaRange _ _ _ _ | .tlbinvGpaRange _ _ _ | .tlbinvComplete _ | .poisonSet _
  | .poisonClear _ | .poisonCmdComplete | .placeSet _ _ | .placeQuery _ | .legendCommit _ _ _ | .legendClear _ _ _
  | .legendClearComplete _ | .mtcapWrite _ _ | .portEnable _ | .portDisable _ | .portTrainUp _ _ _
  | .portTrainTimeout _ | .portFail _ | .domainBringUp | .domainJoin _ _ | .domainDown | .fabricSubmit _
  | .fabricSubmitAnswer _ | .fabricSubmitTimeout | .zonePlotRead _ _ _ | .zoneClose _ _ | .counterClear _
  | .counterSnap _ | .snapall | .vcounterSnap _ | .dutyUpdate _ _ | .thermalTrip | .standbyPowerOn _
  | .mcfwStart _ _ _ | .ccCore0Release | .ccfwStage3 _ _ | .moduleReset | .containerLoad _ _ _ | .patchCommit _
  | .demandPageLoad _ _ _ _ | .quote _ | .query | .readbook _ | .preserve | .release _ _ | .retire _ _
  | .returnCore _ _ | .raisemin _ _ _ | .loadlist _ _ | .reset _ | .atResponseArrive _ _ _
  | .remoteLoadRequest _ _ _ _ | .remoteRecordReceive _ | .fabricForward _ _ | .logLost _ _
  | .controlComplexAccess _ _ _ _ _ | .containerUnload _ | .powerLoss => none

end Sys2Proof.Machine
end

