-- ==== Sys2Proof/Machine/Operands.lean ====
section
/-!
DEFINITION. The operand forms: rotation (R34), guards and active lanes (R22), sources with their widths (R19, R20, R81 to
R86), the ports of exposed and queued units (R27, R29), and what a move writes (R18 to R21, R84, R88).
-/
namespace Sys2Proof.Machine

/-- Lanes a wave's registers hold: 64 in a 64-lane group, else 32 (R45, R46). -/
def Wave.phys (w : Wave) : Nat := if w.width = 64 then 64 else 32

/-- Every lane of the declared width (R25, R46). -/
def Wave.allLanes (w : Wave) : BitVec 64 := lanesBelow w.width

/-- The physical lane register a name stands for (R34). -/
def Wave.physV (w : Wave) (n : Nat) : Nat := if n < 64 then n else 64 + (n - 64 + 32 - w.rrb.toNat % 32) % 32

/-- The physical guard register a name stands for (R34). -/
def Wave.physG (w : Wave) (n : Nat) : Nat := if n < 8 then n else 8 + (n - 8 + 32 - w.rrb.toNat % 32) % 8

/-- A lane register; one that nothing has written holds zero (R348). -/
def Wave.readV (w : Wave) (n : Nat) : List Lane := Tab.getD w.v (w.physV n) []

/-- A guard register, all lanes; g0 is true (R13). -/
def Wave.readG (w : Wave) (n : Nat) : BitVec 64 :=
  if n = 0 then lanesBelow w.phys else Tab.getD w.g (w.physG n) 0

/-- A scalar register. -/
def Wave.readS (w : Wave) (n : Nat) : Word := Tab.getD w.s n 0
/-- An address register. -/
def Wave.readA (w : Wave) (n : Nat) : Word := Tab.getD w.a n 0
/-- A condition bit. -/
def Wave.readK (w : Wave) (n : Nat) : Bool := Tab.getD w.k n false

/-- The lanes where a move's guard is true (R22). -/
def Wave.guard (w : Wave) (m : Mv) : BitVec 64 :=
  (if m.inv then ~~~ w.readG m.gidx else w.readG m.gidx) &&& w.allLanes

/-- The lanes with Active(L, guard) (R22). -/
def Wave.active (w : Wave) (m : Mv) : BitVec 64 := w.exm &&& w.guard m

/-- The guard is true in at least one lane of the wave (R22). -/
def Wave.guardAny (w : Wave) (m : Mv) : Bool := w.guard m != 0

/-- The clock of the exposed ports: bundle count, or handler count in a handler (R29, R39). -/
def Wave.clock (w : Wave) : Nat := if w.hmode then w.hcount else w.count

/-- The latency bound of an exposed unit (Table 1.3, R89); 0 for the others. -/
def unitBound (u : PortUnit) : Nat :=
  match u with
  | .ia0 | .ia1 | .sh | .sa | .sy => 1
  | .cv | .xs => 2
  | .ml | .ch => 3
  | .fm0 | .fm1 => 4
  | .ld | .st | .atm | .lg | .ba | .mx | .ga | .sx | .sf | .ct => 0

/-- A queued unit (Table 3.6). -/
def isQueued (u : PortUnit) : Bool :=
  match u with
  | .ld | .st | .atm | .lg | .ba | .mx | .ga | .sx | .sf => true
  | .ia0 | .ia1 | .sh | .ml | .fm0 | .fm1 | .ch | .cv | .xs | .sa | .ct | .sy => false

/-- A unit whose operand and trigger ports are wave-scalar (R21). -/
def isScalarUnit (u : PortUnit) : Bool := u == .sa || u == .ct || u == .sy

/-- What a source gives: one value a lane, a wave-scalar value, or an immediate (R20, R21). -/
inductive SVal
  | lanes (l : List Lane)
  | scalar (x : Word)
  | imm (x : Word)
  deriving DecidableEq, Repr

/-- The 128 bits of a lane (R19): an immediate is sign-extended, a register zero-extended. -/
def SVal.lane (v : SVal) (L : Nat) : Lane :=
  match v with
  | .lanes l => laneAt l L
  | .scalar x => x.zeroExtend 128
  | .imm x => x.signExtend 128

/-- Every lane of a source. -/
def SVal.all (v : SVal) (n : Nat) : List Lane := (List.range n).map v.lane

/-- The 64 bits a wave-scalar destination takes: a lane source gives those of its lowest active lane; any other source is
taken when the guard is true in some lane (R20 to R22). -/
def SVal.word (v : SVal) (w : Wave) (m : Mv) : Option Word :=
  match v with
  | .lanes l => (lowest (w.active m)).map (fun L => (laneAt l L).truncate 64)
  | .scalar x => if w.guardAny m then some x else none
  | .imm x => if w.guardAny m then some x else none

/-- The landed value of a lane of an exposed port; none where it is undefined (R29, R39). -/
def WaveIo.portLane (io : WaveIo) (u L : Nat) : Option Lane :=
  match Tab.get? io.ports u with
  | some l => l.getD L io.portDef
  | none => io.portDef

/-- A flight becomes visible: its lanes replace the port's (R29). -/
def WaveIo.land (io : WaveIo) (n : Nat) (f : Flight) : WaveIo :=
  { io with
    ports := Tab.set io.ports f.u
      ((List.range n).map (fun L => if f.mask.getLsbD L then some (laneAt f.vals L) else io.portLane f.u L)) }

/-- Every flight due at a clock lands, in the order of the triggers (R29). -/
def WaveIo.landDue (io : WaveIo) (n now : Nat) : WaveIo :=
  (io.flight.filter (fun f => f.t + f.bound ≤ now)).foldl (fun i f => i.land n f)
    { io with flight := io.flight.filter (fun f => now < f.t + f.bound) }

/-- The result queue of a unit. -/
def WaveIo.queue (io : WaveIo) (u : PortUnit) : List Entry := Tab.getD io.res u.code []

/-- Changes a result queue. -/
def WaveIo.setQueue (io : WaveIo) (u : PortUnit) (q : List Entry) : WaveIo := { io with res := Tab.set io.res u.code q }

/-- The value of a readable special (Table 3.5). -/
def readSpec (s : State) (w : Wave) (r : RSpec) : SVal :=
  match r with
  | .k n => .scalar (if w.readK n then 1 else 0)
  | .exm => .scalar w.exm
  | .exs => .scalar w.exs
  | .rrb => .scalar (w.rrb.zeroExtend 64)
  | .lc => .scalar w.lc
  | .ec => .scalar w.ec
  | .fpc => .scalar w.fpc
  | .ssig => .scalar w.ssig
  | .bcnt => .scalar (BitVec.ofNat 64 w.clock)
  | .lane => .lanes ((List.range w.phys).map (fun L => BitVec.ofNat 128 L))
  | .wave => .scalar (BitVec.ofNat 64 w.num)
  | .core =>
    -- R319: a trailing twin receives the leader's value
    match w.twin with
    | some (_, false) => .scalar (BitVec.ofNat 64 (coreIdent (((s.party? (w.party - 1)).map (fun p => p.core)).getD w.core)))
    | _ => .scalar (BitVec.ofNat 64 (coreIdent w.core))
  | .taskx => .scalar (BitVec.ofNat 64 (match s.party? w.party with
      | some p => p.taskx
      | none => 0))
  | .tasky => .scalar (BitVec.ofNat 64 (match s.party? w.party with
      | some p => p.tasky
      | none => 0))

/-- The 64-bit value of a long immediate (R83). -/
def limmValue (limm : List SlotBits) (k : Nat) : Word := (limm.getD k 0).signExtend 64

/-- The move in a slot pops the queue of a unit, by the wave as it stood before the bundle (R23, R27). -/
def popsAt (w : Wave) (u : PortUnit) (i : Option Instr) : Bool :=
  match i.bind moveOf with
  | some m => m.src == .port u && w.active m != 0
  | none => false

/-- How many moves of the bundle in slots below n pop the queue of a unit (R27). -/
def popsBelow (s : State) (w : Wave) (u : PortUnit) (n : Nat) : Nat :=
  ((s.ib.moves.take n).filter (popsAt w u)).length

/-- The entry a move pops: successive entries from the head, in slot order (R27). -/
def popEntry (s : State) (w : Wave) (u : PortUnit) : Option Entry := (w.io.queue u)[popsBelow s w u s.slot]?

/-- The lanes of an entry; a lane that was not active at its trigger holds an undefined value (R145). -/
def entryLanes (s : State) (n : Nat) (e : Entry) : List Lane :=
  (List.range n).map (fun L => if e.mask.getLsbD L then laneAt e.vals L else s.free L)

/-- The value of a move's source, read in the wave as it stood before the bundle (R18, R81). DESIGN CHOICE (Log 81): R224 calls the result
ports SA.r and SY.r wave-scalar and R29 gives every exposed port one value a lane; as a source they are read as lane sources, so that a
wave-scalar destination takes the lowest active lane's value, and nothing while no lane is active (R21). -/
def srcVal (s : State) (w : Wave) (m : Mv) : SVal :=
  match m.src with
  | .v n => .lanes (w.readV n)
  | .s n => .scalar (w.readS n)
  | .a n => .scalar (w.readA n)
  | .g n => .lanes ((List.range w.phys).map (fun L => if (w.readG n).getLsbD L then 1 else 0))
  | .port u =>
    if isQueued u then
      match popEntry s w u with
      | some e => .lanes (entryLanes s w.phys e)
      | none => .lanes ((List.range w.phys).map s.free)
    else .lanes ((List.range w.phys).map (fun L => (w.io.portLane u.code L).getD (s.free L)))
  | .spec r => readSpec s w r
  | .limm k => .imm (limmValue s.ib.limm k)
  | .imm x => .imm (x.signExtend 64)

/-- The queue a move pops, if it pops (R23). -/
def popUnit (w : Wave) (m : Mv) : Option PortUnit :=
  match m.src with
  | .port u => if isQueued u && w.active m != 0 then some u else none
  | .v _ | .s _ | .a _ | .g _ | .spec _ | .limm _ | .imm _ => none

/-- The acting wave with the entry a move pops removed from its queue (R27). -/
def popSrc (s : State) (w : Wave) (m : Mv) : State :=
  match popUnit w m with
  | none => s
  | some u =>
    match popEntry s w u with
    | none => s
    | some e => s.modWave s.cur (fun v => { v with io := v.io.setQueue u ((v.io.queue u).filter (fun x => x.id != e.id)) })

/-! Destinations. -/

/-- A lane register written in the lanes of a mask. -/
def Wave.writeV (w : Wave) (phys : Nat) (mask : BitVec 64) (l : List Lane) : Wave :=
  { w with v := Tab.set w.v phys (mergeLanes w.phys mask l (Tab.getD w.v phys [])) }

/-- A guard register written in the lanes of a mask; a write to g0 has no effect (R22). -/
def Wave.writeG (w : Wave) (n phys : Nat) (mask val : BitVec 64) : Wave :=
  if n = 0 then w else { w with g := Tab.set w.g phys ((val &&& mask) ||| (Tab.getD w.g phys 0 &&& ~~~ mask)) }

/-- A writable special (Table 3.5). -/
def Wave.writeSpec (w : Wave) (r : WSpec) (x : Word) : Wave :=
  match r with
  | .k n => { w with k := Tab.set w.k n (x.getLsbD 0) }
  | .rrb => { w with rrb := x.truncate 5 }
  | .lc => { w with lc := x }
  | .ec => { w with ec := x }
  | .fpc => { w with fpc := fpcWrite w.fpc x }

/-- What a register move writes in the acting wave w; pre is the wave before the bundle (R18 to R22). -/
def writeDst (pre : Wave) (m : Mv) (d : Dst) (fill : Nat) (v : SVal) (w : Wave) : Wave :=
  match d with
  | .v n => w.writeV (pre.physV n) (pre.active m) ((List.range pre.phys).map (fun L => fillLane fill (v.lane L)))
  | .g n => w.writeG n (pre.physG n) (pre.active m) (maskOf (fun L => (v.lane L).getLsbD 0))
  | .s n =>
    match v.word pre m with
    | some x => { w with s := Tab.set w.s n x }
    | none => w
  | .a n =>
    match v.word pre m with
    | some x => { w with a := Tab.set w.a n x }
    | none => w
  | .spec r =>
    match v.word pre m with
    | some x => w.writeSpec r x
    | none => w

/-- The latches of a unit. -/
def WaveIo.latch (io : WaveIo) (u : PortUnit) : UnitLatch := Tab.getD io.latches u.code { a := [], b := [], c := [] }
/-- The latches of SA, CT or SY. -/
def WaveIo.slatch (io : WaveIo) (u : PortUnit) : ScalarLatch := Tab.getD io.slatches u.code { a := 0, b := 0 }

/-- One operand latch of a lane unit written in the lanes of a mask. -/
def WaveIo.setLatch (io : WaveIo) (n : Nat) (u : PortUnit) (p : Latch) (mask : BitVec 64) (l : List Lane) : WaveIo :=
  let o := io.latch u
  { io with
    latches := Tab.set io.latches u.code
      (match p with
       | .a => { o with a := mergeLanes n mask l o.a }
       | .b => { o with b := mergeLanes n mask l o.b }
       | .c => { o with c := mergeLanes n mask l o.c }) }

/-- One operand latch of SA, CT or SY. -/
def WaveIo.setSlatch (io : WaveIo) (u : PortUnit) (p : Latch) (x : Word) : WaveIo :=
  let o := io.slatch u
  { io with
    slatches := Tab.set io.slatches u.code
      (match p with
       | .a => { o with a := x }
       | .b => { o with b := x }
       | .c => o) }

/-- What an operand-port move writes (R88). -/
def writePort (pre : Wave) (m : Mv) (u : PortUnit) (p : Latch) (fill : Nat) (v : SVal) (w : Wave) : Wave :=
  if isScalarUnit u then
    match v.word pre m with
    | some x => { w with io := w.io.setSlatch u p x }
    | none => w
  else
    { w with io := w.io.setLatch pre.phys u p (pre.active m) ((List.range pre.phys).map (fun L => fillLane fill (v.lane L))) }

/-- The lanes in which a higher slot of the bundle writes the same latch a, by a move or as a trigger's source (R110). -/
def laterLatchA (s : State) (w : Wave) (u : PortUnit) : BitVec 64 :=
  (s.ib.moves.drop (s.slot + 1)).foldl (fun acc i =>
    match i with
    | none => acc
    | some j =>
      match moveOf j with
      | none => acc
      | some m =>
        if unitOf j == some u then acc ||| w.active m
        else
          match j with
          | .operandPortWrite _ u' .a _ => if u' = u then acc ||| w.active m else acc
          | _ => acc) 0

/-- The lanes in which a higher slot of the bundle triggers the same unit (R18, R28). -/
def laterTriggers (s : State) (w : Wave) (u : PortUnit) : BitVec 64 :=
  (s.ib.moves.drop (s.slot + 1)).foldl (fun acc i =>
    match i with
    | none => acc
    | some j =>
      match moveOf j with
      | none => acc
      | some m => if unitOf j == some u then acc ||| w.active m else acc) 0

/-- The lanes in which a trigger starts its unit: active, and triggered by no higher slot (R18). -/
def trigMask (s : State) (w : Wave) (u : PortUnit) (m : Mv) : BitVec 64 := w.active m &&& ~~~ laterTriggers s w u

/-- The trigger's source enters the unit's latch a (R26). -/
def latchA (s : State) (pre : Wave) (u : PortUnit) (m : Mv) (v : SVal) : State :=
  let mask := pre.active m &&& ~~~ laterLatchA s pre u
  s.modWave s.cur (fun w => { w with io := w.io.setLatch pre.phys u .a mask (v.all pre.phys) })

/-- Latches b and c of the acting wave, after the moves of the bundle (R18, R26). -/
def latchB (s : State) (u : PortUnit) : List Lane :=
  match s.cur? with
  | some w => (w.io.latch u).b
  | none => []

/-- Latch c. -/
def latchC (s : State) (u : PortUnit) : List Lane :=
  match s.cur? with
  | some w => (w.io.latch u).c
  | none => []

/-- Latch b of SA, CT or SY. -/
def slatchB (s : State) (u : PortUnit) : Word :=
  match s.cur? with
  | some w => (w.io.slatch u).b
  | none => 0

/-- Land(port, value, L): the result of the acting wave's trigger, visible after the unit's bound (R29). -/
def landResult (s : State) (pre : Wave) (u : PortUnit) (mask : BitVec 64) (vals : List Lane) : State :=
  let f : Flight := { u := u.code, slot := s.slot, t := pre.clock, bound := unitBound u, mask := mask, vals := vals }
  s.modWave s.cur (fun w => { w with io := { w.io with flight := w.io.flight ++ [f] } })

end Sys2Proof.Machine
end

