-- ==== Sys2Proof/Machine/Flags.lean ====
section
/-!
DEFINITION. Every flag the manual computes: integer and floating comparisons (R113, R126, R224), the class word (R127), carry
and borrow (R115), and the lane tests of the branches (R31).
-/
namespace Sys2Proof.Machine

/-- A relation of CMPEQ to CMPGE, or of SA.CMP, on integers. -/
def intRel (c : SCond) (a b : Int) : Bool :=
  match c with
  | .eq => a == b
  | .ne => a != b
  | .lt => decide (a < b)
  | .le => decide (a ≤ b)
  | .gt => decide (b < a)
  | .ge => decide (b ≤ a)

/-- SA.CMP: the unsigned bit changes only LT, LE, GT and GE, since equality is the same (R224). -/
def saCond (uns : Bool) (c : SCond) (a b : Word) : Bool :=
  if uns then intRel c a.toNat b.toNat else intRel c a.toInt b.toInt

/-- FCMP (R126): zeros equal, NaN unordered. -/
def floatRel (c : FCond) (x y : XVal) : Bool :=
  let un := x.isNan || y.isNan
  match c with
  | .eq => !un && x.eq y
  | .ne => un || !x.eq y
  | .lt => !un && x.lt y
  | .le => !un && !y.lt x
  | .gt => !un && y.lt x
  | .ge => !un && !x.lt y
  | .un => un
  | .ord => !un

/-- FCLASS (R127): one bit for the class of a code. -/
def classWord (f : Fmt) (code : Nat) : Nat :=
  let neg := code % 2 ^ f.w ≥ f.signBit
  match f.value code with
  | .nan => 256
  | .inf _ => if neg then 1 else 128
  | .fin _ n _ _ =>
    if n = 0 then (if neg then 8 else 16)
    else if f.isSub code then (if neg then 4 else 32)
    else (if neg then 2 else 64)

/-- ADC's sum, of unsigned words and a carry (R115). -/
def adcSum (a b cin : Nat) : Nat := a + b + cin % 2
/-- ADC's carry out. -/
def adcCarry (w a b cin : Nat) : Nat := if adcSum a b cin ≥ 2 ^ w then 1 else 0
/-- SBB's difference. -/
def sbbDiff (a b cin : Nat) : Int := (a : Int) - b - ((cin % 2 : Nat) : Int)
/-- SBB's borrow out. -/
def sbbBorrow (a b cin : Nat) : Nat := if sbbDiff a b cin < 0 then 1 else 0

/-- CT.BANY: the guard is true in some lane with EXM set (R31, R24). -/
def testAny (w : Wave) (m : Mv) : Bool := w.active m != 0
/-- CT.BALL: the guard is true in every lane with EXM set. -/
def testAll (w : Wave) (m : Mv) : Bool := w.exm &&& ~~~ w.guard m == 0
/-- CT.BNONE: the guard is true in no lane with EXM set. -/
def testNone (w : Wave) (m : Mv) : Bool := w.active m == 0
/-- CT.BSCAL: the condition bit is 1, or 0 when the sense bit is set (Table 7.2). -/
def testScal (w : Wave) (z : Bool) (k : Nat) : Bool := w.readK k != z

end Sys2Proof.Machine
end

