-- ==== Sys2Proof/Machine/Alu.lean ====
section
/-!
DEFINITION. What IA, ML, SH and SA compute (R113 to R121, R224, R225): one element, or one lane where an operation reads
across elements.
-/
namespace Sys2Proof.Machine

/-- Sat(x): clamped to the range of the type (R113). -/
def sat (ty : ETy) (x : Int) : Nat := wrap (ETy.width ty) (clamp (ETy.imin ty) (ETy.imax ty) x)

/-- Leading zero bits of a w-bit element; w for 0. -/
def clz (w x : Nat) : Nat := if x = 0 then w else w - 1 - x.log2

/-- One bits of a w-bit element. -/
def popc (w x : Nat) : Nat := ((List.range w).filter (fun i => x.testBit i)).length

/-- Bit j moved to bit w − 1 − j. -/
def brev (w x : Nat) : Nat := ((List.range w).map (fun j => if x.testBit j then 2 ^ (w - 1 - j) else 0)).foldl (· + ·) 0

/-- Operations of IA (Table 4.2). -/
inductive IaOp
  | add | sub | adds | subs | neg | negs | abs | abss | min | max | and | or | xor | andn | not
  | cmp (c : SCond)
  | sel | clz | popc | brev | avg | adc | sbb
  deriving DecidableEq, Repr

/-- One element of an IA operation (Table 4.2): codes of A, B and C. -/
def iaElem (op : IaOp) (ty : ETy) (a b c : Nat) : Nat :=
  let w := ETy.width ty
  let x := ETy.read ty a
  let y := ETy.read ty b
  match op with
  | .add => (a + b) % 2 ^ w
  | .sub => wrap w (x - y)
  | .adds => sat ty (x + y)
  | .subs => sat ty (x - y)
  | .neg => wrap w (-x)
  | .negs => sat ty (-x)
  | .abs => wrap w x.natAbs
  | .abss => sat ty x.natAbs
  | .min => if x ≤ y then a else b
  | .max => if x ≤ y then b else a
  | .and => a &&& b
  | .or => a ||| b
  | .xor => a ^^^ b
  | .andn => a &&& (2 ^ w - 1 - b)
  | .not => 2 ^ w - 1 - a
  | .cmp r => (intRel r x y).toNat
  | .sel => if c ≠ 0 then a else b
  | .clz => Machine.clz w a
  | .popc => Machine.popc w a
  | .brev => Machine.brev w a
  | .avg => wrap w ((x + y + 1) / 2)
  | .adc => if ETy.signed ty then adcCarry w a b c else adcSum a b c % 2 ^ w
  | .sbb => if ETy.signed ty then sbbBorrow a b c else wrap w (sbbDiff a b c)

/-- One lane of an IA operation (R109). -/
def iaLane (op : IaOp) (ty : ETy) (a b c : Lane) : Lane :=
  let w := ETy.width ty
  mapElems w (fun i => iaElem op ty (elem w a i) (elem w b i) (elem w c i))

/-- Operations of ML (Table 4.3). -/
inductive MlOp
  | mul | mulhi | mad | madw | dot4
  deriving DecidableEq, Repr

/-- One lane of an ML operation (R116, R117). -/
def mlLane (op : MlOp) (ty : ETy) (a b c : Lane) : Lane :=
  let w := ETy.width ty
  let x := fun i => ETy.read ty (elem w a i)
  let y := fun i => ETy.read ty (elem w b i)
  let wide := fun (k j : Nat) => if ETy.signed ty then sint k (elem k c j) else ((elem k c j : Nat) : Int)
  match op with
  | .mul => mapElems w (fun i => wrap w (x i * y i))
  | .mulhi => mapElems w (fun i => wrap w (x i * y i / ((2 ^ w : Nat) : Int)))
  | .mad => mapElems w (fun i => wrap w (x i * y i + ETy.read ty (elem w c i)))
  | .madw => mapElems (2 * w) (fun j => wrap (2 * w) (x (2 * j) * y (2 * j) + wide (2 * w) j))
  | .dot4 => mapElems 32 (fun j => wrap 32
      (x (4 * j) * y (4 * j) + x (4 * j + 1) * y (4 * j + 1) + x (4 * j + 2) * y (4 * j + 2) +
        x (4 * j + 3) * y (4 * j + 3) + wide 32 j))

/-- Operations of SH (Table 4.5). -/
inductive ShOp
  | shl | shr | sar | rol | ror | bfe | bfi | funl | perm
  deriving DecidableEq, Repr

/-- The field of BFE and BFI from a lane's b latch (R120): its offset and its length within w bits. -/
def bfField (w : Nat) (b : Lane) : Nat × Nat :=
  let off := bits b.toNat 7 0
  let len := bits b.toNat 15 8
  (off, min len (w - min off w))

/-- One element of an SH operation other than PERM: a is A[i], bl the lane's b latch, c is C[i] (R119, R120). -/
def shElem (op : ShOp) (ty : ETy) (a b c : Nat) (bl : Lane) : Nat :=
  let w := ETy.width ty
  let n := b % 256
  let off := (bfField w bl).1
  let len := (bfField w bl).2
  match op with
  | .shl => if n ≥ w then 0 else (a <<< n) % 2 ^ w
  | .shr => if n ≥ w then 0 else a >>> n
  | .sar => wrap w (sint w a / ((2 ^ min n w : Nat) : Int))
  | .rol => ((a <<< (n % w)) % 2 ^ w) + (a >>> (w - n % w))
  | .ror => (a >>> (n % w)) + ((a <<< (w - n % w)) % 2 ^ w)
  | .bfe =>
    let f := (a >>> off) % 2 ^ len
    if len = 0 then 0 else if ETy.signed ty then wrap w (sint len f) else f
  | .bfi => if len = 0 then a else a - ((a >>> off) % 2 ^ len) <<< off + (c % 2 ^ len) <<< off
  | .funl => ((b * 2 ^ w + a) >>> (c % 256 % w)) % 2 ^ w
  | .perm => 0

/-- Byte k of PERM (R121). -/
def permByte (a b c : Lane) (k : Nat) : Nat :=
  let ctl := elem 8 c k
  if ctl ≥ 128 then 0
  else
    let j := ctl % 32
    if j < 16 then elem 8 a j else elem 8 b (j - 16)

/-- One lane of an SH operation. -/
def shLane (op : ShOp) (ty : ETy) (a b c : Lane) : Lane :=
  let w := ETy.width ty
  match op with
  | .perm => mapElems 8 (permByte a b c)
  | .shl | .shr | .sar | .rol | .ror | .bfe | .bfi | .funl =>
    mapElems w (fun i => shElem op ty (elem w a i) (elem w b i) (elem w c i) b)

/-- Operations of SA (Table 7.1). -/
inductive SaOp
  | add | sub | and | or | xor | shl | shr | sar | mul
  | cmp (uns : Bool) (c : SCond)
  | mov | li
  | min (uns : Bool)
  | max (uns : Bool)
  deriving DecidableEq, Repr

/-- The result of an SA operation (R224, R225). -/
def saResult (op : SaOp) (a b : Word) : Word :=
  let n := b.toNat % 256
  match op with
  | .add => a + b
  | .sub => a - b
  | .and => a &&& b
  | .or => a ||| b
  | .xor => a ^^^ b
  | .shl => if n ≥ 64 then 0 else a <<< n
  | .shr => if n ≥ 64 then 0 else a >>> n
  | .sar => a.sshiftRight (min n 64)
  | .mul => a * b
  | .cmp uns c => if saCond uns c a b then 1 else 0
  | .mov => a
  | .li => BitVec.ofNat 64 (a.toNat % 2 ^ 40 * 2 ^ 24 + b.toNat % 2 ^ 24)
  | .min uns => if saCond uns .le a b then a else b
  | .max uns => if saCond uns .le a b then b else a

end Sys2Proof.Machine
end

