-- ==== Sys2Proof/Machine/Fpu.lean ====
section
/-!
DEFINITION. What FM, CH and CV compute (R122 to R139), one element or one lane.
-/
namespace Sys2Proof.Machine

/-- The rounding operations of FM (Table 4.6). -/
inductive FmOp
  | fadd | fsub | fmul | fma | fnma | frint | fscale
  deriving DecidableEq, Repr

/-- A floating context of a trigger: its FPC and where its draws are taken. -/
structure FpCtx where
  fpc : Word
  at' : DrawAt
  deriving DecidableEq, Repr

/-- A lane's draw context. -/
def FpCtx.mk' (fpc : Word) (t slot lane : Nat) : FpCtx :=
  { fpc := fpc, at' := { seed := fpcSeed fpc, t := t, slot := slot, lane := lane } }

/-- An operand after FIN (R66). -/
def FpCtx.code (x : FpCtx) (f : Fmt) (c : Nat) : Nat := f.afterFin (fpcFin x.fpc) c

/-- RoundTo under the context, with draw index e. -/
def FpCtx.round (x : FpCtx) (f : Fmt) (v : XVal) (rm : RMode) (e : Nat) : Nat :=
  roundTo f v rm (RoundOpts.ofFpc x.fpc) (fun _ => draw8 x.at' e)

/-- FRES on a code selected and not rounded (R125, R129): an IEEE subnormal becomes a zero of its sign. -/
def FpCtx.flush (x : FpCtx) (f : Fmt) (c : Nat) : Nat := f.afterFin (fpcFres x.fpc) c

/-- FRINT of a code (R124). -/
def frintCode (x : FpCtx) (f : Fmt) (c : Nat) (rm : RMode) (e : Nat) : Nat :=
  match f.value c with
  | .nan => f.nan
  | .inf _ => c
  | .fin neg num den ex =>
    if num = 0 then c
    else
      let k := roundIntegral neg num den ex rm (fun _ => draw8 x.at' e)
      roundTo f (.fin neg k.natAbs 1 0) .rne RoundOpts.none noDraw

/-- FSCALE of a code by 2^k (Table 4.6). A k beyond ±4096 acts as ±4096: every result has overflowed or lies below half of
the least subnormal by then. -/
def fscaleCode (x : FpCtx) (f : Fmt) (c : Nat) (k : Int) (rm : RMode) (e : Nat) : Nat :=
  match f.value c with
  | .nan => f.nan
  | .inf _ => c
  | .fin neg num den ex =>
    if num = 0 then c else x.round f (.fin neg num den (ex + clamp (-4096) 4096 k)) rm e

/-- One element of a rounding operation of FM (R123). -/
def fmElem (op : FmOp) (f : Fmt) (rm : RMode) (x : FpCtx) (e a b c : Nat) : Nat :=
  let ca := x.code f a
  let va := f.value ca
  let vb := f.value (x.code f b)
  let vc := f.value (x.code f c)
  match op with
  | .fadd => x.round f (va.add vb rm) rm e
  | .fsub => x.round f (va.add vb.neg rm) rm e
  | .fmul => x.round f (va.mul vb) rm e
  | .fma => x.round f ((va.mul vb).add vc rm) rm e
  | .fnma => x.round f (vc.add (va.mul vb).neg rm) rm e
  | .frint => frintCode x f ca rm e
  | .fscale => fscaleCode x f ca (sint f.w b) rm e

/-- The smaller (or larger) of two codes that are no NaN, −0 below +0 (R125). -/
def pickCode (f : Fmt) (larger : Bool) (a b : Nat) : Nat :=
  let x := f.value a
  let y := f.value b
  let less := x.lt y || (x.isZero && y.isZero && x.isNeg && !y.isNeg)
  if larger then (if less then b else a) else if less then a else b

/-- FMIN, FMAX (prop false) and FMINP, FMAXP (prop true) of two codes after FIN (R125). -/
def minmaxCode (f : Fmt) (larger prop : Bool) (a b : Nat) : Nat :=
  match (f.value a).isNan, (f.value b).isNan with
  | true, true => f.nan
  | true, false => if prop then f.nan else b
  | false, true => if prop then f.nan else a
  | false, false => pickCode f larger a b

/-- One element of FMIN, FMAX, FMINP or FMAXP. -/
def fminmaxElem (larger prop : Bool) (f : Fmt) (x : FpCtx) (a b : Nat) : Nat :=
  x.flush f (minmaxCode f larger prop (x.code f a) (x.code f b))

/-- One element of FCMP (R126). -/
def fcmpElem (c : FCond) (f : Fmt) (x : FpCtx) (a b : Nat) : Nat :=
  (floatRel c (f.value (x.code f a)) (f.value (x.code f b))).toNat

/-- One element of FSGN (R128). -/
def fsgnElem (o : SgnOp) (f : Fmt) (x : FpCtx) (a : Nat) : Nat :=
  let c := x.code f a
  let mag := c % f.signBit
  match o with
  | .abs => mag
  | .neg => if c < f.signBit then mag + f.signBit else mag
  | .nabs => mag + f.signBit

/-- One lane of an operation on three operands, element by element. -/
def fmLane (ty : ETy) (g : Nat → Nat → Nat → Nat → Nat) (a b c : Lane) : Lane :=
  let w := ETy.width ty
  mapElems w (fun i => g i (elem w a i) (elem w b i) (elem w c i))

/-! CH. -/

/-- A stage result (R129): FRES applies, and a NaN is canonical. -/
def stageOut (x : FpCtx) (c : Nat) : Nat := if (fp32.value c).isNan then fp32.nan else x.flush fp32 c

/-- One stage of a chain (Table 4.7): y, B[i] and C[i] are FP32 codes after FIN; e is the draw index. -/
def stageElem (st : Stage) (x : FpCtx) (e y b c : Nat) : Nat :=
  let rm := fpcRm x.fpc
  let vy := fp32.value y
  let vb := fp32.value b
  let vc := fp32.value c
  match st with
  | .pass => stageOut x y
  | .add => x.round fp32 (vy.add vb rm) rm e
  | .sub => x.round fp32 (vy.add vb.neg rm) rm e
  | .rsub => x.round fp32 (vb.add vy.neg rm) rm e
  | .mulb => x.round fp32 (vy.mul vb) rm e
  | .mulc => x.round fp32 (vy.mul vc) rm e
  | .addc => x.round fp32 (vy.add vc rm) rm e
  | .max => stageOut x (minmaxCode fp32 true false y b)
  | .min => stageOut x (minmaxCode fp32 false false y b)
  | .abs => stageOut x (y % fp32.signBit)
  | .relu => stageOut x (minmaxCode fp32 true false y 0)
  | .clamp => stageOut x (minmaxCode fp32 false false (minmaxCode fp32 true false y b) c)
  | .rbf => x.round bf16 vy rm e * 2 ^ 16

/-- One element of a chain (R129). -/
def chainElem (s1 s2 s3 : Stage) (x : FpCtx) (i a b c : Nat) : Nat :=
  let ca := x.code fp32 a
  let cb := x.code fp32 b
  let cc := x.code fp32 c
  let y1 := stageElem s1 x i ca cb cc
  let y2 := stageElem s2 x (4 + i) y1 cb cc
  stageElem s3 x (8 + i) y2 cb cc

/-! CV. -/

/-- A value clamped to an integer type after RoundIntegral (R134). -/
def toInt (res : ETy) (v : XVal) (rm : RMode) (draw : Unit → Nat) : Nat :=
  let w := ETy.width res
  match v with
  | .nan => 0
  | .inf neg => wrap w (if neg then ETy.imin res else ETy.imax res)
  | .fin neg num den ex =>
    -- a finite value beyond 2^70 is out of every range; no shift larger than that is made
    if log2Rat (max num 1) den + ex > 70 then wrap w (if neg then ETy.imin res else ETy.imax res)
    else sat res (roundIntegral neg num den ex rm draw)

/-- Quant(x) of the BFP pack (R137): the mantissa as a container of cw bits. -/
def quant (m cw slot : Nat) (v : XVal) (rm : RMode) (draw : Unit → Nat) : Nat :=
  let lo : Int := -((2 ^ (m - 1) : Nat) : Int)
  let hi : Int := ((2 ^ (m - 1) : Nat) : Int) - 1
  match readScale slot with
  | .nanBlock => 0
  | .zeroBlock => 0
  | .ordinary f sx =>
    match v with
    | .nan => 0
    | .inf neg => wrap cw (if neg then lo else hi)
    | .fin neg num den ex =>
      let qe := ex - sx + ((m : Int) - 1)
      if log2Rat (max num 1) (den * (16 + f)) + qe > 40 then wrap cw (if neg then lo else hi)
      else wrap cw (clamp lo hi (roundIntegral neg num (den * (16 + f)) qe rm draw))

/-- Conversion of one element (R133 to R138): its code, the lane's scale slot, the draw index. -/
def cvtElem (res src : ETy) (rm : RMode) (x : FpCtx) (slot e a : Nat) : Nat :=
  let draw := fun (_ : Unit) => draw8 x.at' e
  if src.isBfp then
    x.round (fmtOf res) (bfpValue src.bfpM a slot) rm e
  else if src.isInt then
    if res.isInt then sat res (ETy.read src a) else x.round (fmtOf res) (XVal.ofInt (ETy.read src a)) rm e
  else
    let v := (fmtOf src).value (x.code (fmtOf src) a)
    if res.isBfp then quant res.bfpM (ETy.width res) slot v rm draw
    else if res.isInt then toInt res v rm draw
    else x.round (fmtOf res) v rm e

/-- BlockScale × MaxMant of code c against a magnitude num × 2^ex: at least as large (R139). -/
def scaleHolds (m c : Nat) (num : Nat) (ex : Int) : Bool :=
  match readScale c with
  | .ordinary f sx =>
    !(XVal.lt (.fin false ((2 ^ (m - 1) - 1) * (16 + f)) 1 (sx - ((m : Int) - 1))) (.fin false num 1 ex))
  | .nanBlock => false
  | .zeroBlock => false

/-- ScaleExtract(A, m) (R139). -/
def scaleExtract (m : Nat) (codes : List Nat) : Nat :=
  let vs := codes.map (fun c => fp32.value c)
  if vs.any XVal.isNan then 0x0FF0
  else
    let mx := codes.foldl (fun acc c => max acc (c % fp32.signBit)) 0
    if mx = 0 then 0
    else
      match fp32.value mx with
      | .fin _ num _ ex => ((List.range 0xFEF).map (· + 1)).find? (fun c => scaleHolds m c num ex) |>.getD 0x0FEF
      | .nan => 0x0FF0
      | .inf _ => 0x0FEF

/-- An element as a result holds it: bits [7:6] of a 6-bit container are written as zero (R49). -/
def contained (ty : ETy) (e : Nat) : Nat := if ty = .k6a ∨ ty = .k6b then e % 2 ^ 6 else e

/-- One lane of CVT (R132, R139): a is the source, b and c the latches. An element merged from the c latch is written as any other, so with zero
container bits (R49, Log 98). -/
def cvtLane (res src : ETy) (rm : RMode) (x : FpCtx) (a b c : Lane) : Lane :=
  let ws := ETy.width src
  let wr := ETy.width res
  let ns := 128 / ws
  let nr := 128 / wr
  let p := bits b.toNat 3 0
  let slot := bits b.toNat 31 16
  if src.isBfp && res == .n16 then
    BitVec.ofNat 128 (scaleExtract src.bfpM ((List.range 4).map (fun i => x.code fp32 (elem 32 a i))))
  else if ns = nr then mapElems wr (fun i => cvtElem res src rm x slot i (elem ws a i))
  else if ns > nr then
    let k := ns / nr
    mapElems wr (fun j => cvtElem res src rm x slot j (elem ws a (j * k + p % k)))
  else
    let k := nr / ns
    mapElems wr (fun r => if r % k = p % k then cvtElem res src rm x slot r (elem ws a (r / k)) else contained res (elem wr c r))

end Sys2Proof.Machine
end

