-- ==== Sys2Proof/Machine/FieldBook.lean ====
section
/-!
DEFINITION. The field book (R400 to R402) and the traffic counters (R397, R399).
-/
namespace Sys2Proof.Machine

/-- What an event writes: its class, code, address, detail, interface and core (Table 17.4). -/
structure FbEvent where
  cls : Nat
  code : Nat
  addr : Nat
  detail : Nat
  vi : Option Nat
  core : Option Nat
  /-- the die of an event that arises elsewhere than at its core, or names none (R400): that of the port (R380), of the tract of the memory or of the legend register, or
  of the control-complex core, 4 to a die (Table 0.3, Log 102) -/
  on : Option Nat := none
  deriving DecidableEq, Repr

/-- The die where an event arises: that of what it names, or of its core, die 0 for an event with none (R400). -/
def FbEvent.die (e : FbEvent) : Nat :=
  match e.on, e.core with
  | some d, _ => d % 4
  | none, some c => c / 160 % 4
  | none, none => 0

/-- A field-book record (Table 17.3): event, part, whether another part follows, number in the ring, time. -/
def fbRecord (e : FbEvent) (part : Nat) (more : Bool) (seq time : Nat) : BitVec 256 :=
  BitVec.ofNat 256 (time % 2 ^ 64 * 2 ^ 192 + e.addr % 2 ^ 64 * 2 ^ 128 + e.detail % 2 ^ 64 * 2 ^ 64 + e.code % 2 ^ 16 * 2 ^ 48 +
    e.cls % 16 * 2 ^ 44 + part % 8 * 2 ^ 41 + more.toNat * 2 ^ 40 + e.vi.getD 0 % 64 * 2 ^ 34 +
    e.core.getD 0x3FF % 1024 * 2 ^ 24 + e.die % 4 * 2 ^ 22 + seq % 2 ^ 22)

/-- Classes copied to the ring of the interface they concern (R402). -/
def fbFiltered (cls : Nat) : Bool := cls == 1 || cls == 3 || cls == 5 || cls == 6 || cls == 10

/-- A record in a filtered ring, newest first: it comes after those of its cycle from lower dies, and before those from higher ones (R402). -/
def ringInsert (r : BitVec 256) (l : List (BitVec 256)) : List (BitVec 256) :=
  let later := fun (x : BitVec 256) => bits x.toNat 255 192 == bits r.toNat 255 192 && decide (bits r.toNat 23 22 < bits x.toNat 23 22)
  l.takeWhile later ++ [r] ++ l.dropWhile later

/-- An empty ring. -/
def FbRing.empty : FbRing := { seq := 0, recs := [], todo := 0 }

/-- A record joins the ring of its die, its five word writes still to come (R401). -/
def FbRing.push (b : FbRing) (r : BitVec 256) : FbRing :=
  { seq := (b.seq + 1) % 2 ^ 22, recs := (r :: b.recs).take 8192, todo := min 20480 (b.todo + 5) }

/-- A record of an event may be seen in the filtered ring of its interface: one of class 6 names a secure block, and is copied for a secure partition
only (R402, R363, Log 120). -/
def fbShown (cls : Nat) (secure : Bool) : Bool := fbFiltered cls && (cls != 6 || secure)

/-- One part written to the ring of its die and to the filtered ring of its interface (R400, R402). -/
def State.fbPart (s : State) (e : FbEvent) (part : Nat) (more : Bool) : State :=
  let ring := Tab.getD s.fieldBook e.die FbRing.empty
  let r := fbRecord e part more ring.seq s.cycle
  let s1 := { s with fieldBook := Tab.set s.fieldBook e.die (ring.push r) }
  match e.vi with
  | none => s1
  | some v =>
    if fbShown e.cls (s.vi v).secure then
      s1.modVi v (fun i =>
        { i with ring := (ringInsert r i.ring).take 256, ringHead := i.ringHead + 1, ringTodo := min 640 (i.ringTodo + 5) })
    else s1

/-- An event of one record. -/
def State.fb (s : State) (e : FbEvent) : State := s.fbPart e 0 false

/-- An event of several records, written as one step (R400). -/
def State.fbParts (s : State) (es : List FbEvent) : State :=
  (enum es).foldl (fun t p => t.fbPart p.2 p.1 (p.1 + 1 < es.length)) s

/-! Counters (Table 17.1): the number of a counter is its offset divided by 8. -/

/-- What an event of counter idx adds to it: LANDED, the low half of LANDEVT, carries nothing into TORN (Table 17.1). -/
def bumpCounter (idx n : Nat) (c : Word) : Word :=
  if idx = 14 ∧ n < 2 ^ 32 then BitVec.ofNat 64 (c.toNat / 2 ^ 32 * 2 ^ 32 + (c.toNat + n) % 2 ^ 32) else c + BitVec.ofNat 64 n

/-- An event in the live counters of a tract, and in its snapshot if that was taken in the same cycle; after a CLEAR that followed that snapshot, in the
snapshot alone (R398). -/
def Tract.count (t : Tract) (now idx n : Nat) : Tract :=
  { t with
    counters := if t.clearAt = some now then t.counters else Tab.upd t.counters idx 0 (bumpCounter idx n)
    snap := if t.snapAt = some now then Tab.upd t.snap idx 0 (bumpCounter idx n) else t.snap }

/-- The same in the page of an interface, whose set of a tract starts at 16 times its number (R399). -/
def Vi.count (i : Vi) (now tract idx n : Nat) : Vi :=
  let k := 16 * tract + idx
  { i with
    counters := Tab.upd i.counters k 0 (bumpCounter idx n)
    snap := if i.snapAt = some now then Tab.upd i.snap k 0 (bumpCounter idx n) else i.snap }

/-- The interfaces to whose partitions a core belongs (R399). -/
def State.coreVis (s : State) (c : Nat) : List Nat := (s.vis.filter (fun e => e.2.cores.contains c)).map (fun e => e.1)

/-- Adds to a counter of a tract, and to the pages of the interfaces whose partitions hold the requester core, or the core whose log holds the
record; none is a requester that is no compute core of the package (R397, R399, Log 86). -/
def State.tally (s : State) (tract idx n : Nat) (core : Option Nat) : State :=
  let s1 := s.modTract tract (fun t => t.count s.cycle idx n)
  match core with
  | none => s1
  | some c => (s.coreVis c).foldl (fun u v => u.modVi v (fun i => i.count s.cycle tract idx n)) s1

/-- Bytes and one line request served at a tract to a requester core (R397). -/
def State.served (s : State) (tract core n : Nat) : State :=
  (s.tally tract (core / 160 % 4) n (some core)).tally tract (4 + core / 160 % 4) 1 (some core)

/-- The interface that runs on a core: that of a party resident there, else of the context it runs. -/
def State.coreVi (s : State) (c : Nat) : Option Nat :=
  match s.coreParties c with
  | [] => (s.core c).running
  | p :: _ => (s.launch? p.2.launch).map (fun l => l.vi)

end Sys2Proof.Machine
end

