-- ==== Sys2Proof/Machine/Home.lean ====
section
/-!
DEFINITION. Home memory: where a physical byte lies (R374), reading and writing it, the poison bits (R372), worlds (R362), and
the writes applied at home in coherence order (R265).
-/
namespace Sys2Proof.Machine

/-- Bytes of HBM of the package (Table 15.2). -/
def hbmBytes : Nat := 16 * Config.stackBytes

/-- A physical address of HBM. -/
def isHbm (pa : Nat) : Bool := decide (pa < hbmBytes)

/-- The compute-view aperture (Table 15.2). -/
def isAperture (pa : Nat) : Bool := decide (0x010000000000 ≤ pa) && decide (pa < 0x020000000000)

/-- The placement mode of a 2 MiB frame; 0 at reset (R375). -/
def State.placeMode (s : State) (pa : Nat) : Nat := Tab.getD s.placeModes (pa / 2 ^ 21) 0

/-- Locate(pa) under a mode (R374): stack and offset within it. -/
def locateMode (m pa : Nat) : Nat × Nat :=
  let st := pa / Config.stackBytes
  let o := pa % Config.stackBytes
  let fb := o - o % 2 ^ 21
  let place := fun (x n first : Nat) =>
    let g := x / 256
    (first + g % n, fb + g / n * 256 + x % 256)
  if m = 1 then place (st % 4 * 2 ^ 21 + o % 2 ^ 21) 4 (4 * (st / 4))
  else if m = 2 then place (st * 2 ^ 21 + o % 2 ^ 21) 16 0
  else (st, o)

/-- Locate(pa). -/
def State.locate (s : State) (pa : Nat) : Nat × Nat := locateMode (s.placeMode pa) pa

/-- The home tract of a physical address (R374). -/
def State.tractOf (s : State) (pa : Nat) : Nat := (s.locate pa).1

/-- The number under which memory keeps a byte: stack × its bytes + offset. -/
def State.homeIndex (s : State) (pa : Nat) : Nat := let l := s.locate pa; l.1 * Config.stackBytes + l.2

/-- What is added to a stored byte of a frame that a placement command left undefined: a free value (R375). -/
def State.pad (s : State) (i : Nat) : Byte :=
  match Tab.get? s.undef (i / 2 ^ 21) with
  | none => 0
  | some n => (Config.freeBits (2 ^ 80 + n * 2 ^ 45 + i)).truncate 8

/-- Bytes of the part of a context area that holds a spilled context (R355). -/
def ctxSpillBytes : Nat := 3 * 2 ^ 20

/-- The same for a byte that a spilled context has overwritten: its layout is not given (R355, Log 90). -/
def State.ctxPad (s : State) (pa : Nat) : Byte :=
  match s.ctxBytes.find? (fun e => decide (e.1 ≤ pa) && decide (pa < e.1 + ctxSpillBytes)) with
  | none => 0
  | some e => (Config.freeBits (2 ^ 91 + e.2 * 2 ^ 22 + (pa - e.1))).truncate 8

/-- A byte at home. -/
def State.homeByte (s : State) (pa : Nat) : Byte := let i := s.homeIndex pa; Mem.read s.home i ^^^ s.pad i ^^^ s.ctxPad pa

/-- n bytes at home. -/
def State.homeBytes (s : State) (pa n : Nat) : List Byte := (List.range n).map (fun i => s.homeByte (pa + i))

/-- A little-endian number at home. -/
def State.homeNat (s : State) (pa n : Nat) : Nat := ofBytes (s.homeBytes pa n)

/-- A byte written at home. -/
def State.setHomeByte (s : State) (pa : Nat) (b : Byte) : State :=
  let i := s.homeIndex pa
  { s with home := Mem.write s.home i (b ^^^ s.pad i ^^^ s.ctxPad pa) }

/-- The enabled bytes of 16 written at home, from byte i on. -/
def State.setHomeBytes (s : State) (pa : Nat) (ben : BitVec 16) (data : Lane) : Nat → State
  | 0 => s
  | n + 1 =>
    let t := s.setHomeBytes pa ben data n
    if ben.getLsbD n then t.setHomeByte (pa + n) (BitVec.ofNat 8 (elem 8 data n)) else t

/-- The 16 bytes of a granule at home. -/
def State.granule (s : State) (gran : Nat) : Lane := BitVec.ofNat 128 (s.homeNat (16 * gran) 16)

/-- A write applied at home: it enters the coherence order of its bytes as the latest (R265). -/
def State.applyHome (s : State) (wid gran : Nat) (ben : BitVec 16) (data : Lane) (sc : Bool) : State :=
  let a : Applied := { wid := wid, gran := gran, ben := ben, data := data, old := s.granule gran, time := s.cycle, sc := sc }
  let t := s.setHomeBytes (16 * gran) ben data 16
  { t with hist := a :: t.hist }

/-- Bytes written at home where no program orders an access to them: spill areas (R256). -/
def State.pokeHome (s : State) (pa : Nat) (bs : List Byte) : State :=
  (List.range bs.length).foldl (fun t i => if isHbm (pa + i) then t.setHomeByte (pa + i) (nth bs i 0) else t) s

/-- Bytes written at home by an agent outside the cores' logs, granule by granule: a new write each. -/
def State.writeHome (s : State) (pa : Nat) (bs : List Byte) : State :=
  (List.range ((pa % 16 + bs.length + 15) / 16)).foldl (fun t k =>
    let g := pa / 16 + k
    let byteAt := fun i => let j := 16 * g + i; if pa ≤ j ∧ j < pa + bs.length then bs[j - pa]? else none
    let ben := BitVec.ofNat 16 ((List.range 16).foldl (fun acc i => if (byteAt i).isSome then acc + 2 ^ i else acc) 0)
    let data := BitVec.ofNat 128 (ofBytes ((List.range 16).map (fun i => (byteAt i).getD 0)))
    { (t.applyHome t.nextId g ben data false) with nextId := t.nextId + 1 }) s

/-- An access to n bytes of this package's HBM from an address is charged to the die of a core: the bytes of each line and one request at its
tract (R397). -/
def State.charged (s : State) (core pa n : Nat) : State :=
  (List.range ((pa % 64 + n + 63) / 64)).foldl (fun t k =>
    let lo := max pa (64 * (pa / 64 + k))
    t.served (t.tractOf lo) core (min (pa + n) (64 * (pa / 64 + k) + 64) - lo)) s

/-- The 7 MiB of a core in the context area of an interface (R355). -/
def State.ctxArea (s : State) (vi core : Nat) : Nat :=
  (s.vi vi).ctxbase + 7 * 2 ^ 20 * ((s.vi vi).cores.filter (fun c => decide (c < core))).length

/-- Cycles of every 16 in which bundles issue and matrix passes start (R395). -/
def State.issuing (s : State) : Bool := decide (s.cycle % 16 < s.mgmt.duty)

/-! Poison and worlds. -/

/-- The poison bit of the granule of a physical address (R372). -/
def State.poisoned (s : State) (pa : Nat) : Bool := s.poison.contains (pa / 4096)

/-- Sets or clears a granule's bit, in the cached bits and in the bitmap in memory (R372, R373). -/
def State.setPoison (s : State) (f : Nat) (on : Bool) : State :=
  let t := { s with poison := if on then (if s.poison.contains f then s.poison else f :: s.poison) else s.poison.filter (· != f) }
  let pa := s.poisonBase + f / 8
  let b := (t.homeByte pa).toNat
  let b' := if on then b ||| 2 ^ (f % 8) else b &&& (255 - 2 ^ (f % 8))
  t.writeHome pa [BitVec.ofNat 8 b']

/-- The lowest-numbered valid region that contains a physical address is secure (R362, Table 14.8). -/
def State.securePa (s : State) (pa : Nat) : Bool :=
  match (List.range 256).find? (fun e =>
    let r := Tab.getD s.regions e (0, 0)
    r.1.getLsbD 0 && decide (bits r.1.toNat 51 21 ≤ pa / 2 ^ 21) && decide (pa / 2 ^ 21 ≤ bits r.2.toNat 51 21)) with
  | some e => (Tab.getD s.regions e (0, 0)).1.getLsbD 1
  | none => false

/-- A legend register is secure (R361). -/
def State.secureLegend (s : State) (n : Nat) : Bool := (Tab.getD s.worldleg (n / 64) 0).getLsbD (n % 64)

/-- The fabric-domain cycle count: the count since module reset in a package that has joined no domain (R260, R381). -/
def State.domCount (s : State) : Nat := ((s.cycle : Int) + s.fabric.domOffset).toNat

/-! Routes over the fabric. -/

/-- The ports of the usable routes to a package: valid in its route entry, port UP; the entry of the package itself is ignored (R382). -/
def State.usable (s : State) (pkg : Nat) : List Nat :=
  let e := if pkg = s.fabric.pkgid then 0 else (Tab.getD s.routes pkg 0).toNat
  ((List.range 4).filter (fun j => e.testBit (8 * j + 7) && (s.port (bits e (8 * j + 5) (8 * j))).st == .up)).map
    (fun j => bits e (8 * j + 5) (8 * j))

/-- Some route to a package is usable; a package needs none to reach itself. -/
def State.reachable (s : State) (pkg : Nat) : Bool := pkg == s.fabric.pkgid || !(s.usable pkg).isEmpty

/-- The route a transaction takes: a hash of its address, or of the receiver's core and plot (R382, Log 11). -/
def State.routeOf (s : State) (pkg key : Nat) : Option Nat :=
  let l := s.usable pkg
  l[Config.routeHash key % l.length]?

/-- The key of the route of a landfall message: the receiver's core and plot (R382, Log 11). -/
def landKey (core plot : Nat) : Nat := core * 64 + plot

/-- A message for a package leaves by its route, and the port is remembered with it; with no usable route it does not leave (R382, Log 121). -/
def State.send (s : State) (pkg key : Nat) (x : Wire) : State :=
  if s.reachable pkg then { s with wire := s.wire ++ [(x, s.routeOf pkg key)] } else s

/-- Messages, each for a package under a key. -/
def State.sendAll (s : State) (l : List (Nat × Nat × Wire)) : State := l.foldl (fun t x => t.send x.1 x.2.1 x.2.2) s

/-- The messages that left by a port and whose transactions have not failed with it since (R383). -/
def State.sentBy (s : State) (port : Nat) : List Wire := (s.wire.filter (fun x => x.2 == some port)).map (fun x => x.1)

end Sys2Proof.Machine
end

