-- ==== Sys2Proof/Machine/Translate.lean ====
section
/-!
DEFINITION. Translation in two stages (R365 to R370), and the compute view of a legend range (R74 to R76, R376).
-/
namespace Sys2Proof.Machine

/-- What an access does to its address (R368). -/
inductive AccKind
  | read | write | atomic | fetch
  deriving DecidableEq, Repr

/-- Permissions of a leaf: R, W, X, AT (Table 15.5). -/
structure Perms where
  r : Bool
  w : Bool
  x : Bool
  atm : Bool
  deriving DecidableEq, Repr

/-- Every permission (stage 1 off). -/
def Perms.full : Perms := { r := true, w := true, x := true, atm := true }

/-- What both stages permit. -/
def Perms.both (p q : Perms) : Perms := { r := p.r && q.r, w := p.w && q.w, x := p.x && q.x, atm := p.atm && q.atm }

/-- A kind is permitted. -/
def Perms.allows (p : Perms) (k : AccKind) : Bool :=
  match k with
  | .read => p.r
  | .write => p.w
  | .atomic => p.atm
  | .fetch => p.x

/-- The reading of a table entry at a level (R368): a pointer to the next table, a leaf, or neither. -/
inductive WalkEnt
  | next (t : Nat)
  | leaf (frame pkgsel : Nat) (p : Perms)
  | bad
  deriving DecidableEq, Repr

/-- An entry at a level of a stage (R368, Table 15.5). -/
def readEnt (e lvl : Nat) (stage1 : Bool) : WalkEnt :=
  let ppn := bits e 51 12
  let r := e.testBit 2
  let w := e.testBit 3
  let x := e.testBit 4
  let a := e.testBit 5
  let c := e.testBit 6
  if !e.testBit 0 || bits e 11 7 != 0 then .bad
  else if !e.testBit 1 then
    if lvl = 0 ∨ bits e 63 52 ≠ 0 ∨ bits e 6 2 ≠ 0 then .bad else .next (ppn * 4096)
  else if decide (lvl > 2) || (w && !r) || (a && !w) || (c && lvl != 0) || (stage1 && bits e 63 52 != 0) ||
      (ppn * 4096) % 2 ^ (12 + 9 * lvl) != 0 then .bad
  else .leaf (ppn * 4096) (bits e 63 52) { r := r, w := w, x := x, atm := a }

/-- The index bits of a level. -/
def walkIndex (ia lvl : Nat) : Nat := bits ia (20 + 9 * lvl) (12 + 9 * lvl)

/-- Walk of stage 2 from a level down: frame address plus offset, PKGSEL, permissions; none where it faults (R368). -/
def State.walk2 (s : State) (ia : Nat) : Nat → Nat → Option (Nat × Nat × Perms)
  | 0, _ => none
  | n + 1, t =>
    let ea := t + 8 * walkIndex ia n
    if !isHbm ea then none
    else
      match readEnt (s.homeNat ea 8) n false with
      | .next t' => s.walk2 ia n t'
      | .leaf f k p => some (f + ia % 2 ^ (12 + 9 * n), k, p)
      | .bad => none

/-- Stage 2 of an interface: the physical address, the package (0 this one, p + 1 package p), the permissions (R365, R367). -/
def State.stage2 (s : State) (vi gpa : Nat) : Option (Nat × Nat × Perms) :=
  let v := s.vi vi
  if !v.s2valid || decide (gpa ≥ 2 ^ 52) then none
  else
    match s.walk2 gpa 5 v.s2base with
    | none => none
    | some (pa, k, p) =>
      if k = 0 then (if isHbm pa || isAperture pa then some (pa, 0, p) else none)
      else
        let pkg := s.homeNat (v.pkgmap + 2 * k) 2
        if !isHbm pa then none
        else if pkg = s.fabric.pkgid then some (pa, 0, p) else some (pa, pkg + 1, p)

/-- Walk of stage 1 from a level down: guest-physical address and permissions (R368). The read of an entry is translated at stage 2 with kind R,
so permission and poison are checked for it (Log 78). -/
def State.walk1 (s : State) (vi ia : Nat) : Nat → Nat → Option (Nat × Perms)
  | 0, _ => none
  | n + 1, t =>
    match s.stage2 vi (t + 8 * walkIndex ia n) with
    | some (ea, 0, p) =>
      if !p.r || !isHbm ea || s.poisoned ea then none
      else
        match readEnt (s.homeNat ea 8) n true with
        | .next t' => s.walk1 vi ia n t'
        | .leaf f _ q => some (f + ia % 2 ^ (12 + 9 * n), q)
        | .bad => none
    | some (_, _ + 1, _) => none
    | none => none

/-- A full walk of a virtual address: the translation of its 4 KiB page, or a fault (R368). -/
def State.walk (s : State) (vi asid s1root : Nat) (s1on : Bool) (va : Nat) : Option TlbEntry :=
  let st1 := if s1on then s.walk1 vi va 5 s1root else some (va, Perms.full)
  match st1 with
  | none => none
  | some (gpa, p1) =>
    match s.stage2 vi gpa with
    | none => none
    | some (pa, pkg, p2) =>
      let p := p1.both p2
      some { vi := vi, asid := asid, s1 := s1on, own := false, vpage := va / 4096, gpage := gpa / 4096, ppage := pa / 4096, pkgsel := pkg, r := p.r, w := p.w,
             x := p.x, atm := p.atm }

/-- The stage at which a walk of stage 1 faults: 2 where the stage-2 walk of a table read does (R368). -/
def State.walk1Stage (s : State) (vi ia : Nat) : Nat → Nat → Nat
  | 0, _ => 1
  | n + 1, t =>
    match s.stage2 vi (t + 8 * walkIndex ia n) with
    | some (ea, 0, p) =>
      if !p.r || s.poisoned ea then 2
      else if !isHbm ea then 1
      else
        match readEnt (s.homeNat ea 8) n true with
        | .next t' => s.walk1Stage vi ia n t'
        | .leaf _ _ _ => 1
        | .bad => 1
    | some (_, _ + 1, _) => 1
    | none => 2

/-- The stage of a full walk that faults (R368). -/
def State.walkStage (s : State) (vi s1root : Nat) (s1on : Bool) (va : Nat) : Nat :=
  if s1on && (s.walk1 vi va 5 s1root).isNone then s.walk1Stage vi va 5 s1root else 2

/-! What a walk reads (R368, R369, R397): the addresses of its entries, the first of each pair the address, the second the bytes. -/

/-- The read of an entry at a level: a group of sixteen leaves is read whole, as its two lines (R369). -/
def entryRead (ea e lvl : Nat) : List (Nat × Nat) :=
  if lvl = 0 ∧ e.testBit 6 then [(ea / 128 * 128, 64), (ea / 128 * 128 + 64, 64)] else [(ea, 8)]

/-- Reads of a walk of stage 2 from a level down. -/
def State.walk2Reads (s : State) (ia : Nat) : Nat → Nat → List (Nat × Nat)
  | 0, _ => []
  | n + 1, t =>
    let ea := t + 8 * walkIndex ia n
    if !isHbm ea then []
    else
      entryRead ea (s.homeNat ea 8) n ++ (match readEnt (s.homeNat ea 8) n false with
        | .next t' => s.walk2Reads ia n t'
        | .leaf _ _ _ => []
        | .bad => [])

/-- Reads of stage 2 of an interface. -/
def State.stage2Reads (s : State) (vi gpa : Nat) : List (Nat × Nat) :=
  if !(s.vi vi).s2valid || decide (gpa ≥ 2 ^ 52) then [] else s.walk2Reads gpa 5 (s.vi vi).s2base

/-- Reads of a walk of stage 1 from a level down. -/
def State.walk1Reads (s : State) (vi ia : Nat) : Nat → Nat → List (Nat × Nat)
  | 0, _ => []
  | n + 1, t =>
    let g := t + 8 * walkIndex ia n
    s.stage2Reads vi g ++ (match s.stage2 vi g with
      | some (ea, 0, p) =>
        if !p.r || !isHbm ea || s.poisoned ea then []
        else
          entryRead ea (s.homeNat ea 8) n ++ (match readEnt (s.homeNat ea 8) n true with
            | .next t' => s.walk1Reads vi ia n t'
            | .leaf _ _ _ => []
            | .bad => [])
      | some (_, _ + 1, _) => []
      | none => [])

/-- Reads of a full walk of a virtual address. -/
def State.walkReads (s : State) (vi s1root : Nat) (s1on : Bool) (va : Nat) : List (Nat × Nat) :=
  let one := if s1on then s.walk1Reads vi va 5 s1root else []
  match (if s1on then s.walk1 vi va 5 s1root else some (va, Perms.full)) with
  | some (gpa, _) => one ++ s.stage2Reads vi gpa
  | none => one

/-- A walk is charged to the die of the core that missed (R397). -/
def State.noteWalk (s : State) (core : Nat) (l : Launch) (va : Nat) : State :=
  (s.walkReads l.vi l.s1root l.s1on va).foldl (fun t x => t.served (t.tractOf x.1) core x.2) s

/-- The permissions of a cached translation. -/
def TlbEntry.perms (e : TlbEntry) : Perms := { r := e.r, w := e.w, x := e.x, atm := e.atm }

/-- A cached translation of a page of an address space. -/
def TlbEntry.maps (vi asid : Nat) (s1 : Bool) (vpage : Nat) (e : TlbEntry) : Bool :=
  e.vi == vi && e.asid == asid && e.s1 == s1 && e.vpage == vpage

/-- The translation of a page of a launch that a core's TLB or its sheet's holds, tagged by interface, stage and ASID (R370). -/
def State.tlbLookup (s : State) (core : Nat) (l : Launch) (vpage : Nat) : Option TlbEntry :=
  ((s.core core).tlb ++ Tab.getD s.l2tlb (core / 8) []).find? (TlbEntry.maps l.vi l.asid l.s1on vpage)

/-- A cached translation is covered by a KIND (Table 15.3). -/
def tlbCovers (vi kind asid page count : Nat) (e : TlbEntry) : Bool :=
  e.vi == vi && (match kind with
    | 0 => true
    | 1 => e.asid == asid
    | 2 => e.asid == asid && decide (page ≤ e.vpage) && decide (e.vpage < page + max 1 count)
    | _ => decide (page ≤ e.gpage) && decide (e.gpage < page + max 1 count))

/-- The translations that an invalidation in progress covers, by its registers as they were when it began: TLBINVA can be written since (Table 15.3). -/
def Vi.covers (v : Vi) (vi : Nat) (e : TlbEntry) : Bool :=
  tlbCovers vi (bits v.tlbinv.toNat 1 0) (bits v.tlbinv.toNat 47 32) v.tlbPage (bits v.tlbinv.toNat 31 12) e

/-- A translation walked while an invalidation that covers it is in progress is kept, so that DONE waits for what uses it (R371). -/
def State.noteSince (s : State) (e : TlbEntry) : State :=
  if (s.vi e.vi).tlbBusy.isSome && (s.vi e.vi).covers e.vi e then s.modVi e.vi (fun v => { v with tlbSince := e :: v.tlbSince }) else s

/-- A walked translation enters the TLB of the core, of 64 entries, and that of its sheet, of 4,096; the oldest leaves a full one (R370,
Log 87). -/
def State.tlbFill (s : State) (core : Nat) (e : TlbEntry) : State :=
  ({ s with l2tlb := Tab.upd s.l2tlb (core / 8) [] (fun l => (e :: l).take 4096) }.modCore core (fun c =>
    { c with tlb := (e :: c.tlb).take 64 })).noteSince e

/-- Drops the translations that a test selects from every TLB of the package, and what was walked for streamer commands, running or saved (R371). -/
def State.tlbDrop (s : State) (p : TlbEntry → Bool) : State :=
  let keep := fun (l : List TlbEntry) => l.filter (fun e => !p e)
  let out := fun (c : Core) => { c with tlb := keep c.tlb, sxWalks := c.sxWalks.filter (fun x => !x.2.2.any p) }
  { s with
    cores := s.cores.map (fun e => (e.1, out e.2))
    saved := s.saved.map (fun (x : SavedCtx) => { x with coreSt := out x.coreSt })
    l2tlb := s.l2tlb.map (fun e => (e.1, keep e.2)) }

/-- What translation gives: a physical address (package 0 is this one, p + 1 package p), a miss, or a trap cause. -/
inductive XRes
  | ok (pa pkg : Nat)
  | miss
  | fault (cause : Nat)
  deriving DecidableEq, Repr

/-- Trap cause MEM_XLATE, MEM_PERM, MEM_POISON (Table 5.1). -/
def causeXlate : Nat := 0x11
def causePerm : Nat := 0x12
def causePoison : Nat := 0x13

/-- A canonical address (R365). -/
def canonical (va : Nat) : Bool := va % 2 ^ 64 / 2 ^ 57 == 0

/-- An address under a translation: permission, then poison (R368). -/
def State.useEntry (s : State) (e : TlbEntry) (va : Nat) (k : AccKind) : XRes :=
  let pa := e.ppage * 4096 + va % 4096
  if !e.perms.allows k then .fault causePerm
  else if e.pkgsel == 0 && isHbm pa && s.poisoned pa then .fault causePoison
  else .ok pa e.pkgsel

/-! The pages that the loader maps (R278, R284, R286, R287, Log 22). They stand in the address spaces of the interface beside what the driver's tables
map, in 64 KiB of physical memory each. -/

/-- A text page: execute permission, no write permission (R284); an edition is an image that can be read. -/
def Perms.text : Perms := { r := true, w := false, x := true, atm := false }
/-- A data page: read permission only (R278). -/
def Perms.data : Perms := { r := true, w := false, x := false, atm := false }
/-- Scratch text: read, write and execute permission (R287). -/
def Perms.scratch : Perms := { r := true, w := true, x := true, atm := true }

/-- The 64 KiB in a list at which an address of an area lies. -/
def unitAt (us : List Nat) (base va : Nat) : Option Nat := us[(va - base) / 65536]?

/-- A text page of an interface's editions at a virtual address: its 64 KiB, none where it has not been brought in (R286). -/
def State.textAt (s : State) (vi va : Nat) : Option (Option Nat) :=
  (s.editions.find? (fun e => e.vi == vi && decide (32 * e.base ≤ va) && e.pages.any (fun p => p.1 == (va - 32 * e.base) / 65536))).map
    (fun e => Tab.get? e.units ((va - 32 * e.base) / 65536))

/-- The data page at a virtual address of an interface. -/
def State.dataAt (s : State) (vi va : Nat) : Option (Option Nat) :=
  let l := (s.containers.filter (fun c => c.vi == vi)).map (fun c => (c.dataBase, (c.data.elim 0 (fun d => (d.length + 4095) / 4096 * 4096)), c.dataUnits)) ++
    (s.launches.filter (fun x => !x.2.completed && x.2.vi == vi)).map (fun x => (x.2.dataBase, x.2.dataBytes, x.2.dataUnits))
  (l.find? (fun d => decide (d.1 ≤ va) && decide (va < d.1 + d.2.1))).map (fun d => unitAt d.2.2 d.1 va)

/-- The page of scratch text of a launch of an interface at a virtual address. -/
def State.scratchAt (s : State) (vi va : Nat) : Option (Option Nat) :=
  (s.launches.find? (fun x => !x.2.completed && x.2.vi == vi && decide (x.2.scratch ≤ va) &&
    decide (va < x.2.scratch + 65536 * x.2.func.scratchPages))).map (fun x => unitAt x.2.scratchUnits x.2.scratch va)

/-- The loader's page at a virtual address of an interface, with its permissions: none where the loader maps nothing, and no page where one has not been
brought in. -/
def State.loaderPage (s : State) (vi va : Nat) : Option (Option (Nat × Perms)) :=
  match s.textAt vi va, s.dataAt vi va, s.scratchAt vi va with
  | some u, _, _ => some (u.map (fun x => (x, Perms.text)))
  | none, some u, _ => some (u.map (fun x => (x, Perms.data)))
  | none, none, some u => some (u.map (fun x => (x, Perms.scratch)))
  | none, none, none => none

/-- The 64 KiB of physical memory that hold text, data and the scratch text of other launches than a given one. -/
def State.textUnits (s : State) : List Nat := s.editions.flatMap (fun e => e.units.map (fun x => x.2))
def State.dataUnits (s : State) : List Nat :=
  s.containers.flatMap (fun c => c.dataUnits) ++ (s.launches.filter (fun x => !x.2.completed)).flatMap (fun x => x.2.dataUnits)
def State.scratchUnits (s : State) : List Nat := (s.launches.filter (fun x => !x.2.completed)).flatMap (fun x => x.2.scratchUnits)

/-- The permissions of a translation in the hands of a launch. By whichever address a page is reached, text takes no store and no atomic (R284), data
nothing but reads (R278), and the scratch text of another launch nothing (R287). -/
def State.permsAt (s : State) (l : Launch) (e : TlbEntry) : Perms :=
  let u := e.ppage / 16
  if e.pkgsel ≠ 0 then e.perms
  else if s.textUnits.contains u then e.perms.both Perms.text
  else if s.dataUnits.contains u then e.perms.both Perms.data
  else if s.scratchUnits.contains u && !l.scratchUnits.contains u then { r := false, w := false, x := false, atm := false }
  else e.perms

/-- An access of a launch has permission. -/
def State.allowed (s : State) (l : Launch) (e : TlbEntry) (k : AccKind) : Bool := (s.permsAt l e).allows k

/-- The walk of an address of an address space: the loader's page, else what the tables hold (R368). With S2ROOT.VALID 0 no access of the interface
is translated (Table 15.3). -/
def State.walkIn (s : State) (vi asid s1root : Nat) (s1on : Bool) (va : Nat) : Option TlbEntry :=
  if !(s.vi vi).s2valid then none
  else
  match s.loaderPage vi va with
  | some (some (u, p)) =>
    let page := 16 * u + va % 65536 / 4096
    some { vi := vi, asid := asid, s1 := s1on, own := true, vpage := va / 4096, gpage := page, ppage := page, pkgsel := 0, r := p.r, w := p.w,
           x := p.x, atm := p.atm }
  | some none => none
  | none => s.walk vi asid s1root s1on va

/-- The walk of a launch's address. -/
def State.walkFor (s : State) (l : Launch) (va : Nat) : Option TlbEntry := s.walkIn l.vi l.asid l.s1root l.s1on va

/-- An address of a launch under a translation: permission, then poison (R368). -/
def State.useFor (s : State) (l : Launch) (e : TlbEntry) (va : Nat) (k : AccKind) : XRes :=
  let pa := e.ppage * 4096 + va % 4096
  if !s.allowed l e k then .fault causePerm
  else if e.pkgsel == 0 && isHbm pa && s.poisoned pa then .fault causePoison
  else .ok pa e.pkgsel

/-- Translate(va, kind) for a launch on a core, with the translations the core holds (R368, R370). -/
def State.translate (s : State) (core : Nat) (l : Launch) (va : Nat) (k : AccKind) : XRes :=
  if !canonical va then .fault causeXlate
  else
    match s.tlbLookup core l (va / 4096) with
    | some e => s.useFor l e va k
    | none => .miss

/-- The walk a miss starts: it fills the TLBs, or faults (R370). -/
def State.walkFill (s : State) (core : Nat) (l : Launch) (va : Nat) : Option State :=
  match s.walkFor l va with
  | none => none
  | some e => some ((s.noteWalk core l va).tlbFill core e)

/-- What the walks made for a streamer command gave for a virtual page: a translation, or a walk that faulted (R370). -/
def Core.sxWalk? (c : Core) (cmd vpage : Nat) : Option (Option TlbEntry) :=
  (c.sxWalks.find? (fun x => x.1 == cmd && x.2.1 == vpage)).map (fun x => x.2.2)

/-- Translate(va, kind) for a streamer command of a launch: with the translations the core holds, and those walked for the command (R368, R370). -/
def State.translateSx (s : State) (core cmd : Nat) (l : Launch) (va : Nat) (k : AccKind) : XRes :=
  if !canonical va then .fault causeXlate
  else
    match s.tlbLookup core l (va / 4096), (s.core core).sxWalk? cmd (va / 4096) with
    | some e, _ => s.useFor l e va k
    | none, some (some e) => s.useFor l e va k
    | none, some none => .fault causeXlate
    | none, none => .miss

/-- A miss of a streamer command waits for a walk, once. -/
def State.noteSxMiss (s : State) (core cmd launch va : Nat) : State :=
  if (s.core core).sxMiss.any (fun x => x.1 == cmd) then s
  else s.modCore core (fun c => { c with sxMiss := c.sxMiss ++ [(cmd, launch, va)] })

/-- The oldest streamer miss of a core is walked, and the outcome kept for its command (R370). -/
def sxWalkEnd (s : State) (core : Nat) : State :=
  match (s.core core).sxMiss with
  | [] => s
  | (cmd, launch, va) :: t =>
    match s.launch? launch with
    | none => s.modCore core (fun c => { c with sxMiss := t })
    | some l =>
      let u := (s.walkFill core l va).getD (s.noteWalk core l va)
      u.modCore core (fun c => { c with sxMiss := t, sxWalks := (cmd, va / 4096, s.walkFor l va) :: c.sxWalks })

/-! Legends. -/

/-- Fields of a legend register (Table 15.8). -/
def Legend.valid (l : Legend) : Bool := l.top.getLsbD 63
def Legend.sc (l : Legend) : Bool := l.top.getLsbD 62
def Legend.ttype (l : Legend) : Nat := bits l.top.toNat 52 48
def Legend.stype (l : Legend) : Nat := bits l.top.toNat 44 40
def Legend.count (l : Legend) : Nat := bits l.top.toNat 39 0
/-- The register as one number. -/
def Legend.raw (l : Legend) : Nat := l.w0.toNat + 2 ^ 64 * l.w1.toNat + 2 ^ 128 * l.w2.toNat + 2 ^ 192 * l.top.toNat
def Legend.wbase (l : Legend) : Nat := bits l.raw 179 140 * 4096
def Legend.scbase (l : Legend) : Nat := bits l.raw 115 76 * 4096
def Legend.sbase (l : Legend) : Nat := bits l.raw 51 12 * 4096

/-- Bytes of an element of the target format. -/
def Legend.tsize (l : Legend) : Nat := if l.ttype = 0 then 4 else 2

/-- The window of a legend contains a physical address. -/
def Legend.covers (l : Legend) (pa : Nat) : Bool :=
  l.valid && decide (l.wbase ≤ pa) && decide (pa < l.wbase + l.count * l.tsize)

/-- The valid legend whose window contains a physical address. -/
def State.legendAt (s : State) (pa : Nat) : Option Nat := (s.legends.find? (fun e => e.2.covers pa)).map (·.1)

/-- The code of a stored element, read through a byte reader (R47, R49, R58). -/
def legendStored (ty : ETy) (base i : Nat) (rd : Nat → Byte) : Nat :=
  let m := ty.bfpM
  if m ≠ 0 then
    let blk := ofBytes ((List.range (4 * m)).map (fun b => rd (base + 4 * m * (i / 32) + b)))
    (blk >>> (m * (i % 32))) % 2 ^ m
  else if ETy.width ty = 4 then ((rd (base + i / 2)).toNat >>> (4 * (i % 2))) % 16
  else (rd (base + i)).toNat

/-- The compute-view code of element i (R75). -/
def Legend.element (l : Legend) (i : Nat) (rd : Nat → Byte) : Nat :=
  let sty := (ETy.ofCode l.stype).getD .k8a
  let tf := fmtOf ((ETy.ofCode l.ttype).getD .f32)
  let code := legendStored sty l.sbase i rd
  let slot := ofBytes [rd (l.scbase + 2 * (i / 32)), rd (l.scbase + 2 * (i / 32) + 1)]
  let v := if sty.isBfp then bfpValue sty.bfpM code slot
    else scaledValue ((fmtOf sty).value code) (if l.sc then some slot else none)
  roundTo tf v .rne RoundOpts.none noDraw

/-- A byte of the compute view. -/
def Legend.viewByte (l : Legend) (pa : Nat) (rd : Nat → Byte) : Byte :=
  let off := pa - l.wbase
  let code := l.element (off / l.tsize) rd
  BitVec.ofNat 8 (code >>> (8 * (off % l.tsize)))

end Sys2Proof.Machine
end

