-- ==== Sys2Proof/Machine/Global.lean ====
section
/-!
DEFINITION. Global memory (Chapter 8): the logs and their records, what a reader with a horizon observes, publication, replay,
draining and compaction.

The coherence order of a byte is the order of State.hist for the writes applied at home, and after them the records not yet
applied, by the stamp of the first mark that covers them and then by their number; a record no mark covers comes last (Log 14).
-/
namespace Sys2Proof.Machine

/-! Records. -/

/-- The number that stands for no stamp: above every stamp. -/
def unstamped : Nat := 2 ^ 64

/-- Where a record is homed: a tract of this package, or another package. -/
def State.homeOf (s : State) (r : Rec) : Nat := if r.pkg = 0 then s.tractOf (16 * r.gran) else 16 + r.pkg

/-- A record not yet applied: the log it lies in (the core, or for the i-th halted context 1024 (i + 1) + core, which the compactors reach too, R357),
and the stamp by which it must be applied. -/
structure Pend where
  ctx : Nat
  eff : Nat
  r : Rec
  deriving DecidableEq, Repr

/-- The core of the log. -/
def Pend.core (p : Pend) : Nat := p.ctx % 1024

/-- A later record b of a core's logs can be applied only after an earlier one a: both of one log and homed in one tract (R264), or of one granule
(R265). -/
def State.follows (s : State) (a b : Rec) : Bool :=
  (a.engine == b.engine && s.homeOf a == s.homeOf b) || (a.gran == b.gran && a.pkg == b.pkg)

/-- The records of a core's logs, each with the least stamp of itself and of the records that follow it. -/
def State.pendLog (s : State) (ctx : Nat) : List Rec → List Pend
  | [] => []
  | r :: t =>
    let l := s.pendLog ctx t
    { ctx := ctx, eff := l.foldl (fun n p => if s.follows r p.r then min n p.eff else n) (r.stamp.getD unstamped), r := r } :: l

/-- Every record in a log of the package. -/
def State.pend (s : State) : List Pend :=
  s.cores.flatMap (fun e => s.pendLog e.1 e.2.log) ++
    (enum s.saved).flatMap (fun x => s.pendLog (1024 * (x.1 + 1) + x.2.core) x.2.coreSt.log)

/-- Every record in a log of the package, without its place. -/
def State.allRecs (s : State) : List Rec := s.cores.flatMap (fun e => e.2.log) ++ s.saved.flatMap (fun x => x.coreSt.log)

/-- The survey and engine logs of a core, and of the contexts saved from it. -/
def State.ownLogs (s : State) (core : Nat) : List Rec :=
  (s.core core).log ++ (s.saved.filter (fun x => x.core == core)).flatMap (fun x => x.coreSt.log)

/-- The order in which records not yet applied will be: by stamp, an unpublished record last, then by number (Log 14). -/
def Pend.before (a b : Pend) : Bool := decide (a.eff < b.eff) || (a.eff == b.eff && decide (a.r.wid < b.r.wid))

/-- Inserts a record in that order. -/
def recInsert (r : Pend) : List Pend → List Pend
  | [] => [r]
  | x :: t => if r.before x then r :: x :: t else x :: recInsert r t

/-- Records in that order. -/
def recSort (l : List Pend) : List Pend := l.foldr recInsert []

/-- The unapplied records of a horizon on a granule of a package, earliest first. An unpublished record of a halted context waits with it, and no
log index holds it (R357). -/
def State.pendingOn (s : State) (hor : List Nat) (pkg gran : Nat) : List Rec :=
  (recSort (s.pend.filter (fun p => p.r.gran == gran && p.r.pkg == pkg && hor.contains p.r.wid &&
    (decide (p.ctx < 1024) || decide (p.eff < unstamped))))).map (fun p => p.r)

/-- The records of the survey log, in log order. -/
def Core.survey (c : Core) : List Rec := c.log.filter (fun r => !r.engine)
/-- Records in the SRAM window (R257). -/
def Core.window (c : Core) : Nat := (c.log.filter (fun r => !r.spilled)).length
/-- Records in the spill area. -/
def Core.spill (c : Core) : Nat := (c.log.filter (fun r => r.spilled)).length
/-- The window has room for n more records. -/
def Core.roomFor (c : Core) (n : Nat) : Bool := decide (c.window + n ≤ Config.windowRecords) && c.draining.isNone

/-- Adds writes to a horizon. -/
def joinIds (h new : List Nat) : List Nat := new.foldl (fun acc x => if acc.contains x then acc else x :: acc) h

/-- Writes join the horizon of a core (R263). -/
def State.join (s : State) (core : Nat) (wids : List Nat) : State :=
  s.modCore core (fun c => { c with horizon := joinIds c.horizon wids })

/-- Writes of another package that an answer tells of join the horizon of a core, each under a number of its own here (R263, R268). -/
def State.joinRemote (s : State) (core n : Nat) : State :=
  ({ s with nextId := s.nextId + n } : State).join core ((List.range n).map (s.nextId + ·))

/-- An operation at SYSTEM scope with a stamp is complete: every mark below it has come to light (R262, R269). -/
def State.settleStamp (s : State) (a : Nat) : State :=
  if s.fabric.acqTop < a then { s with fabric := { s.fabric with acqTop := a } } else s

/-- Appends a record to a core's log; a survey-log record joins the horizon (R257, R263). -/
def State.appendRec (s : State) (core : Nat) (r : Rec) : State :=
  let n := s.nextId
  let t := { s with nextId := n + 1 }
  t.modCore core (fun c =>
    { c with
      log := c.log ++ [{ r with wid := n, seq := c.seq }]
      seq := c.seq + 1
      horizon := if r.engine then c.horizon else joinIds c.horizon [n] })

/-- The record's word folded into SSIG (R311). -/
def recFold (data : Lane) (gran : Nat) (ben : BitVec 16) : Word :=
  (data.truncate 64) ^^^ ((data >>> 64).truncate 64) ^^^ (BitVec.ofNat 64 (gran * 2 ^ 16 + ben.toNat))

/-! What a reader observes (R266, R272). -/

/-- A byte of a granule in the coherence order, newest first: the value and write a reader takes when it passes over the cut
newest writes that neither its horizon, nor 20 µs, nor an SC write forbid it to pass (R266, R269). -/
def histByte (hor : List Nat) (now gran i cut : Nat) : List Applied → Nat → Byte → Byte × Option Nat
  | [], _, v => (v, none)
  | a :: t, pos, v =>
    if a.gran == gran && a.ben.getLsbD i then
      if decide (cut ≤ pos) || hor.contains a.wid || a.sc || decide (a.time + Config.cycles20us ≤ now) then (v, some a.wid)
      else histByte hor now gran i cut t (pos + 1) (BitVec.ofNat 8 (elem 8 a.old i))
    else histByte hor now gran i cut t (pos + 1) v

/-- The last record that covers a byte. -/
def lastCover (rs : List Rec) (i : Nat) : Option Rec := (rs.reverse).find? (fun r => r.ben.getLsbD i)

/-- A byte of a granule of this package as a reader with a horizon sees it: an unapplied record of the horizon that covers it,
else a write applied at home. -/
def State.seenByte (s : State) (hor : List Nat) (cut gran i : Nat) : Byte × Option Nat :=
  match lastCover (s.pendingOn hor 0 gran) i with
  | some r => (BitVec.ofNat 8 (elem 8 r.data i), some r.wid)
  | none => histByte hor s.cycle gran i cut s.hist 0 (s.homeByte (16 * gran + i))

/-- n bytes from a physical address as a reader sees them, with the writes they come from. -/
def State.seenBytes (s : State) (hor : List Nat) (cut pa n : Nat) : List Byte × List Nat :=
  let l := (List.range n).map (fun i => s.seenByte hor cut ((pa + i) / 16) ((pa + i) % 16))
  (l.map (·.1), l.filterMap (·.2))

/-- Some of n bytes from an address of a package would show a core a record of an STSC that is not yet applied (R269). -/
def State.scUnapplied (s : State) (core pkg pa n : Nat) : Bool :=
  s.allRecs.any (fun r => r.kind == 3) && (List.range n).any (fun i =>
    match lastCover (s.pendingOn (s.core core).horizon pkg ((pa + i) / 16)) ((pa + i) % 16) with
    | some r => r.kind == 3
    | none => false)

/-- A load by a core: the bytes, and the state in which the writes it returned have joined its horizon (R266). The choice among
the writes it may return comes from the tape; 0, and an empty tape, give the newest. -/
def State.loadBytes (s : State) (core pa n : Nat) : List Byte × State :=
  let c := s.choose
  let r := c.2.seenBytes (c.2.core core).horizon c.1 pa n
  (r.1, c.2.join core r.2)

/-! Applying records at home (R264, R265). -/

/-- Removes a record from the log of its core, running or halted. -/
def State.unlog (s : State) (core wid : Nat) : State :=
  let drop := fun (c : Core) => { c with log := c.log.filter (fun r => r.wid != wid) }
  { s with saved := s.saved.map (fun (x : SavedCtx) => if x.core = core then { x with coreSt := drop x.coreSt } else x) }.modCore core drop

/-- A record that a drain applies before any publication covers it still counts as unpublished for its wave (R166). -/
def State.noteUnpub (s : State) (r : Rec) : State :=
  if r.engine || r.stamp.isSome then s
  else
    let up := fun (e : Nat × Wave) => if e.1 = r.wave then (e.1, { e.2 with unpub := e.2.unpub + 1 }) else e
    { s with waves := s.waves.map up, saved := s.saved.map (fun (x : SavedCtx) => { x with waves := x.waves.map up }) }

/-- The record is homed here and its granule is poisoned, so it is discarded (R276). -/
def State.lost (s : State) (r : Rec) : Bool := r.pkg == 0 && s.poisoned (16 * r.gran)

/-- The interface of a record: of its launch; where that is gone, of the context whose log it lies in, running or halted (R357, R400). -/
def State.recVi (s : State) (core : Nat) (r : Rec) : Option Nat :=
  match s.launchVi r.launch, s.saved.find? (fun (x : SavedCtx) => x.core == core && x.coreSt.log.any (fun y => y.wid == r.wid)) with
  | some v, _ => some v
  | none, some x => some x.vi
  | none, none => s.coreVi core

/-- Applies one record at home and frees its log space; a record whose granule is poisoned is discarded and recorded (R276). A
record homed on another package leaves over the fabric, and its mark waits for the word that it is applied there (R264). -/
def State.applyRec (s : State) (core : Nat) (r : Rec) : State :=
  let vi := s.recVi core r
  let t := (s.unlog core r.wid).noteUnpub r
  if r.pkg ≠ 0 then
    { t.send (r.pkg - 1) (r.gran / 4) (.logRec (r.pkg - 1) core r) with
      marks := t.marks.map (fun m => if m.pkg == 0 && m.wids.contains r.wid && !m.gone then { m with away := r.wid :: m.away } else m) }
  else if t.lost r then t.fb { cls := 5, code := 2, addr := r.gran, detail := 1, vi := vi, core := some core }
  else (t.applyHome r.wid r.gran r.ben r.data (r.kind == 3)).served (t.tractOf (16 * r.gran)) core (popcount (r.ben.zeroExtend 64))

/-- Record x must be applied before record r is, or with it: an earlier one of r's log homed in the same place (R264), unless r is exempt from that
order; one of the same trigger in the same 32-byte block (R264); and an earlier one of the same granule, of r's own logs, of its core's horizon,
or of any log if a stamp covers r (R265). -/
def State.needed (s : State) (exempt : Rec → Bool) (x r : Pend) : Bool :=
  x.r.wid != r.r.wid &&
  ((x.ctx == r.ctx && x.r.engine == r.r.engine && decide (x.r.wid < r.r.wid) && s.homeOf x.r == s.homeOf r.r && !exempt r.r) ||
    (x.ctx == r.ctx && x.r.engine == r.r.engine && x.r.cmd == r.r.cmd && x.r.pkg == r.r.pkg && x.r.gran / 2 == r.r.gran / 2) ||
    (x.r.gran == r.r.gran && x.r.pkg == r.r.pkg && x.before r &&
      (x.ctx == r.ctx || decide (r.eff < unstamped) ||
        ((decide (x.ctx < 1024) || decide (x.eff < unstamped)) && (s.core r.core).horizon.contains x.r.wid))))

/-- A set of records with all that must be applied before them. -/
def State.closure (s : State) (exempt : Rec → Bool) (ps : List Pend) : Nat → List Pend → List Pend
  | 0, l => l
  | n + 1, l =>
    let more := ps.filter (fun x => !l.contains x && l.any (fun r => s.needed exempt x r))
    if more.isEmpty then l else s.closure exempt ps n (l ++ more)

/-- The records that a test selects, with all that must be applied before them, in their order. -/
def State.withNeeded (s : State) (exempt : Rec → Bool) (sel : Pend → Bool) : List Pend :=
  let ps := s.pend
  recSort (s.closure exempt ps ps.length (ps.filter sel))

/-- A stamp a of a package (0 this one, else its number and 1) comes before a stamp b of another: of equal ones, that of the lower package (R260). -/
def State.stampLt (s : State) (pkgA a pkgB b : Nat) : Bool :=
  let num := fun (p : Nat) => if p = 0 then s.fabric.pkgid else p - 1
  decide (a < b) || (a == b && decide (num pkgA < num pkgB))

/-- A peer's record is of its engine log. -/
def peerEngine (r : PeerRecord) : Bool := r.kind == 0x11

/-- What a peer's message writes: its own granule, and the other of its 32-byte block (R264). -/
def peerParts (r : PeerRecord) : List (Nat × BitVec 16 × Lane) :=
  (if r.ben = 0 then [] else [(r.gran, r.ben, r.data)]) ++ (match r.also with
    | some x => [(r.gran / 2 * 2 + (1 - r.gran % 2), x.1, x.2)]
    | none => [])

/-- A peer's record that waits here covers a byte of a granule, in a mark whose stamp comes before a stamp of a package (R265, R269). -/
def State.lowerPeer (s : State) (gran : Nat) (ben : BitVec 16) (pkg a : Nat) : Bool :=
  s.recHeld.any (fun x => (peerParts x).any (fun g => g.1 == gran && g.2.1 &&& ben != 0) && (match x.stamp with
    | some k => s.stampLt (x.pkg + 1) k pkg a
    | none => false))

/-- A record cannot be applied now: it is held for its twin (R320), no route leads to its home (R276), or a peer's record of a lower mark waits
ahead of it (R265). -/
def State.stuck (s : State) (r : Rec) : Bool :=
  r.held || (r.pkg != 0 && !s.reachable (r.pkg - 1)) || (r.pkg == 0 && (match r.stamp with
    | some a => s.lowerPeer r.gran r.ben 0 a
    | none => false))

/-- Waves, running or halted, some of whose open segment's records a drain applies (R259). -/
def noteDrained (s : State) (rs : List Rec) : State :=
  let hit := fun (k : Nat) (w : Wave) => rs.any (fun r => !r.engine && r.wave == k && r.seg == w.seg)
  let mark := fun (e : Nat × Wave) => (e.1, { e.2 with drained := e.2.drained || hit e.1 e.2 })
  { s with waves := s.waves.map mark, saved := s.saved.map (fun (x : SavedCtx) => { x with waves := x.waves.map mark }) }

/-- No record is exempt from the order of its log. -/
def noneExempt (_ : Rec) : Bool := false

/-- Records applied in a given order, each counted in a counter of a tract: COMPACT (11) counts those applied here, DRAINREC (12) all
(Table 17.1). -/
def State.applyCounted (s : State) (idx : Nat) (l : List Pend) : State :=
  l.foldl (fun t p =>
    let u := t.applyRec p.core p.r
    if t.lost p.r || (idx == 11 && p.r.pkg != 0) then u
    else u.tally (if idx = 11 then t.tractOf (16 * p.r.gran) else p.core / 40) idx 1 (some p.core)) s

/-- Records applied in a given order by an atomic or an invalidation: a published one by the compactor, which counts it; one that no mark covers, or that
is drained ahead of the order of its log, uncounted (R157, R264, R265, Log 124). -/
def State.applyBy (s : State) (exempt : Rec → Bool) (l : List Pend) : State :=
  l.foldl (fun t p => if p.r.stamp.isSome && !exempt p.r then t.applyCounted 11 [p] else t.applyRec p.core p.r) s

/-- The records that a test selects are applied, and before them all that must be; none while one of them cannot be. -/
def State.applyPend (s : State) (exempt : Rec → Bool) (sel : Pend → Bool) : Option State :=
  let l := s.withNeeded exempt sel
  if l.any (fun p => s.stuck p.r) then none else some ((noteDrained s (l.map (fun p => p.r))).applyBy exempt l)

/-- The published records that a test selects are applied by the compactor, and before them all that must be; none while one of them cannot be. -/
def State.compactPend (s : State) (sel : Pend → Bool) : Option State :=
  let l := s.withNeeded noneExempt sel
  if l.any (fun p => s.stuck p.r) then none else some (s.applyCounted 11 l)

/-- A record of a log, if it and all it needs can be applied. -/
def State.applyOne (s : State) (wid : Nat) : Option State := s.applyPend noneExempt (fun p => p.r.wid == wid)

/-! Stamps and marks (R260 to R263). -/

/-- Number of a scope (Table 0.2). -/
def Scope.num (sc : Scope) : Nat := sc.code

/-- Two cores lie in one instance of a scope. -/
def sameInst (sc a b : Nat) : Bool := scopeInst sc a == scopeInst sc b

/-- The package takes no further stamp (R260). -/
def State.stampStop (s : State) : Bool := decide (s.domCount ≥ 2 ^ 54 - 2 ^ 32)

/-- An operation at a scope can take its stamp now: the count limit and, at SYSTEM scope, SYNC (R260, R381). -/
def State.canStamp (s : State) (sc : Nat) : Bool :=
  !s.stampStop && (decide (sc ≤ 5) || s.fabric.sync)

/-- A stamp of a core: the domain count, its TICK raised no further than every stamp taken or seen before asks (R260). -/
def State.stampFor (s : State) (core : Nat) : Nat :=
  let t0 := s.domCount * 1024 + core
  if s.lastStamp < t0 then t0
  else (if s.lastStamp % 1024 < core then s.lastStamp / 1024 else s.lastStamp / 1024 + 1) * 1024 + core

/-- Takes a stamp (R260). -/
def State.takeStamp (s : State) (core : Nat) : Nat × State :=
  let t := s.stampFor core
  (t, { s with lastStamp := t }.modCore core (fun c => { c with lastStamp := t }))

/-- A mark to be taken: the writes and horizon it carries. -/
structure MarkPlan where
  scope : Nat
  launch : Nat
  engine : Bool
  hor : List Nat
  deriving DecidableEq, Repr

/-- The unapplied records of a core that a publication covers: its survey log up to the tail without held records, or its
engine log's records of the given command (R162, R271). -/
def Core.covered (c : Core) (engine : Bool) (cmd : Nat) : List Rec :=
  c.log.filter (fun r => r.engine == engine && !r.held && (!engine || r.cmd == cmd))

/-- Takes a mark: a stamp, and the records and horizon it covers (R162, R261, R263, R271), with further writes of its command that a drain has
applied already. It does not stand yet. -/
def State.takeMark (s : State) (core : Nat) (m : MarkPlan) (cmd : Nat) (more : List Nat) : Mark × State :=
  let st := s.takeStamp core
  let t := st.2
  let rs := joinIds (((t.core core).covered m.engine cmd).map (fun r => r.wid)) more
  let held := ((t.ownLogs core).filter (fun r => r.held)).map (fun r => r.wid)
  let k : Mark :=
    { id := t.nextId, stamp := st.1, pkg := 0, core := core, scope := m.scope, tail := (t.core core).seq, wids := rs,
      hor := joinIds (m.hor.filter (fun x => !held.contains x)) rs, launch := m.launch, stands := false, gone := false, since := t.cycle,
      away := [] }
  let u := { t with marks := t.marks ++ [k], nextId := t.nextId + 1 }
  let v := if m.engine then u else { u with waves := u.waves.map (fun e => if e.2.core = core then (e.1, { e.2 with unpub := 0 }) else e) }
  (k, v.modCore core (fun c =>
    { c with
      log := c.log.map (fun r => if rs.contains r.wid && r.stamp.isNone then { r with stamp := some st.1 } else r)
      lastPub := st.1 }))

/-- Capacity of the mark table of a scope instance (R378). -/
def State.tableCap (s : State) (lvl core : Nat) : Nat :=
  if lvl = 2 then (s.tract (core / 40)).sheetcap
  else if lvl = 3 then (s.tract (core / 40)).tractcap
  else if lvl = 4 then ((List.range 4).map (fun t => (s.tract (core / 160 * 4 + t)).widecap)).foldl (· + ·) 0
  else ((List.range 16).map (fun t => (s.tract t).widecap)).foldl (· + ·) 0

/-- The marks made to the table of a core's instance of a scope that have not left it. -/
def State.tableMarks (s : State) (lvl core : Nat) : List Mark :=
  s.marks.filter (fun m => !m.gone && decide (lvl ≤ m.scope) && m.pkg == 0 && sameInst lvl m.core core)

/-- Marks standing in that table (Table 15.9). -/
def State.tableUse (s : State) (lvl core : Nat) : Nat := ((s.tableMarks lvl core).filter (fun m => m.stands)).length

/-- Every table that a mark of a core at a scope is made to has room for it, beside the marks already made to it (R261, R378). -/
def State.markRoom (s : State) (scope core : Nat) : Bool :=
  (List.range 5).all (fun k => decide (scope < k + 2) || decide ((s.tableMarks (k + 2) core).length < s.tableCap (k + 2) core))

/-- An implicit publication of a core that no table has room for is counted once in MTSTAT.WAITS of its tract (R261, R378); none where it has been, or
where it waits for its stamp. -/
def State.noteWait (s : State) (scope core : Nat) (k : PubOf) : Option State :=
  if !s.canStamp scope || (s.core core).pubWaits.contains k then none
  else some ((s.modTract (core / 40) (fun x => { x with waits := min 65535 (x.waits + 1) })).modCore core (fun c => { c with pubWaits := k :: c.pubWaits }))

/-- A core can take a mark at a scope now (R260, R261, R381). -/
def State.canMark (s : State) (scope core : Nat) : Bool := s.canStamp scope && s.markRoom scope core

/-- Changes a mark. -/
def State.modMark (s : State) (id : Nat) (f : Mark → Mark) : State :=
  { s with marks := s.marks.map (fun m => if m.id = id then f m else m) }

/-- A mark by its number. -/
def State.mark? (s : State) (id : Nat) : Option Mark := s.marks.find? (fun m => m.id == id)

/-- The records of a mark not yet applied. -/
def State.markLeft (s : State) (m : Mark) : List Rec := s.allRecs.filter (fun r => m.wids.contains r.wid)

/-- A mark whose records are all applied, here and at the other packages, leaves its tables (R261, R264). -/
def State.retireMarks (s : State) : State :=
  { s with marks := s.marks.map (fun m =>
      if m.stands && !m.gone && (s.markLeft m).isEmpty && m.away.isEmpty then { m with gone := true } else m) }

/-- The local count has passed a SYSTEM-scope stamp by 256 cycles (R381, Log 88). -/
def State.tickPassed (s : State) (scope stamp : Nat) : Bool := decide (stamp / 1024 + (if scope = 6 then 257 else 0) ≤ s.domCount)

/-- A mark stands or has left its tables. -/
def State.markStands (s : State) (id : Nat) : Bool :=
  match s.mark? id with
  | some m => m.stands
  | none => true

/-- A mark stands, and every record of it is applied at home. -/
def State.markDone (s : State) (id : Nat) : Bool :=
  match s.mark? id with
  | some m => m.stands && m.gone
  | none => true

/-- The stamp of a mark by its number. -/
def State.markStamp (s : State) (id : Nat) : Nat := (s.mark? id).elim 0 (fun m => m.stamp)

/-- A mark stands in its tables. -/
def State.standMark (s : State) (id : Nat) : State := (s.modMark id (fun m => { m with stands := true, since := s.cycle })).retireMarks

/-- A mark of scope Sp by core P is in reach of an acquire of scope Sq by core Q (R262). -/
def markReaches (m : Mark) (core scope : Nat) : Bool :=
  let sc := min m.scope scope
  decide (2 ≤ sc) && (if m.pkg = 0 then sameInst sc m.core core else decide (6 ≤ sc))

/-- A mark's stamp comes before a stamp of this package: of equal ones, that of the lower package (R260). -/
def State.stampBelow (s : State) (m : Mark) (a : Nat) : Bool := s.stampLt m.pkg m.stamp 0 a

/-- The marks an acquire with stamp a has still to replay (R262), among the cores a set names. -/
def State.toReplay (s : State) (core scope a : Nat) (named : Option (List Nat)) : List Mark :=
  s.marks.filter (fun m => s.stampBelow m a && markReaches m core scope && !(s.core core).replayed.contains m.id &&
    (match named with
     | none => true
     | some l => m.pkg == 0 && l.contains m.core))

/-- An acquire with stamp a can complete: the domain count has reached its tick and every mark it replays stands (R262, R381). -/
def State.acquireReady (s : State) (core scope a : Nat) (named : Option (List Nat)) : Bool :=
  s.tickPassed scope a && (s.toReplay core scope a named).all (fun m => m.stands)

/-- Lines of the caches that a replay of marks invalidates: none for no mark, else a free value, since the spec does not say which lines a cache
holds (R397, Log 34). -/
def State.replayLines (s : State) (ms : List Mark) : Nat :=
  if ms.isEmpty then 0 else (Config.freeBits (2 ^ 99 + s.fresh)).toNat % 2 ^ 32

/-- The replay: the horizons and records of the marks join the core's horizon (R262, R263). -/
def State.replay (s : State) (core scope a : Nat) (named : Option (List Nat)) : State :=
  let ms := s.toReplay core scope a named
  let t := s.modCore core (fun c =>
    { c with
      horizon := ms.foldl (fun h m => joinIds (joinIds h m.hor) m.wids) c.horizon
      replayed := ms.map (fun m => m.id) ++ c.replayed })
  (t.refresh.tally (core / 40) 9 ms.length (some core)).tally (core / 40) 10 (s.replayLines ms) (some core)

/-- The highest stamp replayed, 0 if none (Table 5.8). -/
def State.replayTop (s : State) (core scope a : Nat) (named : Option (List Nat)) : Nat :=
  (s.toReplay core scope a named).foldl (fun acc m => max acc m.stamp) 0

/-- Marks with lower stamps that still have records homed in a tract (R264); a peer's mark whose records have not all come counts. -/
def State.lowerLeft (s : State) (m : Mark) (tract : Nat) : Bool :=
  s.marks.any (fun k => s.stampLt k.pkg k.stamp m.pkg m.stamp && ((k.pkg != 0 && !k.stands) ||
    (!k.gone && (s.markLeft k).any (fun r => r.pkg == 0 && s.tractOf (16 * r.gran) == tract))))

end Sys2Proof.Machine
end

