-- ==== Sys2Proof/Machine/Spad.lean ====
section
/-!
DEFINITION. The scratchpad of a party (R142, R291), its stage barriers (R168 to R171) and circular buffers (R174 to R176).
-/
namespace Sys2Proof.Machine

/-- The core address of a party's logical scratchpad address; none outside the party's banks (R142, R291). -/
def Party.spad (p : Party) (a : Nat) : Option Nat :=
  if a ≥ 2 ^ 20 then none
  else (Tab.get? p.banks (a / Config.bankBytes)).map (fun b => b * Config.bankBytes + a % Config.bankBytes)

/-- n bytes from a logical address lie in the party's banks. -/
def Party.spadOk (p : Party) (a n : Nat) : Bool :=
  decide (a + n ≤ 2 ^ 20) && (List.range ((a % Config.bankBytes + n + Config.bankBytes - 1) / Config.bankBytes)).all
    (fun k => (Tab.get? p.banks (a / Config.bankBytes + k)).isSome) && (n == 0 || (p.spad a).isSome)

/-- Bytes at a party's logical address. -/
def State.spadRead (s : State) (p : Party) (a n : Nat) : List Byte :=
  (List.range n).map (fun i => match p.spad (a + i) with
    | some x => Mem.read (s.core p.core).sram x
    | none => Config.emptyByte)

/-- A little-endian number at a party's logical address. -/
def State.spadNat (s : State) (p : Party) (a n : Nat) : Nat := ofBytes (s.spadRead p a n)

/-- Bytes written from a party's logical address. -/
def State.spadWrite (s : State) (p : Party) (a : Nat) (bs : List Byte) : State :=
  let put := fun (m : List Host.Cell) (e : Nat × Byte) =>
    match p.spad (a + e.1) with
    | some x => Mem.write m x e.2
    | none => m
  s.modCore p.core (fun c => { c with sram := (enum bs).foldl put c.sram })

/-- The lowest lane of a command and its operands. -/
def Cmd.lo (c : Cmd) : Nat := (lowest c.mask).getD 0
def Cmd.opA (c : Cmd) : Lane := laneAt c.a c.lo
def Cmd.opB (c : Cmd) : Lane := laneAt c.b c.lo
def Cmd.opC (c : Cmd) : Lane := laneAt c.c c.lo

/-! Stage barriers (Table 5.10). -/

/-- The address of a BA operation. -/
def baAddr (a : Lane) : Nat := bits a.toNat 63 0

/-- A stage barrier object. -/
structure Bar where
  phase : Nat
  extra : Bool
  overflow : Bool
  aexp : Nat
  aleft : Nat
  bexp : Nat
  bleft : Nat
  deriving DecidableEq, Repr

/-- The object in 16 bytes. -/
def Bar.ofNat (x : Nat) : Bar :=
  { phase := bits x 15 0, extra := x.testBit 16, overflow := x.testBit 17, aexp := bits x 47 32, aleft := bits x 63 48,
    bexp := bits x 95 64, bleft := bits x 127 96 }

/-- The 16 bytes of an object. -/
def Bar.toNat (b : Bar) : Nat :=
  b.phase % 2 ^ 16 + b.extra.toNat * 2 ^ 16 + b.overflow.toNat * 2 ^ 17 + b.aexp % 2 ^ 16 * 2 ^ 32 + b.aleft % 2 ^ 16 * 2 ^ 48 +
    b.bexp % 2 ^ 32 * 2 ^ 64 + b.bleft % 2 ^ 32 * 2 ^ 96

/-- BINIT (R169). -/
def Bar.init (aexp phase bexp : Nat) : Bar :=
  { phase := phase, extra := false, overflow := false, aexp := aexp, aleft := aexp, bexp := bexp, bleft := bexp }

/-- Credit(bar, k, n), the arrival part. -/
def Bar.arrive (b : Bar) (k : Bool) : Bar :=
  if k then (if b.aleft = 0 then { b with extra := true } else { b with aleft := b.aleft - 1 }) else b

/-- Credit(bar, k, n), the byte part. -/
def Bar.bytes (b : Bar) (n : Nat) : Bar :=
  if n > b.bleft then { b with overflow := true, bleft := 0 } else { b with bleft := b.bleft - n }

/-- Credit(bar, k, n) (R170): the barrier after it, and whether a phase completed. -/
def Bar.credit (b : Bar) (k : Bool) (n : Nat) : Bar × Bool :=
  let c := (b.arrive k).bytes n
  if c.aleft = 0 ∧ c.bleft = 0 then ({ c with phase := (c.phase + 1) % 2 ^ 16, aleft := c.aexp, bleft := c.bexp }, true)
  else (c, false)

/-- How far a barrier is past phase n (R171). -/
def Bar.ahead (b : Bar) (n : Nat) : Int := sint 16 (b.phase + 2 ^ 16 - n % 2 ^ 16)

/-- The barrier object at a party's logical address. -/
def State.bar (s : State) (p : Party) (a : Nat) : Bar := Bar.ofNat (s.spadNat p a 16)

/-- Writes a barrier object. -/
def State.setBar (s : State) (p : Party) (a : Nat) (b : Bar) : State := s.spadWrite p a (bytesOf 16 b.toNat)

/-- A barrier is live at a logical address of a party: the directory holds its core address (R168). -/
def State.barLive (s : State) (p : Party) (a : Nat) : Bool :=
  match p.spad a with
  | some x => a % 16 == 0 && (s.core p.core).bars.contains x
  | none => false

/-- The event count of a party rises (R242). -/
def State.bumpEvc (s : State) (party : Nat) : State := s.modParty party (fun p => { p with evc := p.evc + 1 })

/-- A waiting BA.WAIT of a wave on the barrier at a core address, evaluated: satisfied, it keeps its value until its entry is produced (R171). -/
def State.wakeOne (s : State) (core x : Nat) (w : Wave) (c : Cmd) : Cmd :=
  match c.op, c.st, s.party? w.party with
  | .ba .wait _, .begun 1 _, some p =>
    let d := (s.bar p (baAddr c.opA)).ahead (bits c.opB.toNat 15 0)
    if w.core = core ∧ p.spad (baAddr c.opA) = some x ∧ s.barLive p (baAddr c.opA) ∧ 1 ≤ d then { c with st := .begun 6 d.toNat } else c
  | _, _, _ => c

/-- Every WAIT that waits on the barrier at a core address is evaluated: at a BINIT and at every change of PHASE (R169, R171). -/
def State.wakeWaits (s : State) (core x : Nat) : State :=
  { s with waves := s.waves.map (fun e => (e.1, { e.2 with cmds := e.2.cmds.map (s.wakeOne core x e.2) })) }

/-- Credit at a live barrier; nothing where none is live (R170, R204). -/
def State.creditBar (s : State) (party : Nat) (a : Nat) (k : Bool) (n : Nat) : State :=
  match s.party? party with
  | none => s
  | some p =>
    if s.barLive p a then
      let r := (s.bar p a).credit k n
      let t := s.setBar p a r.1
      if r.2 then
        (match p.spad a with
         | some x => t.wakeWaits p.core x
         | none => t).bumpEvc party
      else t
    else s

/-! Circular buffers (R176). -/

/-- The slot address of a buffer. -/
def Cb.slotAddr (c : Cb) (slot : Nat) : Nat := c.base + slot * c.size * 256

/-- The entry of CBRESV or CBTAKE (Table 5.13). -/
def cbEntry (addr slot seq : Nat) (flag : Bool) : Lane :=
  BitVec.ofNat 128 (addr % 2 ^ 20 + slot % 32 * 2 ^ 24 + seq % 2 ^ 16 * 2 ^ 32 + flag.toNat * 2 ^ 48)

/-- CBRESV on a buffer with a free slot: the buffer after it, and the entry. -/
def Cb.reserve (c : Cb) : Cb × Lane :=
  let c' := { c with pix := (c.pix + 1) % c.slots, free := c.free - 1, resv := c.resv + 1, seqp := (c.seqp + 1) % 2 ^ 16, ef := false }
  (c', cbEntry (c.slotAddr c.pix) c.pix ((c.seqp + 1) % 2 ^ 16) c.ef)

/-- CBFILL. -/
def Cb.fill (c : Cb) : Cb := if c.resv = 0 then { c with ef := true } else { c with resv := c.resv - 1, filled := c.filled + 1 }

/-- CBTAKE on a buffer with a filled slot. -/
def Cb.take (c : Cb) : Cb × Lane :=
  let c' := { c with cix := (c.cix + 1) % c.slots, filled := c.filled - 1, tak := c.tak + 1, seqc := (c.seqc + 1) % 2 ^ 16, efr := false }
  (c', cbEntry (c.slotAddr c.cix) c.cix ((c.seqc + 1) % 2 ^ 16) c.efr)

/-- CBFREE. -/
def Cb.release (c : Cb) : Cb := if c.tak = 0 then { c with efr := true } else { c with tak := c.tak - 1, free := c.free + 1 }

/-- CBINIT (R175). -/
def Cb.init (base slots size : Nat) : Cb := { Cb.reset with base := base, slots := slots, size := size, free := slots }

end Sys2Proof.Machine
end

