-- ==== Sys2Proof/Machine/Records.lean ====
section
/-!
DEFINITION. Completion records and the ring of a party (R200, R201), what tears or closes a landfall plot (R210, R215, R386), and
what clears one (R300).
-/
namespace Sys2Proof.Machine

/-- What a completion record says (Table 6.5). -/
structure CRec where
  aux : Nat
  tag : Nat
  bytes : Nat
  op : Nat
  unit : Nat
  fault : Nat
  status : Nat
  deriving DecidableEq, Repr

/-- The 32 bytes of a completion record. -/
def CRec.pack (r : CRec) : BitVec 256 :=
  BitVec.ofNat 256 (r.aux % 2 ^ 64 * 2 ^ 192 + r.tag % 2 ^ 32 * 2 ^ 160 + r.bytes % 2 ^ 64 * 2 ^ 64 + r.op % 256 * 2 ^ 56 +
    r.unit % 256 * 2 ^ 48 + r.fault % 2 ^ 16 * 2 ^ 32 + r.status % 2 ^ 16)

/-- CRING's fields (Table 6.4). -/
def cringHead (c : Word) : Nat := bits c.toNat 63 48
def cringTail (c : Word) : Nat := bits c.toNat 47 32
def cringLog (c : Word) : Nat := bits c.toNat 23 20
def cringBase (c : Word) : Nat := bits c.toNat 19 0

/-- CRING from its fields. -/
def cringPack (head tail log base : Nat) : Word :=
  BitVec.ofNat 64 (head % 2 ^ 16 * 2 ^ 48 + tail % 2 ^ 16 * 2 ^ 32 + log % 16 * 2 ^ 20 + base % 2 ^ 20)

/-- The opcode byte of a packed record. -/
def recOp (r : BitVec 256) : Nat := bits r.toNat 63 56

/-- Commands whose records wait for a place in the ring, and which keep their places in the queue with them (R178, R200); a LOOPCOPY left the
queue when it started, and a landing event never stood in it (Log 79). -/
def Party.heldCmds (p : Party) : Nat := (p.held.filter (fun r => recOp r.rec' != 0xFF && recOp r.rec' != 3)).length

/-- A copy whose record waits holds the queue (R200). -/
def Party.copyHeld (p : Party) : Bool := p.held.any (fun r => recOp r.rec' == 1 || recOp r.rec' == 2)

/-- Loop contexts held by LOOPCOPYs of a party whose records wait (R200). -/
def Party.heldLoops (p : Party) : Nat := (p.held.filter (fun r => recOp r.rec' == 3)).length

/-- A place is free in the ring (R200). -/
def cringRoom (c : Word) : Bool := decide ((cringHead c + 2 ^ 16 - cringTail c) % 2 ^ 16 < 2 ^ cringLog c)

/-- A record written at the head of the ring; EVC rises (R200, R242). A LANDED or TORN record is counted when it is written (Table 17.1). -/
def State.ringWrite (s : State) (party : Nat) (r : BitVec 256) : State :=
  match s.party? party with
  | none => s
  | some p =>
    let h := cringHead p.cring
    let t := s.spadWrite p (cringBase p.cring + 32 * (h % 2 ^ cringLog p.cring)) (bytesOf 32 r.toNat)
    let u := (t.modParty party (fun q => { q with cring := cringPack (h + 1) (cringTail q.cring) (cringLog q.cring) (cringBase q.cring) })).bumpEvc
      party
    if recOp r = 0xFF then u.tally (p.core / 40) 14 (if bits r.toNat 15 0 = 0x20 then 1 else 2 ^ 32) (some p.core) else u

/-- A record for a party's ring: written now if the party is resident, the ring has room and no record waits; otherwise held. own is the wave and the
segment of its command, none for a landing event.
Without a ring, and for a party that has ended, nothing is written (R200, R357, R386). DESIGN CHOICE (Log 128): of a landing whose record is held, only the
record waits; the plot has changed, the barrier is credited and the sender answered. -/
def State.pushRecord (s : State) (party : Nat) (own : Option (Nat × Nat)) (r : CRec) : State :=
  match s.party? party with
  | none => s
  | some p =>
    if cringLog p.cring = 0 ∨ p.ended then s
    else if p.resident && p.held.isEmpty && cringRoom p.cring then s.ringWrite party r.pack
    else s.modParty party (fun q => { q with held := q.held ++ [{ own := own, rec' := r.pack }] })

/-- The oldest held record of a party can be written, or is lost with its ring (R200, R357). -/
def Party.flushes (p : Party) : Bool := !p.held.isEmpty && (cringLog p.cring == 0 || (p.resident && cringRoom p.cring))

/-- The oldest held record is written once the ring has room (R200, R357). -/
def State.flushRecord (s : State) (party : Nat) : State :=
  match s.party? party with
  | none => s
  | some p =>
    match p.held with
    | [] => s
    | r :: t =>
      if cringLog p.cring = 0 then s.modParty party (fun q => { q with held := [] })
      else if p.resident && cringRoom p.cring then (s.modParty party (fun q => { q with held := t })).ringWrite party r.rec'
      else s

/-- Plot size of a zone (R209). -/
def Zone.plotSize (z : Zone) : Nat := 4096 * 2 ^ z.psz

/-- AUX of a landing event: plot and generation (Table 6.6). -/
def landAux (plot gen : Nat) : Nat := plot % 64 + gen % 2 ^ 16 * 2 ^ 16

/-- Changes a plot. -/
def State.modPlot (s : State) (core zone plot : Nat) (f : Plot → Plot) : State :=
  s.modZone core zone (fun z => { z with plots := Tab.upd z.plots plot Plot.reset f })

/-- A RESERVED plot becomes TORN; its record is written unless quiet (R210, R215). -/
def State.tear (s : State) (core zone plot reason : Nat) (quiet : Bool) : State :=
  let z := (s.core core).zone zone
  let p := z.plot plot
  if p.st = .reserved then
    let t := s.modPlot core zone plot (fun q => { q with st := .torn, since := s.cycle })
    match z.granted, quiet with
    | some party, false =>
      t.pushRecord party none
        { aux := landAux plot p.gen, tag := 0, bytes := p.arrived, op := 0xFF, unit := zone, fault := reason, status := 0x21 }
    | _, _ => t
  else s

/-- A plot returns to FREE, its generation raised (Table 6.9). -/
def State.freePlot (s : State) (core zone plot : Nat) : State :=
  s.modPlot core zone plot (fun q => { Plot.reset with gen := (q.gen + 1) % 2 ^ 16, since := s.cycle })

/-- Every RESERVED plot of an open zone becomes TORN with reason CLOSE, every plot then FREE with GEN raised, also one that was FREE, and the
zone closed (R210, R386; the run of R336 raises GEN 0 to 1). All 64 plots of the controller are meant (Log 30). -/
def State.closeZone (s : State) (core zone : Nat) (quiet : Bool) : State :=
  let z := (s.core core).zone zone
  let ps := List.range (z.plotsm1 + 1)
  let t := if z.isOpen then ps.foldl (fun u p => u.tear core zone p 4 quiet) s else s
  let t2 := (List.range 64).foldl (fun u p => u.freePlot core zone p) t
  t2.modZone core zone (fun q => { q with isOpen := false, base := 0, psz := 0, plotsm1 := 0, lease := 0, barix := 0, baren := false })

/-- The answer of a receiver goes to the sender: on this package, or over the fabric. -/
def State.answer (s : State) (pkg core tag : Nat) (a : LandAns) : State :=
  if pkg = s.fabric.pkgid then { s with answers := s.answers ++ [{ a with cmd := tag }] }
  else s.send pkg (landKey core 0) (.landAns pkg (core * 2 ^ 32 + tag) { a with cmd := tag })

/-- An answer's fields (Table 6.6). -/
def landAns (status reason aux bytes : Nat) : LandAns := { cmd := 0, status := status, reason := reason, aux := aux, bytes := bytes }

/-! Clears (R300). -/

/-- A zone is open to messages: open, and not closing for a party that has ended (R386). -/
def State.zoneOpen (s : State) (z : Zone) : Bool :=
  z.isOpen && (match z.granted.bind s.party? with
    | some p => !p.ended
    | none => true)

/-- Steps 1 to 3 of R212: the first failing reason. -/
def plotReason (s : State) (z : Zone) (sPkg sCore plot gen : Nat) : Option Nat :=
  let resident := match z.granted.bind s.party? with
    | some p => p.resident
    | none => false
  let q := z.plot plot
  if !s.zoneOpen z then some 6
  else if !resident then some 5
  else if q.st ≠ .reserved ∨ q.gen ≠ gen ∨ z.plotsm1 < plot then some 1
  else if q.ownPkg ≠ sPkg ∨ q.ownCore ≠ sCore then some 2
  else none

/-- The plots a clear acts on. -/
def ClearOp.covers (o : ClearOp) (x : SendIn) : Bool :=
  match o with
  | .localClr z p => x.zone == z && x.plot == p
  | .remoteClr z p _ _ _ _ => x.zone == z && x.plot == p
  | .lease z p => x.zone == z && x.plot == p
  | .zoneInit z _ _ _ => x.zone == z
  | .zoneClose z _ => x.zone == z
  | .zoneEnd z => x.zone == z

/-- A landfall command of this package completes without a record. -/
def State.endLand (s : State) (cmd : Nat) : State :=
  { s with parties := s.parties.map (fun e => (e.1, { e.2 with sxWait := e.2.sxWait.filter (fun c => c.id != cmd) })) }

/-- What a clear does to its plots as they stand (R210, R214, R215, R300). -/
def clearAct (s : State) (c : Nat) (o : ClearOp) : State :=
  match o with
  | .localClr z p => s.freePlot c z p
  | .remoteClr z p gen sPkg sCore tag =>
    let zn := (s.core c).zone z
    match plotReason s zn sPkg sCore p gen with
    | some r => s.answer sPkg sCore tag (landAns 0x15 r 0 0)
    | none =>
      let t := if (zn.plot p).arrived = 0 then s.freePlot c z p else s.tear c z p 3 false
      t.answer sPkg sCore tag (landAns 0x17 0 0 0)
  | .lease z p => s.tear c z p 2 false
  | .zoneClose z quiet => s.closeZone c z quiet
  | .zoneEnd z => (s.closeZone c z true).modZone c z (fun q => { q with granted := none })
  | .zoneInit z a b cmd =>
    let x := b.toNat
    let t := s.closeZone c z false
    let t1 := if x.testBit 7 then
        t.modZone c z (fun q =>
          { q with
            isOpen := true
            base := bits a.toNat 63 0
            psz := bits x 10 8
            plotsm1 := bits x 5 0
            lease := bits x 47 40
            barix := bits x 31 16
            baren := x.testBit 32 })
      else t
    t1.endLand cmd

/-- A clear takes effect now, or after the sends accepted before it (R300). -/
def startClear (s : State) (c : Nat) (o : ClearOp) : State :=
  let before := ((s.core c).sends.filter o.covers).map (fun x => x.id)
  if before.isEmpty then clearAct s c o
  else s.modCore c (fun k => { k with clears := k.clears ++ [{ op := o, sends := before }] })

end Sys2Proof.Machine
end

