-- ==== Sys2Proof/Machine/EngineOperands.lean ====
section
/-!
DEFINITION. The operand fields of the engine operations, what makes them malformed, and the scratchpad bytes they name
(R167 to R176, R183 to R215). A check answers the first trap of its operation: cause, lane, address.
-/
namespace Sys2Proof.Machine

/-- A trap cause with the lane and address it reports. -/
abbrev Bad := Option (Nat × Nat × Nat)

/-- A trap where a test holds. -/
def bad? (c : Bool) (cause lane addr : Nat) : Bad := if c then some (cause, lane, addr) else none

/-- The first trap of a list. -/
def firstBad : List Bad → Bad
  | [] => none
  | none :: t => firstBad t
  | some b :: _ => some b

/-! Trap causes (Tables 1.4, 5.1, 6.1, 7.7). -/
def causeIllegal : Nat := 0x01
def causeReg : Nat := 0x02
def causeBracket : Nat := 0x03
def causeTable : Nat := 0x04
def causeSxRights : Nat := 0x05
def causeAlign : Nat := 0x10
def causeSpad : Nat := 0x14
def causeLegend : Nat := 0x15
def causeBa : Nat := 0x16
def causeCb : Nat := 0x17
def causeRemote : Nat := 0x18
def causeMx : Nat := 0x20
def causeMxRights : Nat := 0x21
def causeGa : Nat := 0x22
def causeSx : Nat := 0x23
def causeLand : Nat := 0x24
def causeFetch : Nat := 0x30
def causeText : Nat := 0x31
def causeCsr : Nat := 0x32
def causePriv : Nat := 0x33
def causeSw : Nat := 0x34

/-- The first range, address and length, outside the party's banks raises SPAD_RANGE. -/
def spadBad (p : Party) (lane : Nat) (rs : List (Nat × Nat)) : Bad :=
  (rs.find? (fun r => !p.spadOk r.1 r.2)).map (fun r => (causeSpad, lane, r.1))

/-- A 64-bit address from an exact one. -/
def addr64 (x : Int) : Nat := wrap 64 x

/-! MX (R182 to R194). -/

/-- Elements of a K-step (Table 6.2). -/
def mxK (ty : ETy) : Nat :=
  match ty with
  | .f32 => 16
  | .bf16 | .f16 | .s16 | .n16 => 32
  | .k4 | .s4 | .n4 => 128
  | .k8a | .k8b | .k6a | .k6b | .s8 | .n8 => 64
  | .bfp2 | .bfp3 | .bfp4 | .bfp5 | .bfp6 | .bfp7 | .bfp8 => 512
  | .s32 | .n32 | .s64 | .n64 => 0

/-- The 8-bit and 6-bit narrow types. -/
def isK68 (t : ETy) : Bool := t == .k8a || t == .k8b || t == .k6a || t == .k6b

/-- The accepted pairs (Table 6.2). -/
def mxPair (a b : ETy) : Bool :=
  (a == .f32 && b == .f32) || (a == .bf16 && b == .bf16) || (a == .f16 && b == .f16) || (isK68 a && isK68 b) ||
  (a == .k4 && b == .k4) || ((a == .s8 || a == .n8) && (b == .s8 || b == .n8)) ||
  ((a == .s4 || a == .n4) && (b == .s4 || b == .n4)) || (a == .s16 && b == .s16) || (a.isBfp && a == b)

/-- The configuration a CFG operand names, if it is one (R184). -/
def mxConfig (a : Lane) : Option (ETy × ETy) :=
  let x := a.toNat
  if bits x 7 5 ≠ 0 ∨ x >>> 13 ≠ 0 then none
  else
    match ETy.ofCode (bits x 4 0), ETy.ofCode (bits x 12 8) with
    | some t, some u => if mxPair t u then some (t, u) else none
    | _, _ => none

/-- Bytes of the mantissas of one K-step (R185). -/
def mxRowBytes (ty : ETy) : Nat := if ty.isBfp then 64 * ty.bfpM else 64

/-- Columns of LDB: the address of column j and, for BFP, of its scale slots (R186). -/
def ldbCol (a b : Lane) (j : Nat) : Nat := bits a.toNat 63 0 + j * bits b.toNat 15 0
def ldbScale (b : Lane) (j : Nat) : Nat := bits b.toNat 35 16 + j * bits b.toNat 51 36

/-- The ranges LDB reads. -/
def ldbRanges (bt : ETy) (a b : Lane) : List (Nat × Nat) :=
  (List.range 32).flatMap (fun j => (ldbCol a b j, mxRowBytes bt) :: (if bt.isBfp then [(ldbScale b j, 32)] else []))

/-- LDB's checks (R185, R186). -/
def ldbBad (p : Party) (bt : ETy) (lane : Nat) (a b : Lane) : Bad :=
  let x := b.toNat
  let mal := bits a.toNat 63 0 % 64 != 0 || bits x 15 0 % 64 != 0 || x >>> 52 != 0 ||
    (if bt.isBfp then bits x 35 16 % 32 != 0 || bits x 51 36 % 32 != 0 else bits x 51 16 != 0)
  firstBad [bad? mal causeMx lane 0, spadBad p lane (ldbRanges bt a b)]

/-- A row of a matrix operation: accumulator row, row number within the operation, the lane its b and c come from (R187, R188). -/
structure MmRow where
  r : Nat
  num : Nat
  from' : Nat
  deriving DecidableEq, Repr

/-- The mask of the lanes of one hardware wave of a group, moved to lanes 0 to 31 (R45). -/
def halfMask (mask : BitVec 64) (h : Nat) : BitVec 64 := (mask >>> (32 * h)) &&& lanesBelow 32

/-- The taken rows of a matrix command of hardware wave h: MMW (whole) or MMQ (R187, R188). -/
def mmRows (whole : Bool) (mask : BitVec 64) (h : Nat) : List MmRow :=
  let m := halfMask mask h
  (lanesOf m).flatMap (fun L =>
    let from0 := if whole then (lowest m).getD 0 else ((lanesOf m).find? (fun k => k / 8 == L / 8)).getD 0
    [0, 1].map (fun k => { r := 2 * L + k, num := if whole then 2 * L + k else (2 * L + k) % 16, from' := 32 * h + from0 }))

/-- The address of a taken row (R187): its mantissas, and its scale slots for BFP. -/
def mmRowAddr (a b : List Lane) (h : Nat) (x : MmRow) : Nat :=
  let w := (laneAt b x.from').toNat
  let i := if w.testBit 36 then bits (laneAt a (32 * h + x.r / 2)).toNat (16 * (x.r % 2) + 15) (16 * (x.r % 2)) else x.num
  bits w 19 0 + i * bits w 35 20
def mmScaleAddr (c : List Lane) (x : MmRow) : Nat :=
  let w := (laneAt c x.from').toNat
  bits w 19 0 + x.num * bits w 35 20

/-- MMQ's and MMW's checks for one row (R185, R188). -/
def mmRowBad (p : Party) (ty : ETy) (a b c : List Lane) (h : Nat) (x : MmRow) : Bad :=
  let bw := (laneAt b x.from').toNat
  let cw := (laneAt c x.from').toNat
  let mal := bits bw 19 0 % 64 != 0 || bits bw 35 20 % 64 != 0 || bw >>> 37 != 0 ||
    (if ty.isBfp then bits cw 19 0 % 32 != 0 || bits cw 35 20 % 32 != 0 || cw >>> 36 != 0 else cw != 0)
  firstBad [bad? mal causeMx x.from' 0,
    spadBad p x.from' ((mmRowAddr a b h x, mxRowBytes ty) :: (if ty.isBfp then [(mmScaleAddr c x, 32)] else []))]

/-- MMQ's and MMW's checks. -/
def mmBad (p : Party) (ty : ETy) (whole : Bool) (mask : BitVec 64) (a b c : List Lane) : Bad :=
  firstBad ([0, 1].flatMap (fun h => (mmRows whole mask h).map (mmRowBad p ty a b c h)))

/-- The output types of STACC (R191). -/
def staccType (b : Lane) : Option ETy :=
  let k := bits b.toNat 52 48
  if k ≤ 9 ∨ k = 12 then ETy.ofCode k else none

/-- The address of a row of STACC (R191). -/
def staccRow (a b : Lane) (r : Nat) : Nat := bits a.toNat 63 0 + r * bits b.toNat 47 32

/-- STACC's checks (R191). -/
def staccBad (p : Party) (mask : BitVec 64) (a b : List Lane) : Bad :=
  firstBad ([0, 1].map (fun h =>
    match lowest (halfMask mask h) with
    | none => none
    | some l =>
      let lane := 32 * h + l
      let x := laneAt a lane
      let y := laneAt b lane
      let mal := bits x.toNat 63 0 % 16 != 0 || bits y.toNat 47 32 % 16 != 0 || (staccType y).isNone ||
        (Rm.ofCode (bits y.toNat 55 53)).isNone || y.toNat >>> 57 != 0
      let bytes := match staccType y with
        | some t => 4 * ETy.width t
        | none => 0
      firstBad [bad? mal causeMx lane 0, spadBad p lane ((mmRows true mask h).map (fun q => (staccRow x y q.r, bytes)))]))

/-! GA (R195 to R198). -/

def gaBase (b : Lane) : Nat := bits b.toNat 19 0
def gaStride (b : Lane) : Nat := bits b.toNat 39 24
def gaCount (b : Lane) : Nat := bits b.toNat 63 40
/-- The index of a lane. -/
def gaIndex (a : Lane) : Nat := bits a.toNat 31 0
def gaDbase (c : Lane) : Nat := bits c.toNat 19 0
def gaDstride (c : Lane) : Nat := bits c.toNat 39 24
def gaRowBytes (c : Lane) : Nat := bits c.toNat 52 40

/-- The table span, if it holds a byte, and the bytes each lane in range reads (R181, R195). -/
def gaReads (mask : BitVec 64) (a : List Lane) (b : Lane) (n : Nat) : List (Nat × Nat) :=
  (if gaCount b * gaStride b = 0 then [] else [(gaBase b, gaCount b * gaStride b)]) ++
    ((lanesOf mask).filter (fun L => decide (gaIndex (laneAt a L) < gaCount b))).map
      (fun L => (gaBase b + gaIndex (laneAt a L) * gaStride b, n))

/-- GIDX's checks (R196). -/
def gidxBad (p : Party) (mask : BitVec 64) (a : List Lane) (b c : Lane) (lane : Nat) : Bad :=
  firstBad [bad? (gaBase b % 16 != 0 || gaStride b % 16 != 0 || bits b.toNat 23 20 != 0 || c != 0) causeGa lane 0,
    spadBad p lane (gaReads mask a b 16)]

/-- GROWS's checks (R197). -/
def growsBad (p : Party) (mask : BitVec 64) (a : List Lane) (b c : Lane) (lane : Nat) : Bad :=
  let n := gaRowBytes c
  let mal := n % 64 != 0 || decide (n < 64) || decide (4096 < n) || gaBase b % 64 != 0 || gaStride b % 64 != 0 ||
    gaDbase c % 64 != 0 || gaDstride c % 64 != 0 || bits c.toNat 23 20 != 0 || c.toNat >>> 53 != 0
  firstBad [bad? mal causeGa lane 0, spadBad p lane (gaReads mask a b n),
    spadBad p lane ((lanesOf mask).map (fun L => (gaDbase c + L * gaDstride c, n)))]

/-! SX (R199 to R215). -/

/-- The fields of a copy (Table 6.7), or of a LOOPCOPY with b as Table 6.8 has it. -/
structure SxCopy where
  src : Nat
  dst : Nat
  tag : Nat
  waitph : Nat
  waitbar : Nat
  sstride : Int
  dstride : Int
  rowbytes : Nat
  rows : Nat
  barix : Nat
  baren : Bool
  crec : Bool
  ssp : Bool
  dsp : Bool
  pscope : Nat
  deriving DecidableEq, Repr

/-- Reads the fields. -/
def SxCopy.ofLanes (a b c : Lane) : SxCopy :=
  let x := b.toNat
  let y := c.toNat
  { src := bits a.toNat 63 0, dst := bits x 63 0, tag := bits x 95 64, waitph := bits x 111 96, waitbar := bits x 127 112,
    sstride := sint 32 (bits y 31 0), dstride := sint 32 (bits y 63 32), rowbytes := bits y 83 64, rows := bits y 99 84,
    barix := bits y 115 100, baren := y.testBit 116, crec := y.testBit 117, ssp := y.testBit 118, dsp := y.testBit 119,
    pscope := bits y 122 120 }

/-- Row i of a side. -/
def sxRow (base : Nat) (stride : Int) (i : Nat) : Nat := addr64 (base + i * stride)

/-- The rows of a scratchpad side; one where the stride is 0, since they coincide. -/
def sxRows (base : Nat) (stride : Int) (rows n : Nat) : List (Nat × Nat) :=
  (List.range (if stride = 0 then 1 else rows)).map (fun i => (sxRow base stride i, n))

/-- The limits both kinds of copy share. -/
def SxCopy.limits (k : SxCopy) (c : Lane) : Bool :=
  k.src % 16 != 0 || k.sstride % 16 != 0 || k.dstride % 16 != 0 || k.rowbytes % 16 != 0 || k.rowbytes == 0 || k.rows == 0 ||
    c.toNat >>> 123 != 0

/-- COPY2D's and COPY2DW's checks (R203, R205); live tells whether a barrier at an address counts as live (R168). -/
def copyBad (p : Party) (wait : Bool) (live : Nat → Bool) (lane : Nat) (a b c : Lane) : Bad :=
  let k := SxCopy.ofLanes a b c
  let mal := k.limits c || k.dst % 16 != 0 || (!wait && (k.waitph != 0 || k.waitbar != 0)) ||
    (if k.dsp then k.pscope != 0 else decide (k.pscope < 2) || decide (6 < k.pscope))
  firstBad [bad? (mal || (wait && !live (16 * k.waitbar))) causeSx lane 0,
    (if k.ssp then spadBad p lane (sxRows k.src k.sstride k.rows k.rowbytes) else none),
    (if k.dsp then spadBad p lane (sxRows k.dst k.dstride k.rows k.rowbytes) else none)]

/-- The loop fields (Table 6.8). -/
def loopCount (b : Lane) : Nat := bits b.toNat 31 0
def loopStepX (b : Lane) : Int := sint 32 (bits b.toNat 63 32)
def loopStepY (b : Lane) : Int := sint 32 (bits b.toNat 95 64)
def loopNx (b : Lane) : Nat := bits b.toNat 111 96

/-- The source of iteration i (R207). -/
def loopSrc (a b : Lane) (i : Nat) : Nat :=
  addr64 (bits a.toNat 63 0 + (i % loopNx b : Nat) * loopStepX b + (i / loopNx b : Nat) * loopStepY b)

/-- The iterations whose sources differ: of equal ones the first alone is kept. -/
def loopIters (b : Lane) : List Nat :=
  let nx := loopNx b
  let n := loopCount b
  let ys := if loopStepY b = 0 then 1 else (n + nx - 1) / nx
  (List.range ys).flatMap (fun y =>
    (List.range (if loopStepX b = 0 then 1 else min nx (n - y * nx))).map (fun x => y * nx + x))

/-- The source bytes of every iteration lie in the banks (R207). Beyond 2^16 differing steps of one sign some address lies
outside 2^20 bytes. -/
def loopSrcBad (p : Party) (lane : Nat) (a b c : Lane) : Bad :=
  let k := SxCopy.ofLanes a b c
  let nx := loopNx b
  if loopStepY b ≠ 0 ∧ (loopCount b + nx - 1) / nx > 65537 then some (causeSpad, lane, k.src)
  else firstBad ((loopIters b).map (fun i => spadBad p lane (sxRows (loopSrc a b i) k.sstride k.rows k.rowbytes)))

/-- LOOPCOPY's checks (R174, R207). -/
def loopcopyBad (p : Party) (cb : Nat) (buf : Cb) (lane : Nat) (a b c : Lane) : Bad :=
  let k := SxCopy.ofLanes a b c
  let mal := k.limits c || b.toNat >>> 112 != 0 || loopCount b == 0 || loopStepX b % 16 != 0 || loopStepY b % 16 != 0 ||
    loopNx b == 0 || bits c.toNat 116 100 != 0 || k.dsp || k.pscope != 0 || buf.slots == 0 ||
    decide ((k.rows : Int) * k.dstride > buf.size * 256) || decide ((k.rowbytes : Int) > k.dstride)
  firstBad [bad? (!p.cbGrant.contains cb) causeCb lane 0, bad? mal causeSx lane 0,
    (if k.ssp then loopSrcBad p lane a b c else none)]

/-- LANDRESV's checks (R211). -/
def landresvBad (lane : Nat) (a b : Lane) : Bad :=
  bad? (a.toNat >>> 26 != 0 || bits b.toNat 63 19 != 0 || b.toNat >>> 96 != 0) causeSx lane 0

/-- LANDSEND's fields (R212). OFFSET and TAG share bits 65:64, as the rule has them. -/
def sendOffset (b : Lane) : Nat := bits b.toNat 65 48
def sendBytes (c : Lane) : Nat := bits c.toNat 18 0

/-- LANDSEND's checks (R212, R181). -/
def landsendBad (p : Party) (lane : Nat) (a b c : Lane) : Bad :=
  let n := sendBytes c
  let src := bits a.toNat 63 0
  let mal := src % 16 != 0 || b.toNat >>> 96 != 0 || sendOffset b % 16 != 0 || n % 16 != 0 || n == 0 || decide (262144 < n) ||
    c.toNat.testBit 19 || c.toNat >>> 21 != 0
  firstBad [bad? mal causeSx lane 0, spadBad p lane [(src, n)]]

/-- LANDCLR's checks (R214). -/
def landclrBad (p : Party) (zone lane : Nat) (b : Lane) : Bad :=
  let x := b.toNat
  let remote := x.testBit 6
  let mal := bits x 31 7 != 0 || x >>> 48 != 0 || (!remote && bits x 47 32 != 0)
  firstBad [bad? mal causeSx lane 0, bad? (!remote && !p.zoneGrant.contains zone) causeLand lane 0]

/-- ZONEINIT's checks (R210). -/
def zoneinitBad (p : Party) (zone lane : Nat) (a b : Lane) : Bad :=
  let x := b.toNat
  let op := x.testBit 7
  let psz := bits x 10 8
  let size := 4096 * 2 ^ psz
  let base := bits a.toNat 63 0
  let mal := x.testBit 6 || bits x 15 11 != 0 || bits x 39 33 != 0 || x >>> 48 != 0 || psz == 7 ||
    (if op then base % size != 0 else x != 0 || a != 0)
  firstBad [bad? (mal || !p.zoneGrant.contains zone) causeLand lane 0,
    (if op then spadBad p lane [(base, (bits x 5 0 + 1) * size)] else none)]

/-! BA (R169 to R175). -/

/-- BINIT's checks (R169): dir is the directory it will meet, by core addresses. -/
def binitBad (p : Party) (dir : List Nat) (lane : Nat) (a b : Lane) : Bad :=
  let x := baAddr a
  let rel := bits b.toNat 15 0 == 0 && bits b.toNat 63 32 == 0
  let live := match p.spad x with
    | some y => dir.contains y
    | none => false
  bad? (x % 16 != 0 || !p.spadOk x 16 || (decide (Config.maxBarriers ≤ dir.length) && !live && !rel)) causeBa lane x

/-- CBINIT's checks (R174, R175). -/
def cbinitBad (p : Party) (cb lane : Nat) (a b : Lane) : Bad :=
  let base := baAddr a
  let slots := bits b.toNat 5 0
  let size := bits b.toNat 31 16
  firstBad [bad? (!p.cbGrant.contains cb) causeCb lane 0,
    bad? (base % 256 != 0 || slots == 0 || decide (32 < slots) || size == 0 || decide (1024 < size) ||
      !p.spadOk base (slots * size * 256)) causeBa lane base]

end Sys2Proof.Machine
end

