-- ==== Sys2Proof/Machine/Ops.lean ====
section
/-!
DEFINITION. The named operations of a wave: its queues and entries (R27, R148), what terminates it (R216, R276), taking a trap
and returning from it (R39, R40, R244 to R246), and the end of a bundle (R18, R30 to R34).
-/
namespace Sys2Proof.Machine

/-! Entries and commands. -/

/-- The unit whose queue a command enters. -/
def QOp.unit : QOp → PortUnit
  | .ld _ _ _ => .ld
  | .st _ _ => .st
  | .atm _ _ _ _ => .atm
  | .pub _ | .acq _ | .acqn _ | .drain | .logst => .lg
  | .ba _ _ => .ba
  | .mxCfg | .mxLdb _ | .mxMmq _ _ | .mxMmw _ _ | .mxZacc _ | .mxStacc _ | .mxRdacc _ | .mxKat | .mxQstat => .mx
  | .gaGidx | .gaGrows | .gaGstat => .ga
  | .sf _ _ => .sf
  | .sx _ _ => .sx

/-- A BA operation that produces an entry (Table 5.13). -/
def BaOp.entry : BaOp → Bool
  | .wait | .test | .pbar | .cbresv | .cbtake => true
  | .binit | .arrive | .cbinit | .cbfill | .cbfree => false

/-- A command that produces a result entry (R144, R149, R155, R160, R177, R183, R196 to R199, R217). -/
def QOp.entry : QOp → Bool
  | .ld _ _ _ | .atm _ _ _ _ => true
  | .st _ _ => false
  | .pub _ | .acq _ | .acqn _ | .drain | .logst => true
  | .ba o _ => o.entry
  | .mxCfg | .mxLdb _ | .mxMmq _ _ | .mxMmw _ _ | .mxZacc _ | .mxStacc _ => false
  | .mxRdacc _ | .mxKat | .mxQstat => true
  | .gaGidx | .gaGrows | .gaGstat => true
  | .sf _ _ => true
  | .sx o _ => o == .waitc

/-- The entry of a number marked and filled, in the queue of a unit. -/
def WaveIo.fillEntry (io : WaveIo) (u : PortUnit) (id : Nat) (st : EntrySt) (vals : List Lane) : WaveIo :=
  io.setQueue u ((io.queue u).map (fun e => if e.id = id then { e with st := st, vals := vals } else e))

/-- The wave holds the entry of a number, in its queues or in the parked ones. -/
def WaveIo.hasEntry (io : WaveIo) (u : PortUnit) (id : Nat) : Bool := (io.queue u).any (fun e => e.id == id)

/-- An entry arrives: it goes where its command reserved it; a handler's entry after its RETT has no place (R40). -/
def Wave.deliver (w : Wave) (u : PortUnit) (id : Nat) (st : EntrySt) (vals : List Lane) : Wave :=
  if w.io.hasEntry u id then { w with io := w.io.fillEntry u id st vals }
  else { w with parked := w.parked.map (fun io => io.fillEntry u id st vals) }

/-- Which value forwarded to a trailing twin a command of the n-th bundle of its wave and slot k waits for (R319), and how it is marked. -/
def fwdKind (u n k mark : Nat) : Nat := ((n * 8 + k) * 32 + u) * 4 + mark

/-- The mark of an entry in a forwarded value. -/
def EntrySt.mark : EntrySt → Nat
  | .pending | .ready => 0
  | .failed => 1
  | .poisoned => 2
def EntrySt.ofMark (m : Nat) : EntrySt := if m = 1 then .failed else if m = 2 then .poisoned else .ready

/-- The trailing twin of a leading wave. -/
def Wave.follower (w : Wave) : Option Nat :=
  match w.twin with
  | some (k, true) => some k
  | _ => none

/-- The wave is a trailing twin. -/
def Wave.trails (w : Wave) : Bool :=
  match w.twin with
  | some (_, false) => true
  | _ => false

/-- A value goes to the trailing twin of a leading wave (R319). -/
def State.forward (s : State) (key kind seg : Nat) (mask : BitVec 64) (vals : List Lane) : State :=
  match (s.wave? key).bind Wave.follower with
  | some k => s.modWave k (fun w => { w with fwd := w.fwd ++ [{ kind := kind, seg := seg, mask := mask, vals := vals }] })
  | none => s

/-- The result entry of a command arrives, in the queue and in the wave's checkpoint if it was pushed before that (Table 11.1). -/
def State.deliver (s : State) (c : Cmd) (st : EntrySt) (vals : List Lane) : State :=
  let put := fun (w : Wave) => w.deliver c.op.unit c.id st vals
  { s with ckpts := Tab.modify s.ckpts c.wave (fun k => { k with wave := put k.wave }) }.modWave c.wave put

/-- The entry of a command of a leading wave arrives and is forwarded (R319). -/
def State.deliverFwd (s : State) (c : Cmd) (st : EntrySt) (vals : List Lane) : State :=
  (s.deliver c st vals).forward c.wave (fwdKind c.op.unit.code c.nth c.slot st.mark) c.seg c.mask vals

/-- One value in every lane. -/
def sameLanes (n : Nat) (x : Lane) : List Lane := List.replicate n x

/-- Removes a command from the memory queues of its wave. -/
def State.dropCmd (s : State) (key id : Nat) : State :=
  s.modWave key (fun w => { w with cmds := w.cmds.filter (fun c => c.id != id) })

/-- Changes a command of a wave's memory queues. -/
def State.modCmd (s : State) (key id : Nat) (f : Cmd → Cmd) : State :=
  s.modWave key (fun w => { w with cmds := w.cmds.map (fun c => if c.id = id then f c else c) })

/-- He of a streamer command of a core (R271, R272). -/
def State.engineHorizon (s : State) (core : Nat) : List Nat :=
  let own := ((s.ownLogs core).filter (fun r => r.stamp.isNone)).map (fun r => r.wid)
  (s.core core).horizon.filter (fun x => !own.contains x)

/-- A command of the acting wave, as its trigger samples it (R23, R26, R35). -/
def mkCmd (s : State) (pre : Wave) (op : QOp) (mask : BitVec 64) (a b c : List Lane) : Cmd :=
  { id := s.nextId, wave := s.cur, party := pre.party, op := op, mask := mask, a := a, b := b, c := c, fpc := pre.fpc,
    t := pre.clock, nth := pre.issued, slot := s.slot, seg := pre.seg, handler := pre.hmode, pushed := s.cycle,
    he := match op with
      | .sx _ _ => s.engineHorizon pre.core
      | _ => []
    st := .queued, got := none }

/-- A command that reaches an idle matrix engine raises a wake request (R393). -/
def MxEngine.request (e : MxEngine) (now : Nat) : MxEngine :=
  match e.power with
  | .idle => { e with power := .requested now }
  | .requested _ | .admitted _ | .awake _ => e

/-- The idle count of an engine starts anew when its last command leaves the queue, awake or on its way to wake (R393). -/
def MxEngine.stopped (e : MxEngine) (now : Nat) : MxEngine :=
  match e.power with
  | .awake _ => { e with power := .awake now, lastHeld := now }
  | .idle | .requested _ | .admitted _ => { e with lastHeld := now }

/-- The masks of the two hardware waves of a 64-lane group, where both have an active lane; else the mask itself. -/
def waveMasks (mask : BitVec 64) : List (BitVec 64) :=
  let low := mask &&& lanesBelow 32
  let high := mask &&& ~~~ lanesBelow 32
  if low = 0 ∨ high = 0 then [mask] else [low, high]

/-- The matrix submissions of a command: one for each hardware wave of a 64-lane group, lanes 0 to 31 first (R45). -/
def mxSubmissions (c : Cmd) : List Cmd := (waveMasks c.mask).map (fun m => { c with mask := m })

/-- A command enters its queue, and its result entry is reserved (R23, R27, R178). -/
def pushCmd (s : State) (c : Cmd) (core : Nat) : State :=
  let s1 := { s with nextId := s.nextId + 1 }
  let u := c.op.unit
  let s2 := if c.op.entry then
      s1.modWave c.wave (fun w =>
        { w with io := w.io.setQueue u (w.io.queue u ++ [{ id := c.id, mask := c.mask, st := .pending, vals := [] }]) })
    else s1
  match u with
  | .mx => s2.modCore core (fun k => { k with mxq := k.mxq ++ mxSubmissions c, mx := k.mx.request s.cycle })
  | .ga => s2.modCore core (fun k => { k with gaq := k.gaq ++ [c] })
  | .sf => s2.modCore core (fun k => { k with sfq := k.sfq ++ [c] })
  | .sx => s2.modParty c.party (fun p => { p with sxq := p.sxq ++ [c] })
  | .ld | .st | .atm | .lg | .ba | .ia0 | .ia1 | .sh | .ml | .fm0 | .fm1 | .ch | .cv | .xs | .sa | .ct | .sy =>
    s2.modWave c.wave (fun w => { w with cmds := w.cmds ++ [c] })

/-! Termination (R216, R276). -/

/-- Unpublished records of a core that a test selects are discarded, and the field book records their number (R276). -/
def State.discard (s : State) (core : Nat) (p : Rec → Bool) : State :=
  let sel := fun (r : Rec) => r.stamp.isNone && p r
  let n := ((s.core core).log.filter sel).length
  if n = 0 then s
  else (s.modCore core (fun c => { c with log := c.log.filter (fun r => !sel r) })).fb
    { cls := 5, code := 1, addr := 0, detail := n, vi := s.coreVi core, core := some core }

/-- A plot is RESERVED to a sender under a generation. -/
def Plot.isFor (q : Plot) (pkg coreId gen : Nat) : Bool := q.st == .reserved && q.gen == gen && q.ownPkg == pkg && q.ownCore == coreId

/-- A landfall send of a sender to a plot stops: what of it is still to be written is not, and its plot becomes TORN (R215, Table 6.12). -/
def State.tornSend (s : State) (pkg coreId core zone plot gen reason : Nat) : State :=
  if (((s.core core).zone zone).plot plot).isFor pkg coreId gen then
    (s.modCore core (fun k => { k with
      sends := k.sends.filter (fun x => !(x.zone == zone && x.plot == plot && x.sPkg == pkg && x.sCore == coreId)) })).tear core zone plot
        reason false
  else s

/-- The message of a landfall send is on its way. -/
def isSendOf (m : LandMsg) (pkg coreId tag : Nat) : Bool :=
  match m with
  | .send p c t _ _ _ _ _ _ => p == pkg && c == coreId && t == tag
  | .resv _ _ _ _ _ _ => false
  | .clr _ _ _ _ _ _ _ => false

/-- A landfall send of a terminated or cancelled command of a core stops, if its bytes have not all been written: the receiver's plot becomes TORN
with reason CANCEL (Table 6.12). -/
def State.stopSend (s : State) (core : Nat) (c : Cmd) : State :=
  match c.op with
  | .sx .landsend z =>
    let b := c.opB.toNat
    let pkg := bits b 15 0
    let me := coreIdent core
    let flying := s.net.any (fun m => isSendOf m s.fabric.pkgid me c.id)
    let t := { s with net := s.net.filter (fun m => !isSendOf m s.fabric.pkgid me c.id) }
    if pkg = s.fabric.pkgid then
      match coreLinear (bits b 25 16) with
      | some r =>
        if flying || (s.core r).sends.any (fun x => x.tag == c.id && x.sPkg == pkg && x.sCore == me) then
          t.tornSend pkg me r z (bits b 31 26) (bits b 47 32) 3
        else t
      | none => t
    else t.send pkg (landKey (bits b 25 16) (bits b 31 26)) (.notice pkg (.plot s.fabric.pkgid me (bits b 25 16) z (bits b 31 26) (bits b 47 32) 3))
  | _ => s

/-- The engine commands of a core that a test selects by wave and segment are quiesced, and their completion records discarded (R216, Table 6.12). -/
def State.quiesce (s : State) (core party : Nat) (own : Nat → Nat → Bool) : State :=
  let p := fun (c : Cmd) => own c.wave c.seg
  let started := match s.party? party with
    | some q => q.sxWait.filter p
    | none => []
  let s1 := started.foldl (fun t c => t.stopSend core c) s
  let keep := fun (l : List Cmd) => l.filter (fun c => !p c)
  (s1.modCore core (fun c =>
    { c with
      mxq := keep c.mxq
      mx := if c.mxq.any p && (keep c.mxq).isEmpty then c.mx.stopped s.cycle else c.mx
      gaq := keep c.gaq
      sfq := keep c.sfq
      loops := c.loops.filter (fun e => !p e.2.cmd) })).modParty party
    (fun q =>
      { q with
        sxq := keep q.sxq
        sxWait := keep q.sxWait
        held := q.held.filter (fun r => match r.own with
          | some e => !own e.1 e.2
          | none => true) })

/-- A wave is terminated: its unpublished records are discarded, its commands quiesced, its port state dropped. -/
def State.terminateWave (s : State) (key : Nat) : State :=
  match s.wave? key with
  | none => s
  | some w =>
    let s1 := s.discard w.core (fun r => r.wave == key)
    let s2 := s1.quiesce w.core w.party (fun k _ => k == key)
    ({ s2.dropWave key with ckpts := Tab.erase s2.ckpts key }.modCore w.core (fun c => { c with reqs := c.reqs.filter (fun q => q.wave != key) }))

/-- The positions of a party return to the pool (R379). -/
def returnWheel (s : State) (id : Nat) : State :=
  match s.party? id with
  | none => s
  | some p =>
    let free := fun (w : Word) => BitVec.ofNat 64 (w.toNat % 2 ^ 62 / 2 ^ 56 * 2 ^ 56 + 2 ^ 63)
    ({ s with wheelOwn := p.wheel.foldl (fun t k => Tab.upd t k 0 free) s.wheelOwn }).modParty id (fun q => { q with wheel := [] })

/-- A party ends: its zones close without records, each once the sends accepted before are written, and its grants end with that (R300, R386); its
barriers leave the directory, its banks, buffers and extra positions are free. -/
def State.endParty (s : State) (p : Nat) : State :=
  match s.party? p with
  | none => s
  | some q =>
    let s1 := q.zoneGrant.foldl (fun t z => startClear t q.core (.zoneEnd z)) s
    let mine := fun (a : Nat) => q.banks.any (fun e => e.2 == a / Config.bankBytes)
    ((returnWheel s1 p).modCore q.core (fun c => if q.resident then { c with bars := c.bars.filter (fun a => !mine a) } else c)).modParty p
      (fun x => { x with ended := true, resident := false, held := [], sxq := [], sxWait := [] })

/-- A wave of a saved context belongs to a launch. -/
def SavedCtx.hasWave (x : SavedCtx) (l key : Nat) : Bool := x.waves.any (fun e => e.1 == key && e.2.launch == l)

/-- The records of a saved context that its launch's termination discards (R276). -/
def SavedCtx.discards (x : SavedCtx) (l : Nat) (r : Rec) : Bool := r.stamp.isNone && x.hasWave l r.wave

/-- A saved context without the waves of a launch, their unpublished records and their engine commands (R276, Table 6.12). -/
def SavedCtx.without (x : SavedCtx) (l : Nat) : SavedCtx :=
  let keep := fun (q : List Cmd) => q.filter (fun c => !x.hasWave l c.wave)
  { x with
    coreSt := { x.coreSt with
      log := x.coreSt.log.filter (fun r => !x.discards l r)
      mxq := keep x.coreSt.mxq
      gaq := keep x.coreSt.gaq
      sfq := keep x.coreSt.sfq
      loops := x.coreSt.loops.filter (fun e => !x.hasWave l e.2.cmd.wave) }
    waves := x.waves.filter (fun e => e.2.launch != l)
    ckpts := x.ckpts.filter (fun e => !x.hasWave l e.1) }

/-- Every wave of a launch is terminated, on every core, and its parties end (R349). -/
def State.terminateLaunch (s : State) (l : Nat) : State :=
  let ks := (s.waves.filter (fun e => e.2.launch == l)).map (·.1)
  let s1 := ks.foldl (fun t k => t.terminateWave k) s
  let note := fun (t : State) (x : SavedCtx) =>
    let n := (x.coreSt.log.filter (x.discards l)).length
    if n = 0 then t else t.fb { cls := 5, code := 1, addr := 0, detail := n, vi := some x.vi, core := some x.core }
  let s2 := s1.saved.foldl note { s1 with saved := s1.saved.map (fun x => x.without l) }
  ((s2.parties.filter (fun e => e.2.launch == l && !e.2.ended)).map (·.1)).foldl (fun t p => t.endParty p) s2

/-- A launch faults: the first cause stands, and all of it is terminated (R349). -/
def State.launchFault (s : State) (l cause core : Nat) : State :=
  match s.launch? l with
  | none => s
  | some x =>
    if x.completed then s
    else
      (s.modLaunch l (fun y => { y with fault := match y.fault with
        | some f => some f
        | none => some (cause, core) })).terminateLaunch l

/-! Traps (R37 to R40, R244 to R246). -/

/-- A memory cause (Table 5.1). -/
def memoryCause (c : Nat) : Bool := decide (0x10 ≤ c) && decide (c ≤ 0x18)

/-- ECAUSE (Table 7.5): LANE is the lane of a memory cause, 0 for any other. -/
def Trap.ecause (t : Trap) : Word :=
  BitVec.ofNat 64 (t.code % 2 ^ 32 * 2 ^ 32 + (if memoryCause t.cause then t.lane else 0) % 64 * 2 ^ 16 + t.slot % 8 * 2 ^ 8 + t.cause % 256)

/-- EPEND (Table 7.6): the pending transfer as it stands at EPC (R244). -/
def Wave.epend (w : Wave) : Word :=
  match w.table with
  | some t => if t.left ≠ 0 then BitVec.ofNat 64 (t.left % 4) else xferWord w.xfer
  | none => xferWord w.xfer
where
  /-- The fields of a pending transfer. -/
  xferWord (x : Option Xfer) : Word :=
    match x with
    | some x => BitVec.ofNat 64 (x.target.toNat * 2 ^ 8 + x.taken.toNat * 4 + x.left % 4)
    | none => 0

/-- The trap of the other twin that a wave takes where it stands (R325). -/
def Wave.trapHere (w : Wave) : Option Trap := Tab.get? w.trapDue w.issued

/-- The n-th free value of handler entry: port p of unit u, lane L (Log 8). -/
def latchFree (n u p L : Nat) : Lane := Config.freeBits (n * 512 + (u * 3 + p) * 64 + L)

/-- Port state at handler entry (R39): empty queues, and ports that hold an undefined value. The operand latches of the interrupted code are parked, and
what the handler's own hold until it writes them is not stated: free values (Log 8). -/
def WaveIo.handler (n : Nat) : WaveIo :=
  let lanes := fun (u p : Nat) => (List.range 64).map (latchFree n u p)
  { latches := (List.range 21).map (fun u => (u, { a := lanes u 0, b := lanes u 1, c := lanes u 2 }))
    slatches := (List.range 21).map (fun u => (u, { a := (latchFree n u 0 0).truncate 64, b := (latchFree n u 1 0).truncate 64 }))
    ports := [], portDef := none, flight := [], res := [] }

/-- Trap entry (R39): the trap state is saved, the ports parked, and the handler starts at TVEC. -/
def Wave.enter (w : Wave) (t : Trap) (tvec : BitVec 56) (n : Nat) : Wave :=
  { w with
    trap := { epc := w.pc, ecause := t.ecause, eaddr := BitVec.ofNat 64 t.addr, epend := w.epend, eexm := w.exm, eexs := w.exs,
              eflag := w.bracket, errb := w.rrb, elc := w.lc, eec := w.ec, efpc := w.fpc, essig := w.ssig, table := w.table }
    exm := w.allLanes
    exs := w.exs
    bracket := false
    rrb := 0
    fpc := Config.fpcReset
    xfer := none
    table := none
    parked := some w.io
    io := WaveIo.handler n
    hmode := true
    hcount := 0
    trapDue := Tab.erase w.trapDue w.issued
    walkBad := none
    pc := tvec }

/-- A trap in one twin is taken by the other as well, at the same bundle (R325). -/
def State.tellTwin (s : State) (w : Wave) (t : Trap) : State :=
  match w.twin with
  | some (o, _) => if w.trapHere.isSome then s else s.modWave o (fun v => { v with trapDue := v.trapDue ++ [(w.issued, t)] })
  | none => s

/-- A free value of n bits for what the spec leaves open in a FAULT record of a core (Log 21). -/
def State.faultFree (s : State) (core n : Nat) : Nat := (Config.freeBits (2 ^ 95 + s.fresh * 2 ^ 64 + s.cycle * 1024 + core)).toNat % 2 ^ n

/-- The field-book record of a trap (R244, Table 17.4 class 1). DESIGN CHOICE (Log 21): bits [4:3] of DETAIL, to which the table gives no meaning, hold
the stage of a walk that faulted, which R368 has the book record without saying where; they are free for any other trap. DEDUCED (Log 116): the PC of
the record is the one that EPC takes (R244), so of a SY.TRAP the bundle that would issue next. -/
def State.fbTrap (s : State) (w : Wave) (t : Trap) : State :=
  s.fb { cls := 1, code := t.cause, addr := t.addr, detail := w.pc.toNat * 256 + t.stage.getD (s.faultFree w.core 2) % 4 * 8 + t.slot % 8,
         vi := (s.launch? w.launch).map (fun l => l.vi), core := some w.core }

/-- Taking a trap (R39, R244). In launch code with a handler the wave enters it; in a handler, or where TVEC is 0, the wave is
terminated and its launch faults. TEXT_INTEGRITY never enters the handler (R286). The other twin of a pair takes the trap as well (R325). -/
def takeTrap (s : State) (key : Nat) (t : Trap) : State :=
  match s.wave? key with
  | none => s
  | some w =>
    let s1 := s.fbTrap w t
    match s.launch? w.launch with
    | none => s1.terminateWave key
    | some l =>
      if w.hmode || l.tvec == 0 || t.cause == causeText then s1.launchFault w.launch t.cause w.core
      else ({ s1.tellTwin w t with fresh := s.fresh + 9 } : State).setWave key (w.enter t l.tvec (s.fresh + 1))

/-- The first target that is not the join, with the targets after it; none where every target is done (R33). -/
def nextTarget (join : BitVec 56) : List (BitVec 56 × BitVec 64) → Option ((BitVec 56 × BitVec 64) × List (BitVec 56 × BitVec 64))
  | [] => none
  | x :: t => if x.1 = join then nextTarget join t else some (x, t)

/-- The next target of a branch table starts, or the wave continues at the join with the EXM of the BTAB (R33). -/
def Wave.nextTable (w : Wave) (t : TableSt) : Wave :=
  match nextTarget t.join t.targets with
  | some (x, rest) => { w with pc := x.1, exm := x.2, table := some { t with left := 0, targets := rest } }
  | none => { w with pc := t.join, exm := t.exm, table := none }

/-- Arrival at the join ends the current target (R33, R232). DEDUCED (Log 115): a bundle at the join address that is issued as a delay slot of a
pending transfer is no arrival, since R30 performs both delay slots and R232 has the transfer end the target only after them. -/
def Wave.arrive (w : Wave) : Wave :=
  match w.table with
  | none => w
  | some t => if t.left = 0 ∧ w.xfer.isNone ∧ w.pc = t.join then w.nextTable t else w

/-- SY.RETT in handler mode (R40, R246): the handler's ports are discarded, the trap state is restored from the E CSRs, the parked
queues come back, and the wave resumes at EPC. LEFT 3 acts as 2. DESIGN CHOICE (Log 129): where the handler has written LEFT 0 while the delay slots of a
BTAB are pending, none is left, and the targets run once the wave stands at the join. -/
def Wave.rett (w : Wave) : Wave :=
  let e := w.trap
  let left := min 2 (bits e.epend.toNat 1 0)
  let pendTab := match e.table with
    | some t => decide (t.left ≠ 0)
    | none => false
  let table := if pendTab then e.table.map (fun t => { t with left := left }) else e.table
  let xfer := if pendTab || left == 0 then none
    else some { target := BitVec.ofNat 56 (bits e.epend.toNat 63 8), taken := e.epend.getLsbD 2, left := left }
  ({ w with
     pc := e.epc
     exm := e.eexm &&& w.allLanes
     exs := e.eexs &&& w.allLanes
     bracket := e.eflag
     rrb := e.errb
     lc := e.elc
     ec := e.eec
     fpc := e.efpc
     ssig := e.essig
     table := table
     xfer := xfer
     io := w.parked.getD WaveIo.start
     parked := none
     hmode := false
     hcount := 0 }).arrive

/-! The end of a bundle. -/

/-- Fold(x) of R311. -/
def fold (sig x : Word) : Word := (sig <<< 1 ||| sig >>> 63) ^^^ x

/-- The sequencer after a bundle (R30, R32, R33, R227): delay slots, the transfer, the branch table, or the next bundle. A transfer
set by the bundle itself has left = 3, so that its own bundle does not count as a delay slot. -/
def Wave.sequence (w : Wave) : Wave :=
  match w.xfer with
  | some x =>
    if x.left > 1 then { w with xfer := some { x with left := x.left - 1 }, pc := w.pc + 1 }
    else ({ w with xfer := none, pc := if x.taken then x.target else w.pc + 1 }).arrive
  | none =>
    match w.table with
    | some t =>
      if t.left > 1 then { w with table := some { t with left := t.left - 1 }, pc := w.pc + 1 }
      else if t.left = 1 then w.nextTable t
      else ({ w with pc := w.pc + 1 }).arrive
    | none => { w with pc := w.pc + 1 }

/-- The bundle is counted (R13, R39). -/
def Wave.countBundle (w : Wave) : Wave :=
  let v := { w with segBundles := w.segBundles + 1, issued := w.issued + 1, walkBad := none }
  if w.hmode then { v with hcount := w.hcount + 1 } else { v with count := w.count + 1 }

/-- The end of the bundle of the acting wave, done once (R18): it is counted and the sequencer moves on. -/
def advance (s : State) : State :=
  if s.ib.advanced then s
  else
    let t := s.modWave s.cur (fun w => w.sequence.countBundle)
    { t with ib := { t.ib with advanced := true } }

end Sys2Proof.Machine
end

