-- ==== Sys2Proof/Machine/Fabric.lean ====
section
/-!
DEFINITION. The compass wheel (R4, R153, R254, R379).
-/
namespace Sys2Proof.Machine

/-- The position of the compass wheel and the revolution (R4, R254). -/
def State.wheelPos (s : State) : Nat := s.cycle % Config.wheelPositions
def State.wheelRev (s : State) : Nat := s.cycle / Config.wheelPositions

/-- The positions a core owns: its own, and the extra ones in use for it (R4, R153, R379). -/
def State.ownsPos (s : State) (core n : Nat) : Bool :=
  n == core || (decide (640 ≤ n) && (let w := (Tab.getD s.wheelOwn n 0).toNat
    w.testBit 63 && w.testBit 62 && bits w 9 0 == core))

/-- How many cycles after the current one a core's next position comes. -/
def State.toNextPos (s : State) (core : Nat) : Nat :=
  ((List.range Config.wheelPositions).find? (fun d => s.ownsPos core ((s.cycle + d + 1) % Config.wheelPositions))).getD 0 + 1

/-- The word of WHEELQ for a cycle: position in bits 9:0, revolution above (R254). -/
def wheelWord (cycle : Nat) : Word := BitVec.ofNat 64 (cycle / 1024 % 2 ^ 54 * 1024 + cycle % 1024)

end Sys2Proof.Machine
end

