-- ==== Sys2Proof/Machine/Perform.lean ====
section
/-!
DEFINITION. How the commands of a wave's LD, ST, AT, LG and BA queues are performed: the orders kept among them (R152), and what
each does (R144 to R177).

An issued access holds in operand a of its command, for each lane, the target its address was translated to at issue (R37): the
physical address, the package (0 this one, p + 1 package p) in bits 95:64, and in bit 127 whether the worlds forbid it (R363);
for LDS and STS the scratchpad address. An atomic keeps in operand b the entry lane of each lane that is done, bit 127 set.
-/
namespace Sys2Proof.Machine

/-! Targets. -/

def target (pa pkg : Nat) (blocked : Bool) : Lane := BitVec.ofNat 128 (pa % 2 ^ 64 + pkg % 2 ^ 32 * 2 ^ 64 + blocked.toNat * 2 ^ 127)
def tPa (t : Lane) : Nat := bits t.toNat 63 0
def tPkg (t : Lane) : Nat := bits t.toNat 95 64
def tBlocked (t : Lane) : Bool := t.getLsbD 127

/-- Bytes of an access size (R142). -/
def szBytes : Sz → Nat
  | .b1 => 1
  | .b2 => 2
  | .b4 => 4
  | .b8 => 8
  | .b16 => 16

/-- Bytes of an atomic's operand (R155). -/
def atBytes : AtW → Nat
  | .w32 => 4
  | .w64 => 8
  | .bf16 => 2

/-! The orders of R152. -/

def Cmd.isLd (c : Cmd) : Bool := match c.op with
  | .ld _ _ _ => true
  | _ => false
def Cmd.isSt (c : Cmd) : Bool := match c.op with
  | .st _ _ => true
  | _ => false
def Cmd.isAt (c : Cmd) : Bool := match c.op with
  | .atm _ _ _ _ => true
  | _ => false
/-- A trigger of LD, ST or AT. -/
def Cmd.isMem (c : Cmd) : Bool := c.isLd || c.isSt || c.isAt
/-- A scratchpad access of LD or ST. -/
def Cmd.isSpad (c : Cmd) : Bool := match c.op with
  | .ld .lds _ _ => true
  | .st .sts _ => true
  | _ => false
def Cmd.isSts (c : Cmd) : Bool := match c.op with
  | .st .sts _ => true
  | _ => false
/-- An SC operation (R153). -/
def Cmd.isSc (c : Cmd) : Bool := match c.op with
  | .ld .ldsc _ _ => true
  | .st .stsc _ => true
  | .atm _ _ _ .sc => true
  | _ => false
/-- A publication with its order: PUB, or an atomic with .rel or .sc. -/
def Cmd.releases (c : Cmd) : Bool := match c.op with
  | .pub _ => true
  | .atm _ _ _ .release => true
  | .atm _ _ _ .sc => true
  | _ => false
/-- An acquire with its order: ACQ, ACQN, or an atomic with .acq or .sc. -/
def Cmd.acquires (c : Cmd) : Bool := match c.op with
  | .acq _ => true
  | .acqn _ => true
  | .atm _ _ _ .acquire => true
  | .atm _ _ _ .sc => true
  | _ => false
def Cmd.isLg (c : Cmd) : Bool := c.op.unit == .lg
def Cmd.isBa (c : Cmd) : Bool := c.op.unit == .ba
/-- A BA operation that STS must precede (R152), PBAR among them. -/
def Cmd.baAfterSts (c : Cmd) : Bool := match c.op with
  | .ba .arrive _ => true
  | .ba .pbar _ => true
  | .ba .cbfill _ => true
  | .ba .cbfree _ => true
  | _ => false
def Cmd.isPbar (c : Cmd) : Bool := match c.op with
  | .ba .pbar _ => true
  | _ => false
/-- A BA operation that holds later scratchpad accesses. -/
def Cmd.baBeforeSpad (c : Cmd) : Bool := match c.op with
  | .ba .wait _ => true
  | .ba .pbar _ => true
  | .ba .cbtake _ => true
  | .ba .cbresv _ => true
  | _ => false

/-- Bytes of one lane's access. -/
def Cmd.size (c : Cmd) : Nat := match c.op with
  | .ld _ sz _ => szBytes sz
  | .st _ sz => szBytes sz
  | .atm _ w _ _ => atBytes w
  | _ => 0

/-- The targets of the active lanes. -/
def Cmd.targets (c : Cmd) : List Lane := (lanesOf c.mask).map (fun L => laneAt c.a L)

/-- Two accesses of one class share a byte. -/
def Cmd.overlaps (c d : Cmd) : Bool :=
  c.isSpad == d.isSpad && c.targets.any (fun x => d.targets.any (fun y =>
    tPkg x == tPkg y && decide (tPa x < tPa y + d.size) && decide (tPa y < tPa x + c.size)))

/-- An earlier trigger e of a wave holds a later one c back (Table 5.4). PBAR also waits for earlier loads of the scratchpad
(R173). -/
def Cmd.holds (e c : Cmd) : Bool :=
  (e.isMem && c.isMem && e.overlaps c) || (e.isMem && c.releases) || (e.acquires && c.isMem) || (e.isMem && c.isSc && c.isMem) ||
  (e.isSc && c.isMem) || (e.isSts && c.baAfterSts) || (e.isSpad && c.isPbar) || (e.baBeforeSpad && c.isSpad) ||
  (e.isLg && c.isLg) || (e.isBa && c.isBa)

/-- The commands of a wave before one of them. -/
def Wave.before (w : Wave) (id : Nat) : List Cmd := w.cmds.takeWhile (fun c => c.id != id)

/-- A store that makes records. -/
def Cmd.logs (c : Cmd) : Bool := c.isSt && !c.isSts

/-- No earlier trigger of the wave holds the command back (R152). A twin appends its records in the order of its stores, so that the n-th record of both
is the same (R320, Log 109). -/
def Wave.canPerform (w : Wave) (c : Cmd) : Bool := !(w.before c.id).any (fun e => e.holds c || (w.twin.isSome && e.logs && c.logs))

/-- An engine command that reads the scratchpad. -/
def Cmd.readsSpad (c : Cmd) : Bool :=
  match c.op with
  | .mxLdb _ | .mxMmq _ _ | .mxMmw _ _ | .gaGidx | .gaGrows => true
  | .sx .landsend _ => true
  | .sx .copy2d _ | .sx .copy2dw _ | .sx .loopcopy _ => c.opC.getLsbD 118
  | _ => false

/-- A command that a later LDS of the scratchpad could not pass, or that a later engine command may not (R152, R180). -/
def Cmd.holdsSpad (d : Cmd) : Bool := d.isSts || d.baBeforeSpad || d.acquires || d.isSc

/-- An engine command that reads the scratchpad waits for the STSs of its wave in earlier bundles, and for all that would hold an LDS issued in its place
(R180, R297). -/
def State.waitsSts (s : State) (c : Cmd) : Bool :=
  c.readsSpad && (match s.wave? c.wave with
    | some w => w.cmds.any (fun d => d.holdsSpad && decide (d.nth < c.nth))
    | none => false)

/-- How the commands that pass through stages are marked. LG and AT: 1 waits for mark x, 2 for the acquire of stamp x, 3 for the trailing twin
(R321), 4 for a drain of the records below number x, 5 for the stamp of an acquire, 7 for an entry of a mark table (R261). STSC: 6 has appended
its records from number x on, 8 waits for its mark x. BA: 1 waits, 6 is satisfied with value x. SX: 7 a started COPY2DW. -/
def stageSt (stage x : Nat) : CmdSt := .begun stage x
def CmdSt.stage : CmdSt → Nat × Nat
  | .begun n x => (n, x)
  | .queued | .sent _ _ _ _ => (0, 0)

/-- The forwarded value a command of a trailing twin waits for (R319). -/
def Wave.fwdFor (w : Wave) (c : Cmd) : Option Fwd :=
  w.fwd.find? (fun f => f.kind / 4 == fwdKind c.op.unit.code c.nth c.slot 0 / 4)

/-- The command of a trailing twin takes its forwarded entry and is done. -/
def State.takeFwd (s : State) (c : Cmd) (f : Fwd) : State :=
  (s.modWave c.wave (fun w => { w with fwd := w.fwd.filter (fun x => x.kind != f.kind) })).deliver c (EntrySt.ofMark (f.kind % 4)) f.vals

/-! Loads (R144 to R148). -/

/-- The entry lane of s bytes (R145). -/
def loadLane (sx : Bool) (bs : List Byte) : Lane :=
  let x := ofBytes bs
  if sx then BitVec.ofNat 128 (wrap 128 (sint (8 * bs.length) x)) else BitVec.ofNat 128 x

/-- Bytes of a home on another package as a reader with a horizon sees them: the records of the horizon that wait here for that home, and free
values for the rest (Log 13). -/
def State.remoteBytes (s : State) (hor : List Nat) (pa pkg n seed : Nat) : List Byte :=
  (List.range n).map (fun i =>
    match lastCover (s.pendingOn hor pkg ((pa + i) / 16)) ((pa + i) % 16) with
    | some r => BitVec.ofNat 8 (elem 8 r.data ((pa + i) % 16))
    | none => (Config.freeBits (2 ^ 96 + seed * 1024 + i)).truncate 8)

/-- The bytes that hold the element at an address of a window, and its scale slot (R376). -/
def Legend.storage (g : Legend) (pa : Nat) : List Nat :=
  let i := (pa - g.wbase) / g.tsize
  let ty := (ETy.ofCode g.stype).getD .k8a
  let data := if ty.isBfp then (List.range (4 * ty.bfpM)).map (fun b => g.sbase + 4 * ty.bfpM * (i / 32) + b)
    else [g.sbase + (if ETy.width ty = 4 then i / 2 else i)]
  if g.sc || ty.isBfp then data ++ [g.scbase + 2 * (i / 32), g.scbase + 2 * (i / 32) + 1] else data

/-- The bytes that hold the elements of an access of n bytes to a window, and their scale slots. -/
def Legend.storageOf (g : Legend) (pa n : Nat) : List Nat :=
  (List.range n).foldl (fun acc i => acc ++ (g.storage (pa + i)).filter (fun a => !acc.contains a)) []

/-- One lane of a load: its bytes, and the state after it. -/
def loadOne (s : State) (core : Nat) (k : LdKind) (n : Nat) (t : Lane) (p : Party) (l : Nat) : List Byte × State :=
  if tBlocked t then (bytesOf n 0, s)
  else
    match k with
    | .lds => (s.spadRead p (tPa t) n, s)
    | .ldl =>
      let g := s.legend l
      let ch := s.choose
      let see := fun a => ch.2.seenByte (ch.2.core core).horizon ch.1 (a / 16) (a % 16)
      ((List.range n).map (fun i => g.viewByte (tPa t + i) (fun a => (see a).1)),
        ch.2.join core ((g.storageOf (tPa t) n).filterMap (fun a => (see a).2)))
    | .ldg | .ldb | .ldsc | .ldnt =>
      if tPkg t ≠ 0 then (s.remoteBytes (s.core core).horizon (tPa t) (tPkg t) n s.fresh, s.refresh.joinRemote core 1)
      else s.loadBytes core (tPa t) n

/-- The lanes of a load, in increasing lane order (R145, R154); LDB reads once for all (R146). -/
def loadLanes (core : Nat) (k : LdKind) (n : Nat) (sx : Bool) (p : Party) (c : Cmd) : List Nat → State → List (Nat × Lane) × State
  | [], s => ([], s)
  | L :: t, s =>
    let tg := laneAt c.a L
    let r := loadOne s core k n tg p ((s.legendAt (tPa tg)).getD 0)
    let rest := loadLanes core k n sx p c t r.2
    ((L, loadLane sx r.1) :: rest.1, rest.2)

/-- The lanes a load accesses. -/
def Cmd.loadMask (c : Cmd) : List Nat := match c.op with
  | .ld .ldb _ _ => (lanesOf c.mask).take 1
  | _ => lanesOf c.mask

/-- A local target whose granule is poisoned by the time it is read (R148). -/
def State.targetPoisoned (s : State) (t : Lane) : Bool :=
  !tBlocked t && tPkg t == 0 && isHbm (tPa t) && s.poisoned (tPa t)

/-- An LDL of n bytes of which some storage byte lies in a poisoned granule (R148). -/
def State.viewPoisoned (s : State) (n : Nat) (t : Lane) : Bool :=
  match s.legendAt (tPa t) with
  | none => false
  | some l => ((s.legend l).storageOf (tPa t) n).any s.poisoned

/-- Where a load's lanes are served in this package: the tract and the address of each. A line of a compute view is homed in the tract of its
legend register (R376). -/
def State.servedAt (s : State) (c : Cmd) (k : LdKind) : List (Nat × Nat) :=
  c.loadMask.filterMap (fun L =>
    let t := laneAt c.a L
    if tBlocked t || tPkg t != 0 || k == .lds then none
    else if k = .ldl then (s.legendAt (tPa t)).map (fun n => (n / 64 % 16, tPa t))
    else some (s.tractOf (tPa t), tPa t))

/-- A load would return the value of an STSC that is not yet performed: it waits until the records are applied, so that no later load elsewhere can
return an older value (R258, R269). -/
def State.scWaits (s : State) (c : Cmd) (k : LdKind) (n : Nat) : Bool :=
  let core := s.coreOf c.wave
  k != .lds && c.loadMask.any (fun L =>
    let t := laneAt c.a L
    !tBlocked t && (match k, s.legendAt (tPa t) with
      | .ldl, some l => ((s.legend l).storageOf (tPa t) n).any (fun b => s.scUnapplied core 0 b 1)
      | .ldl, none => false
      | _, _ => s.scUnapplied core (tPkg t) (tPa t) n))

/-- A load is charged: the bytes of each lane at its tract, and each line once (R397). -/
def State.noteLoad (s : State) (core n : Nat) (ps : List (Nat × Nat)) : State :=
  let t := ps.foldl (fun u x => u.tally x.1 (core / 160 % 4) n (some core)) s
  let lines := ps.foldl (fun acc x => if acc.any (fun y => y.2 == x.2 / 64) then acc else (x.1, x.2 / 64) :: acc) []
  lines.foldl (fun u x => u.tally x.1 (4 + core / 160 % 4) 1 (some core)) t

/-- A load is performed: its value is fixed and its entry arrives (R145, R148). -/
def performLd (s : State) (c : Cmd) (k : LdKind) (sz : Sz) (sx : Bool) : State :=
  match s.wave? c.wave with
  | none => s
  | some w =>
    match s.party? w.party with
    | none => s
    | some p =>
      let ls := c.loadMask
      let bad := k != .lds && ls.any (fun L => let t := laneAt c.a L
        s.targetPoisoned t || (k == .ldl && !tBlocked t && s.viewPoisoned (szBytes sz) t))
      let t0 := s.dropCmd c.wave c.id
      if bad then t0.deliverFwd c .poisoned []
      else
        let r := loadLanes w.core k (szBytes sz) sx p c ls t0
        let first := match r.1 with
          | (_, x) :: _ => x
          | [] => 0
        let vals := (List.range w.phys).map (fun L => if k = .ldb then first else Tab.getD r.1 L 0)
        let t1 := r.2.noteLoad w.core (szBytes sz) (s.servedAt c k)
        if k = .lds then t1.deliver c .ready vals else t1.deliverFwd c .ready vals

/-! Stores (R149 to R151). -/

/-- The data bytes of a lane. -/
def storeBytes (n : Nat) (x : Lane) : List Byte := bytesOf n x.toNat

/-- The records of a store: package and granule, byte enables, data, in increasing granule address; where two lanes write one
byte, the higher lane's stands (R149, R150). DESIGN CHOICE (Log 106): granules of different packages go by package first, then by address; R150 orders them
by granule address alone, which two packages share. -/
def storeRecs (c : Cmd) : List (Nat × Nat × BitVec 16 × Lane) :=
  let n := c.size
  let ls := (lanesOf c.mask).filter (fun L => !tBlocked (laneAt c.a L))
  let keys := ls.map (fun L => (tPkg (laneAt c.a L), tPa (laneAt c.a L) / 16))
  let uniq := keys.foldl (fun acc k => if acc.contains k then acc else acc ++ [k]) []
  let sorted := (uniq.foldr (fun k acc => acc.takeWhile (fun x => decide (x.1 * 2 ^ 64 + x.2 < k.1 * 2 ^ 64 + k.2)) ++ [k] ++
    acc.dropWhile (fun x => decide (x.1 * 2 ^ 64 + x.2 < k.1 * 2 ^ 64 + k.2))) [])
  sorted.map (fun k =>
    let mine := ls.filter (fun L => tPkg (laneAt c.a L) == k.1 && tPa (laneAt c.a L) / 16 == k.2)
    let byteAt := fun i => (mine.reverse.find? (fun L => let o := tPa (laneAt c.a L) % 16
      decide (o ≤ i) && decide (i < o + n))).map (fun L => elem 8 (laneAt c.c L) (i - tPa (laneAt c.a L) % 16))
    (k.1, k.2, maskOf (fun i => decide (i < 16) && (byteAt i).isSome) |>.truncate 16,
      packLane 8 ((List.range 16).map (fun i => (byteAt i).getD 0))))

/-- KIND of a record (Table 8.1). -/
def StKind.code : StKind → Nat
  | .stg => 1
  | .stnt => 2
  | .stsc => 3
  | .sts => 0

/-- The Folds of a store's records (R311). -/
def storeFolds (c : Cmd) : List Word := (storeRecs c).map (fun r => recFold r.2.2.2 r.2.1 r.2.2.1)

/-- One record of a store. A leading twin's is held (R320); a trailing twin's is compared and discarded. -/
def appendStore (s : State) (c : Cmd) (w : Wave) (kind : Nat) (r : Nat × Nat × BitVec 16 × Lane) : State :=
  let f := recFold r.2.2.2 r.2.1 r.2.2.1
  let id := s.nextId
  let t :=
    if w.trails then s
    else
      s.appendRec w.core
        { wid := 0, pkg := r.1, gran := r.2.1, ben := r.2.2.1, data := r.2.2.2, kind := kind, wslot := w.rslot, isOpen := c.seg == w.seg,
          held := w.twin.isSome, seq := 0, engine := false, cmd := c.id, wave := c.wave, launch := w.launch, seg := c.seg, spilled := false,
          stamp := none }
  if w.twin.isSome then t.modWave c.wave (fun x => { x with folds := x.folds ++ [(if w.trails then c.seg else id, f)] }) else t

/-- The records of a store are appended as one run (R150, R257). -/
def appendAll (s : State) (c : Cmd) (kind : Nat) : State :=
  match s.wave? c.wave with
  | none => s
  | some w => (storeRecs c).foldl (fun t r => appendStore t c w kind r) s

/-- STS (R149): the lanes in increasing order. -/
def performSts (s : State) (c : Cmd) : State :=
  match s.party? c.party with
  | none => s
  | some p => (lanesOf c.mask).foldl (fun t L => t.spadWrite p (tPa (laneAt c.a L)) (storeBytes c.size (laneAt c.c L))) s

/-- A store other than STSC is performed, if the log has room (R149, R150, R257, R259). -/
def performSt (s : State) (c : Cmd) (k : StKind) : Option State :=
  match s.wave? c.wave with
  | none => none
  | some w =>
    if k = .sts then some (performSts (s.dropCmd c.wave c.id) c)
    else if w.trails || (s.core w.core).roomFor (storeRecs c).length then
      some (appendAll (s.dropCmd c.wave c.id) c k.code)
    else none

/-! LG (R160 to R166). -/

/-- A record of the wave is held for twin confirmation (R320). -/
def State.waveHeld (s : State) (w : Wave) (key : Nat) : Bool := (s.core w.core).log.any (fun r => r.held && r.wave == key)

/-- The status word of LOGST (Table 5.9). DESIGN CHOICE (Log 89): a unit of 64 spilled records of which some have left counts no more, since the
table does not say how a part of one counts. -/
def logStatus (c : Core) (key unpub drains : Nat) : Lane :=
  let un := unpub + (c.log.filter (fun r => r.wave == key && r.stamp.isNone && !r.engine)).length
  BitVec.ofNat 128 (c.lastPub % 2 ^ 64 * 2 ^ 64 + min drains 0xFFFF * 2 ^ 48 + min un 0xFFFF * 2 ^ 32 + c.spill / 64 % 2 ^ 16 * 2 ^ 16 +
    c.window % 2 ^ 12)

/-- The streamer commands of a core that have not completed: those in the queues of its parties, and its LOOPCOPYs. -/
def State.runningCmds (s : State) (core : Nat) : List Nat :=
  (s.coreParties core).flatMap (fun p => p.2.sxq.map (fun c => c.id)) ++ (s.core core).loops.map (fun (e : Nat × LoopCtx) => e.2.cmd.id)

/-- A PUB takes its mark. One that finds a table full waits at the LG queue, counted once (R261, Table 15.9). -/
def performPub (s : State) (w : Wave) (c : Cmd) (sc : Nat) : Option State :=
  if !s.canStamp sc || s.waveHeld w c.wave then none
  else if !s.markRoom sc w.core then
    if c.st.stage.1 = 7 then none
    else
      some ((s.modTract (w.core / 40) (fun x => { x with waits := min 65535 (x.waits + 1) })).modCmd c.wave c.id (fun d => { d with st := stageSt 7 0 }))
  else
    let r := s.takeMark w.core { scope := sc, launch := w.launch, engine := false, hor := (s.core w.core).horizon } 0 []
    some (r.2.modCmd c.wave c.id (fun d => { d with st := stageSt 1 r.1.id }))

/-- An LG command at the head of its order: it is done, or takes its mark or stamp and waits (R162 to R166). -/
def performLg (s : State) (c : Cmd) : Option State :=
  match s.wave? c.wave with
  | none => none
  | some w =>
    let done := fun (t : State) (x : Lane) => some ((t.dropCmd c.wave c.id).deliverFwd c .ready (sameLanes w.phys x))
    match c.op with
    | .pub sc => if sc.code ≤ 1 then (if s.waveHeld w c.wave then none else done s 0) else performPub s w c sc.code
    | .acq sc | .acqn sc =>
      if sc.code ≤ 1 then done s 0
      else if s.canStamp sc.code then
        let r := s.takeStamp w.core
        some (r.2.modCmd c.wave c.id (fun d => { d with st := stageSt 2 r.1 }))
      else none
    | .drain => some (s.modCmd c.wave c.id (fun d => { d with st := stageSt 4 s.nextId, got := some (0, none, s.runningCmds w.core) }))
    | .logst =>
      let dr := match s.party? w.party with
        | some p => p.drains
        | none => 0
      done s (logStatus (s.core w.core) c.wave w.unpub dr)
    | _ => none

/-! BA (R167 to R177). -/

/-- BINIT (R169): the waiters on the barrier are evaluated against it. A directory that other waves have filled since the check takes no further barrier. -/
def performBinit (s : State) (p : Party) (party a : Nat) (b : Lane) : State :=
  match p.spad a with
  | none => s
  | some x =>
    let aexp := bits b.toNat 15 0
    let bexp := bits b.toNat 63 32
    let live := (s.core p.core).bars.contains x
    if aexp = 0 ∧ bexp = 0 then
      if live then (s.modCore p.core (fun c => { c with bars := c.bars.filter (· != x) })).bumpEvc party else s
    else if live ∨ (s.core p.core).bars.length < Config.maxBarriers then
      (((s.modCore p.core (fun c => if live then c else { c with bars := x :: c.bars })).setBar p a
        (Bar.init aexp (bits b.toNat 31 16) bexp)).wakeWaits p.core x).bumpEvc party
    else s

/-- CBINIT (R175): held while a running LOOPCOPY names the buffer. -/
def performCbinit (s : State) (core cb : Nat) (a b : Lane) : Option State :=
  if (s.core core).loops.any (fun e => match e.2.cmd.op with
    | .sx .loopcopy n => n == cb
    | _ => false) then none
  else some (s.modCb core cb (fun _ => Cb.init (baAddr a) (bits b.toNat 5 0) (bits b.toNat 31 16)))

/-- An earlier waiter of the core on the same buffer and operation goes first (R167). DESIGN CHOICE (Log 127): waiters stand in the order of their pushes,
also one that a wait of its own wave held back before it came to wait here. -/
def State.cbAhead (s : State) (core id : Nat) (o : BaOp) (cb : Nat) : Bool :=
  (s.coreWaves core).any (fun e => e.2.cmds.any (fun d => decide (d.id < id) && d.op == .ba o cb && d.st.stage.1 == 1))

/-- An earlier waiter of the core on the same barrier is satisfied, and its entry goes first (R167). -/
def State.waitAhead (s : State) (p : Party) (id a : Nat) : Bool :=
  (s.coreWaves p.core).any (fun e => e.2.cmds.any (fun d => match d.op, d.st with
    | .ba .wait _, .begun 6 _ => decide (d.id < id) && (match s.party? e.2.party with
      | some q => q.spad (baAddr d.opA) == p.spad a
      | none => false)
    | _, _ => false))

/-- A satisfied WAIT produces its entry with value d (R171); a trailing twin's takes its leader's. None where that has not come, or an earlier
waiter goes first. -/
def answerWait (s : State) (w : Wave) (p : Party) (c : Cmd) (d : Nat) : Option State :=
  let t := s.dropCmd c.wave c.id
  if s.waitAhead p c.id (baAddr c.opA) then none
  else
    match w.trails, w.fwdFor c with
    | true, some f => some (t.takeFwd c f)
    | true, none => none
    | false, _ => some (t.deliverFwd c .ready (sameLanes w.phys (BitVec.ofNat 128 d)))

/-- A BA command at the head of its order (R167 to R176); none where it waits. again tells whether it waited already. -/
def performBa (s : State) (c : Cmd) (o : BaOp) (cb : Nat) : Option State :=
  match s.wave? c.wave with
  | none => none
  | some w =>
    match s.party? w.party with
    | none => none
    | some p =>
      let lane := (lowest c.mask).getD 0
      let a := laneAt c.a lane
      let b := laneAt c.b lane
      let x := baAddr a
      let t := s.dropCmd c.wave c.id
      let entry := fun (u : State) (v : Lane) => u.deliver c .ready (sameLanes w.phys v)
      match o with
      | .binit => some (performBinit t p w.party x b)
      | .arrive => some (t.creditBar w.party x true (bits b.toNat 31 0))
      | .wait =>
        let d := (s.bar p x).ahead (bits b.toNat 15 0)
        if c.st.stage.1 = 6 then answerWait s w p c c.st.stage.2
        else if s.barLive p x && decide (1 ≤ d) then
          match answerWait s w p c d.toNat with
          | some u => some u
          | none => if c.st = .queued then some (s.modCmd c.wave c.id (fun e => { e with st := stageSt 6 d.toNat })) else none
        else none
      | .test =>
        let v := BitVec.ofNat 128 (s.spadNat p x 16)
        let u := if s.barLive p x then t.setBar p x { s.bar p x with overflow := false, extra := false } else t
        match w.trails, w.fwdFor c with
        | true, some f => some (u.takeFwd c f)
        | true, none => none
        | false, _ => some (u.deliverFwd c .ready (sameLanes w.phys v))
      | .pbar => none
      | .cbinit => (performCbinit s w.core cb a b).map (fun u => u.dropCmd c.wave c.id)
      | .cbresv =>
        let k := (s.core w.core).cb cb
        if k.free = 0 ∨ s.cbAhead w.core c.id o cb then none
        else
          let r := k.reserve
          some (entry (t.modCb w.core cb (fun _ => r.1)) r.2)
      | .cbfill => some (t.modCb w.core cb Cb.fill)
      | .cbtake =>
        let k := (s.core w.core).cb cb
        if k.filled = 0 ∨ s.cbAhead w.core c.id o cb then none
        else
          let r := k.take
          some (entry (t.modCb w.core cb (fun _ => r.1)) r.2)
      | .cbfree => some (t.modCb w.core cb Cb.release)

/-- A BA operation that cannot proceed at once waits for its event (R167, R171, R173, R176). -/
def BaOp.waits : BaOp → Bool
  | .wait | .pbar | .cbresv | .cbtake => true
  | .binit | .arrive | .test | .cbinit | .cbfill | .cbfree => false

/-! Settling: what the queues of a core can do without waiting for an event. -/

/-- A command of a wave's queues that can go on now: the state after it. Loads and atomics go on by their events; an SC operation by
its position on the wheel. -/
def tryCmd (s : State) (w : Wave) (c : Cmd) : Option State :=
  if c.st.stage.1 = 8 then (if s.markDone c.st.stage.2 then some ((s.dropCmd c.wave c.id).settleStamp (s.markStamp c.st.stage.2)) else none) else
  if !(c.st == .queued || (c.st.stage.1 == 7 && c.isLg)) || !w.canPerform c then none
  else if w.trails && (c.isLg || (c.isLd && !c.isSpad) || c.isAt) then (w.fwdFor c).map (fun f => (s.dropCmd c.wave c.id).takeFwd c f)
  else
    match c.op with
    | .st k _ => if k = .stsc && !w.trails then none else performSt s c k
    | .pub _ | .acq _ | .acqn _ | .drain | .logst => performLg s c
    | .ba o cb =>
      match performBa s c o cb with
      | some t => some t
      | none => if o.waits then some (s.modCmd c.wave c.id (fun d => { d with st := stageSt 1 0 })) else none
    | .ld _ _ _ | .atm _ _ _ _ => none
    | .mxCfg | .mxLdb _ | .mxMmq _ _ | .mxMmw _ _ | .mxZacc _ | .mxStacc _ | .mxRdacc _ | .mxKat | .mxQstat | .gaGidx | .gaGrows
    | .gaGstat | .sf _ _ | .sx _ _ => none

/-- The commands of a core's waves in push order. -/
def State.coreCmds (s : State) (core : Nat) : List (Wave × Cmd) :=
  let l := (s.coreWaves core).flatMap (fun e => e.2.cmds.map (fun c => (e.2, c)))
  l.foldr (fun x acc => acc.takeWhile (fun y => decide (y.2.id < x.2.id)) ++ [x] ++ acc.dropWhile (fun y => decide (y.2.id < x.2.id))) []

/-- The first command of a list that can go on. -/
def firstTry (s : State) : List (Wave × Cmd) → Option State
  | [] => none
  | x :: t =>
    match tryCmd s x.1 x.2 with
    | some u => some u
    | none => firstTry s t

/-- The queues of a core run until nothing more can go on without an event. -/
def settleFuel : Nat → State → Nat → State
  | 0, s, _ => s
  | n + 1, s, core =>
    match firstTry s (s.coreCmds core) with
    | some t => settleFuel n t core
    | none => s

/-- What the queues of a core can do now. Each command goes on at most twice. -/
def settle (s : State) (core : Nat) : State := settleFuel (2 * (s.coreCmds core).length) s core

end Sys2Proof.Machine
end

