-- ==== Sys2Proof/Machine/LogOps.lean ====
section
/-!
DEFINITION. The log operations that are no trigger of a wave: the move of 64 records to the spill area (R257), the log-full drain
(R259), compaction of a mark (R264), and implicit publications (R261).
-/
namespace Sys2Proof.Machine

/-- The window is full and the spill area is not: the oldest 64 records of the window move to it (R257). -/
def canSpill (c : Core) : Bool := decide (64 ≤ c.window) && decide (c.spill + Config.spillUnit ≤ Config.spillRecords)

/-- Marks the first n records of the window as spilled. -/
def spillFirst : Nat → List Rec → List Rec
  | _, [] => []
  | 0, l => l
  | n + 1, r :: t => if r.spilled then r :: spillFirst (n + 1) t else { r with spilled := true } :: spillFirst n t

/-- The 32 bytes of a record (Table 8.1). -/
def Rec.bytes (r : Rec) : List Byte :=
  let data := ofBytes ((List.range 16).map (fun i => if r.ben.getLsbD i then BitVec.ofNat 8 (elem 8 r.data i) else 0))
  bytesOf 32 (data * 2 ^ 128 + r.gran % 2 ^ 48 * 2 ^ 80 + r.ben.toNat * 2 ^ 64 + r.kind % 2 ^ 8 * 2 ^ 56 +
    (if r.engine then 0 else r.wslot % 16) * 2 ^ 52 + r.isOpen.toNat * 2 ^ 49 + r.held.toNat * 2 ^ 48 + r.seq % 2 ^ 48)

/-- Where a record of a core lies in the spill area: the last 4 MiB of the core's part of the context area of the partition that runs there
(R257, R355), at its position in the core's log order (Log 91). -/
def State.spillAt (s : State) (core : Nat) (r : Rec) : Option Nat :=
  (s.core core).running.map (fun v => s.ctxArea v core + ctxSpillBytes + 32 * (r.seq % Config.spillRecords))

/-- The records that the next move takes: the oldest 64 of the window. -/
def Core.spilling (c : Core) : List Rec := (c.log.filter (fun r => !r.spilled)).take Config.spillUnit

/-- The move: the bytes go to the spill area, and are charged there (R256, R257, R397). -/
def spill (s : State) (core : Nat) : State :=
  let isOpen := fun (r : Rec) => match s.wave? r.wave with
    | some w => !r.engine && w.seg == r.seg
    | none => false
  let rs := (s.core core).spilling.filterMap (fun r => (s.spillAt core r).map (fun a => (a, { r with isOpen := isOpen r })))
  let t := rs.foldl (fun u e => u.pokeHome e.1 e.2.bytes) s
  (t.noteLoad core 32 ((rs.filter (fun e => isHbm e.1)).map (fun e => (s.tractOf e.1, e.1)))).modCore core (fun c =>
    { c with log := spillFirst Config.spillUnit c.log })

/-- A store of the core waits for room in its logs, or a copy needs it. -/
def logFull (c : Core) : Bool := decide (Config.windowRecords ≤ c.window) && !canSpill c

/-- A drain of a record with all that must be applied before it; none where one of them cannot be applied (R259). -/
def State.drainOne (s : State) (wid : Nat) : Option State :=
  let l := s.withNeeded noneExempt (fun p => p.r.wid == wid)
  if l.any (fun p => s.stuck p.r) then none else some ((noteDrained s (l.map (fun p => p.r))).applyCounted 12 l)

/-- A drain passes a record by: only a home that cannot be reached keeps it, or one that must be applied before it, in its log; later records of other
homes are not delayed by it (R276). -/
def State.passesBy (s : State) (wid : Nat) : Bool :=
  let l := (s.withNeeded noneExempt (fun p => p.r.wid == wid)).filter (fun p => s.stuck p.r)
  !l.isEmpty && l.all (fun p => !p.r.held && p.r.pkg != 0)

/-- A drain of records in log order, up to the first that must wait; and whether every one is applied. -/
def State.drainList : List Nat → State → State × Bool
  | [], s => (s, true)
  | w :: t, s =>
    match s.drainOne w with
    | some u => State.drainList t u
    | none => if s.passesBy w then ((State.drainList t s).1, false) else (s, false)

/-- A mark that stands covers a record (R259). -/
def State.standing (s : State) (wid : Nat) : Bool := s.marks.any (fun m => m.stands && m.wids.contains wid)

/-- The log-full drain (R259): of the oldest 8,192 records, those of marks that stand are applied first, by the compactor; the rest then in log order,
and before them what the stamp order puts before them. At one that is held for its twin it waits, and goes on with the same records. When none of them
is left, but for those that R276 holds in the log, it is complete (Log 111). -/
def fullDrain (s : State) (core : Nat) : State :=
  let log := (s.core core).log
  let last := match (s.core core).draining with
    | some w => w
    | none => ((log.take Config.drainRecords).map (fun r => r.wid)).foldl max 0
  let left := fun (t : State) => (((t.core core).log.map (fun (x : Rec) => x.wid)).filter (fun (w : Nat) =>
    decide (w ≤ last) && !t.fabric.heldFar.contains w))
  let r := if (left s).any s.standing then s else (State.drainList (left s) s).1
  if (left r).isEmpty then
    let t := r.modCore core (fun c => { c with draining := none })
    (t.coreParties core).foldl (fun u p => u.modParty p.1 (fun q => { q with drains := q.drains + 1 })) t
  else r.modCore core (fun c => { c with draining := some last })

/-- Room for one record more: a move to the spill area, or a drain (R257, R259); and whether there is room then. -/
def makeRoom (s : State) (core : Nat) : State × Bool :=
  let c := s.core core
  if c.roomFor 1 then (s, true)
  else
    let t := if c.draining.isNone && canSpill c then spill s core else fullDrain s core
    (t, (t.core core).roomFor 1)

/-- A package has been unreachable for 2 ms (R276). -/
def State.farFor (s : State) (pkg : Nat) : Bool :=
  !s.reachable pkg && decide (Tab.getD s.fabric.reached pkg 0 + Config.cycles2ms ≤ s.cycle)

/-- The cycle is kept in which each package could last be reached. -/
def noteReached (s : State) : State :=
  let l := (s.routes.filter (fun (e : Nat × Word) => s.reachable e.1)).map (fun e => e.1)
  if l.isEmpty then s
  else { s with fabric := { s.fabric with reached := l.foldl (fun acc p => Tab.set acc p s.cycle) s.fabric.reached } }

/-- Records of a core whose home has been unreachable for 2 ms are held in the log and recorded, one record for those of a core that become so together;
one whose route has returned is held no more (R276). -/
def noteHeld (s : State) : State :=
  let far := s.pend.filter (fun p => p.r.pkg != 0 && s.farFor (p.r.pkg - 1))
  if far.isEmpty && s.fabric.heldFar.isEmpty then s
  else
    let new := far.filter (fun p => !s.fabric.heldFar.contains p.r.wid)
    let t : State := { s with fabric := { s.fabric with heldFar := far.map (fun p => p.r.wid) } }
    let cores := new.foldl (fun acc p => if acc.contains p.core then acc else acc ++ [p.core]) []
    cores.foldl (fun u c => match new.filter (fun p => p.core == c) with
      | [] => u
      | p :: l => u.fb { cls := 5, code := 3, addr := p.r.gran, detail := l.length + 1, vi := s.recVi c p.r, core := some c }) t

/-- Records of a mark applied one after another, each after all that must be applied before it; one that cannot be stays (R276). -/
def compactList (s : State) (wids : List Nat) : State :=
  wids.foldl (fun t w =>
    let l := t.withNeeded noneExempt (fun p => p.r.wid == w)
    if l.any (fun p => t.stuck p.r) then t else t.applyCounted 11 l) s

/-- A tract's compactor applies the records of a standing mark that are homed there, in log order, once no lower mark has records
left there (R264, R265). Records homed on another package leave over the fabric, by the compactor of the mark's own tract, once a
route exists (R276); its next turn is the word that the compactors there have applied them (R264, Log 112). -/
def compact (s : State) (tract id : Nat) : State :=
  match s.mark? id with
  | none => s
  | some m =>
    if !m.stands || m.gone || s.lowerLeft m tract then s
    else
      let mine := fun (r : Rec) => if r.pkg = 0 then s.tractOf (16 * r.gran) == tract else m.core / 40 == tract
      let heard := if m.core / 40 = tract && (s.markLeft m).isEmpty then s.modMark id (fun k => { k with away := [] }) else s
      (compactList heard (((s.markLeft m).filter mine).map (fun r => r.wid))).retireMarks

/-- The published records of a core are applied, those that can be (R276, retirement). -/
def compactCore (s : State) (core : Nat) : State :=
  (compactList s ((s.pend.filter (fun p => p.core == core && p.r.stamp.isSome)).map (fun p => p.r.wid))).retireMarks

/-- An implicit publication of a core's logs (R261): its mark, which stands at once unless its scope is SYSTEM (R381). None where it must wait for a
stamp or for room in a table. -/
def publish (s : State) (core : Nat) (m : MarkPlan) (cmd : Nat) (more : List Nat) : Option (Mark × State) :=
  if !s.canMark m.scope core then none
  else
    let r := s.takeMark core m cmd more
    some (r.1, if m.scope = 6 then r.2 else r.2.standMark r.1.id)

end Sys2Proof.Machine
end

