-- ==== Sys2Proof/Machine/Landfall.lean ====
section
/-!
DEFINITION. Landfall at the receiver (R209 to R215, R299, R300), and the answers that reach the sender (R201).
-/
namespace Sys2Proof.Machine

/-- A sender may not reach a secure zone: it is not secure itself (R363). A peer package's sender counts as not secure. -/
def State.zoneForbidden (s : State) (pkg coreId zoneVi : Nat) : Bool :=
  (s.vi zoneVi).secure && !(pkg == s.fabric.pkgid && (match (coreLinear coreId).bind s.coreVi with
    | some v => (s.vi v).secure
    | none => false))

/-- The field-book record of such an attempt (Table 17.4 class 6): its target is the zone's base, or the place of a send in its plot (Log 101). -/
def State.noteLand (s : State) (core coreId addr zoneVi : Nat) : State :=
  s.fb { cls := 6, code := 6, addr := addr, detail := (coreLinear coreId).getD 0, vi := some zoneVi, core := some core }

/-- The lowest free plot of a zone. -/
def Zone.firstFree (z : Zone) : Option Nat := (List.range (z.plotsm1 + 1)).find? (fun p => (z.plot p).st == .free)

/-- A reservation is judged (R211). -/
def judgeResv (s : State) (sPkg sCore tag coreId zone expect : Nat) : State :=
  let nozone := s.answer sPkg sCore tag (landAns 0x12 0 0 0)
  match coreLinear coreId with
  | none => nozone
  | some c =>
    let z := (s.core c).zone zone
    if !s.zoneOpen z then nozone
    else if s.zoneForbidden sPkg sCore z.vi then (s.noteLand c sCore z.base z.vi).answer sPkg sCore tag (landAns 0x15 6 0 0)
    else if expect % 16 ≠ 0 ∨ expect < 16 ∨ z.plotSize < expect then s.answer sPkg sCore tag (landAns 0x15 7 0 0)
    else
      match z.firstFree with
      | none => s.answer sPkg sCore tag (landAns 0x11 0 0 0)
      | some p =>
        let t := s.modPlot c zone p (fun q =>
          { q with st := .reserved, ownPkg := sPkg, ownCore := sCore, expect := expect, arrived := 0, since := s.cycle })
        t.answer sPkg sCore tag (landAns 0x10 0 (landAux p (z.plot p).gen + z.psz % 8 * 2 ^ 32) 0)

/-- A send is judged (R212): refused with its reason, or accepted. A clear that waits takes effect after it too (R300). -/
def judgeSend (s : State) (sPkg sCore tag coreId zone plot gen offset : Nat) (data : List Byte) : State :=
  let rej := fun (t : State) (r : Nat) => t.answer sPkg sCore tag (landAns 0x15 r 0 0)
  match coreLinear coreId with
  | none => rej s 6
  | some c =>
    let z := (s.core c).zone zone
    let n := data.length
    let flying := ((s.core c).sends.filter (fun x => x.zone == zone && x.plot == plot)).foldl (fun acc x => acc + x.data.length) 0
    if s.zoneForbidden sPkg sCore z.vi && s.zoneOpen z then rej (s.noteLand c sCore (z.base + plot * z.plotSize + offset) z.vi) 6
    else
      match plotReason s z sPkg sCore plot gen with
      | some r => rej s r
      | none =>
        if z.plotSize < offset + n then rej s 3
        else if (z.plot plot).expect < (z.plot plot).arrived + flying + n then rej s 4
        else
          let x : SendIn := { id := s.nextId, sPkg := sPkg, sCore := sCore, tag := tag, zone := zone, plot := plot, offset := offset, data := data }
          { s with nextId := s.nextId + 1 }.modCore c (fun k =>
            { k with
              sends := k.sends ++ [x]
              clears := k.clears.map (fun (r : ClearReq) => if r.op.covers x then { r with sends := r.sends ++ [x.id] } else r) })

/-- A plot lands (R213): its barrier's credit, then the record. -/
def landPlot (s : State) (c zone plot : Nat) : State :=
  let z := (s.core c).zone zone
  let q := z.plot plot
  let t := s.modPlot c zone plot (fun x => { x with st := .landed })
  match z.granted with
  | none => t
  | some p =>
    let t0 := if z.baren then t.creditBar p (z.barix * 16 + 16 * plot) false q.expect else t
    t0.pushRecord p none { aux := landAux plot q.gen, tag := 0, bytes := q.expect, op := 0xFF, unit := zone, fault := 0, status := 0x20 }

/-- Every byte of an accepted send is written (R212): ARRIVED rises, the plot may land, and the sender's answer goes. DESIGN CHOICE (Log 104): all bytes
of a send are written in this one step, so a plot that is RESERVED or TORN holds the earlier value in each byte of a send that is not complete;
R213 and R215 allow there an earlier value or a byte sent. -/
def finishSend (s : State) (c : Nat) (x : SendIn) : State :=
  let z := (s.core c).zone x.zone
  let t := s.modCore c (fun k => { k with sends := k.sends.filter (fun y => y.id != x.id) })
  let t1 := match z.granted.bind s.party? with
    | some p => t.spadWrite p (z.base + x.plot * z.plotSize + x.offset) x.data
    | none => t
  let t2 := (t1.modPlot c x.zone x.plot (fun q => { q with arrived := q.arrived + x.data.length, since := s.cycle })).tally (c / 40) 13
    x.data.length (if x.sPkg = s.fabric.pkgid then coreLinear x.sCore else none)
  let q := ((t2.core c).zone x.zone).plot x.plot
  let full := q.st == .reserved && q.arrived == q.expect
  let t3 := if full then landPlot t2 c x.zone x.plot else t2
  t3.answer x.sPkg x.sCore x.tag (landAns 0x14 0 (if full then 2 else 1) x.data.length)

/-- Of two reservations of one cycle, the first is judged before the second: package, then core identifier (R299). -/
def resvBefore (a b : LandMsg) : Bool :=
  match a, b with
  | .resv p c _ _ _ _, .resv q d _ _ _ _ => decide (p < q) || (p == q && decide (c < d))
  | _, _ => false

/-- Inserts a reservation in that order, after its equals. -/
def insertResv (m : LandMsg) : List LandMsg → List LandMsg
  | [] => [m]
  | x :: t => if resvBefore m x then m :: x :: t else x :: insertResv m t

/-- A landfall message arrives at a core of this package; a reservation is judged at the end of the cycle (R299). -/
def receiveLand (s : State) (m : LandMsg) : State :=
  match m with
  | .resv _ _ _ _ _ _ => { s with resvs := insertResv m s.resvs }
  | .send sPkg sCore tag core zone plot gen offset data => judgeSend s sPkg sCore tag core zone plot gen offset data
  | .clr sPkg sCore tag core zone plot gen =>
    match coreLinear core with
    | none => s.answer sPkg sCore tag (landAns 0x15 6 0 0)
    | some c => startClear s c (.remoteClr zone plot gen sPkg sCore tag)

/-- The reservations that arrived in a cycle are judged (R299). -/
def judgeResvs (s : State) : State :=
  s.resvs.foldl (fun t m => match m with
    | .resv sPkg sCore tag core zone expect => judgeResv t sPkg sCore tag core zone expect
    | .send _ _ _ _ _ _ _ _ _ => t
    | .clr _ _ _ _ _ _ _ => t) { s with resvs := [] }

end Sys2Proof.Machine
end

