-- ==== Sys2Proof/Machine/Checks.lean ====
section
/-!
DEFINITION. What stands before a bundle is performed: the decode checks that look at a wave or at several moves (R25, R30, R34,
R99, R108, R141, R222, R229, R234), the stalls (R14, R27, R310, R311, R322), and the checks of R37. A bundle is the list of its
moves in State.ib; the wave is the acting one as it stands before the bundle.
-/
namespace Sys2Proof.Machine

/-! Kinds of moves. -/

/-- A control transfer (R30). -/
def isTransfer : Instr → Bool
  | .ctBra _ | .ctBany _ | .ctBall _ | .ctBnone _ | .ctBscal _ _ _ | .ctCall _ | .ctRet _ | .ctBtab _ _ => true
  | _ => false

/-- The guard and source of a move that reads its source: a move to the null sink reads nothing, but for the entry it pops (R85). -/
def readMove (i : Instr) : Option Mv :=
  match i with
  | .nullSinkMove _ => none
  | i => moveOf i

/-- What may not stand in a delay slot (R30, R234, R236, R238, R246). -/
def bannedInDelay : Instr → Bool
  | .ctLoop _ | .ctSeg _ | .ctPhase _ | .syRett _ => true
  | i => isTransfer i

/-- The address register a move writes. -/
def writesA : Instr → Option Nat
  | .registerMove _ (.a n) _ => some n
  | _ => none

/-- The address register a memory trigger post-increments (R141). -/
def postInc (i : Instr) : Option Nat :=
  let pi := match i with
    | .ldLdg _ _ _ p | .ldLds _ _ _ p | .ldLdl _ _ _ p | .ldLdb _ _ _ p | .ldLdsc _ _ _ p | .ldLdnt _ _ _ p => p
    | .stStg _ _ p | .stSts _ _ p | .stStsc _ _ p | .stStnt _ _ p => p
    | _ => false
  match pi, (moveOf i).map (fun m => m.src) with
  | true, some (.a n) => some n
  | _, _ => none

/-- A move writes LC, EC, RRB or one of g8 to g15 (R234). -/
def writesLoop : Instr → Bool
  | .registerMove _ (.g n) _ => decide (8 ≤ n)
  | .registerMove _ (.spec .lc) _ | .registerMove _ (.spec .ec) _ | .registerMove _ (.spec .rrb) _ => true
  | _ => false

/-- The bundle cannot hold both moves (R141, R222, R229, R234). -/
def conflict (i j : Instr) : Bool :=
  let ab := fun (x y : Instr) =>
    (match postInc x with
      | some n => postInc y == some n || writesA y == some n
      | none => false) ||
    (match x with
      | .ctCall _ => writesA y == some 15 || postInc y == some 15
      | .ctLoop _ => writesLoop y
      | _ => false)
  (unitOf i == some .ct && unitOf j == some .ct) || (unitOf i == some .sy && unitOf j == some .sy) || ab i j || ab j i

/-- An address update of register r conflicts with a move (R99, R229). -/
def updateConflict (r : Nat) (i : Instr) : Bool :=
  writesA i == some r || postInc i == some r || (match i with
    | .ctCall _ => r == 15
    | _ => false)

/-- The highest lane register a move names. -/
def namesV (i : Instr) : List Nat :=
  (match (moveOf i).map (fun m => m.src) with
    | some (.v n) => [n]
    | _ => []) ++
  (match i with
    | .registerMove _ (.v n) _ => [n]
    | _ => [])

/-- The bundle of the wave's PC stands in a delay slot. -/
def Wave.inDelay (w : Wave) : Bool :=
  w.xfer.isSome || (match w.table with
    | some t => t.left != 0
    | none => false)

/-- The decode checks of the move in slot k that look past its own bits (R108): cause, if it fails one. v64 to v95 exist only in a wave whose
allocation is 96 (R34). -/
def slotCheck (w : Wave) (moves : List (Option Instr)) (k : Nat) (i : Instr) : Option Nat :=
  if !i.wf || (w.inDelay && bannedInDelay i) || (moves.take k).any (fun j => match j with
      | some j => conflict j i
      | none => false) then some causeIllegal
  else if (namesV i).any (fun n => decide (w.alloc ≤ n) || (decide (64 ≤ n) && w.alloc != 96)) then some causeReg
  else none

/-! Operands of the bundle's triggers, before it is performed. -/

/-- The wave with the operand latches as step 2 of R18 leaves them. -/
def midWave (s : State) (w : Wave) : Wave :=
  (enum s.ib.moves).foldl (fun v e =>
    match e.2 with
    | some (.operandPortWrite m u p fill) => writePort w m u p fill.toNat (srcVal { s with slot := e.1 } w m) v
    | _ => v) w

/-- Operands of a lane trigger: lanes, A, B, C. -/
structure Opnds where
  mask : BitVec 64
  a : List Lane
  b : List Lane
  c : List Lane
  deriving DecidableEq, Repr

/-- The operands of the trigger of a unit in slot k (R18, R26, R28). -/
def opndsAt (s : State) (w mid : Wave) (k : Nat) (u : PortUnit) (m : Mv) : Opnds :=
  let t := { s with slot := k }
  let l := mid.io.latch u
  { mask := trigMask t w u m, a := (srcVal t w m).all w.phys, b := l.b, c := l.c }

/-- The lowest lane a trigger starts in. -/
def Opnds.lane (o : Opnds) : Nat := (lowest o.mask).getD 0

/-- The operands of the matrix submissions of a trigger: one for each hardware wave of a 64-lane group, lanes 0 to 31 first (R45). -/
def Opnds.submissions (o : Opnds) : List Opnds := (waveMasks o.mask).map (fun m => { o with mask := m })

/-- The value a wave-scalar trigger takes, if it takes effect (R221, R223). -/
def scalarOp (s : State) (w : Wave) (k : Nat) (m : Mv) : Option Word :=
  if w.guardAny m then (srcVal { s with slot := k } w m).word w m else none

/-- The operand of BANY, BALL, BNONE and MASKG, whose guard is no condition on the move (R22, R221); a lane source without an active lane gives
none, and the operation then has no effect (R223). -/
def laneOperand (s : State) (w : Wave) (m : Mv) : Option Word :=
  match srcVal s w m with
  | .imm x => some x
  | .scalar x => some x
  | .lanes l => (lowest (w.active m)).map (fun L => (laneAt l L).truncate 64)

/-- The configuration in force for an MX trigger in slot k: the engine's, after every CFG queued and in lower slots (R36). -/
def mxConfigAt (s : State) (w mid : Wave) (k : Nat) : ETy × ETy :=
  let e := (s.core w.core).mx
  let q := ((s.core w.core).mxq).foldl (fun acc c => match c.op with
    | .mxCfg => (mxConfig (laneAt c.a ((lowest c.mask).getD 0))).getD acc
    | _ => acc) (e.atype, e.btype)
  (enum (s.ib.moves.take k)).foldl (fun acc x => match x.2 with
    | some (.mxCfg m) =>
      (opndsAt s w mid x.1 .mx m).submissions.foldl (fun g o => if o.mask = 0 then g else (mxConfig (laneAt o.a o.lane)).getD g) acc
    | _ => acc) q

/-- A BINIT's effect on a directory. -/
def dirAfter (p : Party) (dir : List Nat) (a b : Lane) : List Nat :=
  match p.spad (baAddr a) with
  | none => dir
  | some x =>
    if bits b.toNat 15 0 = 0 ∧ bits b.toNat 63 32 = 0 then dir.filter (· != x) else if dir.contains x then dir else x :: dir

/-- The barrier directory a trigger in slot k meets: as every earlier BA trigger of the wave leaves it (R168). -/
def dirAt (s : State) (w mid : Wave) (p : Party) (k : Nat) : List Nat :=
  let q := w.cmds.foldl (fun d c => match c.op with
    | .ba .binit _ => let L := (lowest c.mask).getD 0
      dirAfter p d (laneAt c.a L) (laneAt c.b L)
    | _ => d) (s.core w.core).bars
  (enum (s.ib.moves.take k)).foldl (fun d x => match x.2 with
    | some (.baBinit m) =>
      let o := opndsAt s w mid x.1 .ba m
      if o.mask = 0 then d else dirAfter p d (laneAt o.a o.lane) (laneAt o.b o.lane)
    | _ => d) q

/-- A barrier is live in a directory at a party's address. -/
def liveIn (p : Party) (dir : List Nat) (a : Nat) : Bool :=
  a % 16 == 0 && (match p.spad a with
    | some x => dir.contains x
    | none => false)

/-! Memory triggers (R37, R143). -/

/-- What a check of one access answers: the target it may go to, a translation miss, or a trap. -/
inductive Chk
  | ok (t : Lane)
  | miss (lane va : Nat)
  | bad (b : Nat × Nat × Nat)
  deriving DecidableEq, Repr

/-- The worlds forbid a compute core's access to a physical address, or to a legend's window (R361 to R363). -/
def State.worldBlocks (s : State) (l : Launch) (pa pkg : Nat) : Bool :=
  !(s.vi l.vi).secure && pkg == 0 &&
    (if isAperture pa then (match s.legendAt pa with
      | some n => s.secureLegend n
      | none => false) else s.securePa pa)

/-- One global access (R143, R368, R377): canonical address, translation, compute view, permission (R278, R284 and R287 too), poison. -/
def globalTarget (s : State) (core : Nat) (l : Launch) (k : AccKind) (view : Bool) (lane ea : Nat) : Chk :=
  if !canonical ea then .bad (causeXlate, lane, ea)
  else
    match s.tlbLookup core l (ea / 4096) with
    | none => .miss lane ea
    | some e =>
      let pa := e.ppage * 4096 + ea % 4096
      let inWin := e.pkgsel == 0 && (s.legendAt pa).isSome
      if (if view then !inWin else e.pkgsel == 0 && isAperture pa) then .bad (causeLegend, lane, ea)
      else if !s.allowed l e k then .bad (causePerm, lane, ea)
      else if e.pkgsel == 0 && isHbm pa && s.poisoned pa then .bad (causePoison, lane, ea)
      else .ok (target pa e.pkgsel (s.worldBlocks l pa e.pkgsel))

/-- One lane's access of n bytes. -/
def laneTarget (s : State) (w : Wave) (l : Launch) (p : Party) (k : AccKind) (spad view : Bool) (n lane ea : Nat) : Chk :=
  if ea % n ≠ 0 then .bad (causeAlign, lane, ea)
  else if spad then (if p.spadOk ea n then .ok (target ea 0 false) else .bad (causeSpad, lane, ea))
  else globalTarget s w.core l k view lane ea

/-- The effective address of a lane (R140). -/
def effAddr (o : Opnds) (L : Nat) : Nat := (bits (laneAt o.a L).toNat 63 0 + bits (laneAt o.b L).toNat 63 0) % 2 ^ 64

/-- The first answer of a list that is not a target. -/
def firstChk : List Chk → Option Chk
  | [] => none
  | .ok _ :: t => firstChk t
  | c :: _ => some c

/-- The lanes of a load or store with their answers. -/
def memLanes (s : State) (w : Wave) (l : Launch) (p : Party) (k : AccKind) (spad view once : Bool) (n : Nat) (o : Opnds) : List Chk :=
  (if once then (lanesOf o.mask).take 1 else lanesOf o.mask).map (fun L => laneTarget s w l p k spad view n L (effAddr o L))

/-- One lane of a store: its access, and for STS that it lies in no live barrier (R143, R151). -/
def stTarget (s : State) (w : Wave) (l : Launch) (p : Party) (spad : Bool) (dir : List Nat) (n lane ea : Nat) : Chk :=
  match laneTarget s w l p .write spad false n lane ea with
  | .ok t => if spad && liveIn p dir (ea / 16 * 16) then .bad (causeBa, lane, ea) else .ok t
  | c => c

/-- A trap as an answer. -/
def Chk.ofBad (b : Bad) : Option Chk := b.map Chk.bad

/-- The CSR number is readable or writable by an operation (R247, Table 7.4). -/
def csrOk (hmode write : Bool) (a : Word) : Bool :=
  let n := a.toNat
  let h := n == 0x002 || (decide (0x010 ≤ n) && decide (n ≤ 0x01B))
  let ro := n == 0x000 || n == 0x001 || n == 0x021 || n == 0x022 || n == 0x023 || n == 0x024 || n == 0x030
  (h && hmode) || n == 0x020 || (ro && !write)

/-- The indices a BTAB selects (R231): the lanes with EXM set. -/
def btabIndex (s : State) (w : Wave) (k : Nat) (m : Mv) : List (Nat × Nat) :=
  let v := srcVal { s with slot := k } w m
  (lanesOf w.exm).map (fun L => (L, bits (v.lane L).toNat 31 0))

/-- The mask checks of an XS, MMQ or MMW trigger (R25). -/
def bracketBad (w : Wave) (m : Mv) : Bad := bad? (w.active m != 0 && !w.bracket && w.exm != w.allLanes) causeBracket 0 0

/-- A popped entry is marked (R148). DESIGN CHOICE (Log 99): the trap of a pop names lane 0 and address 0; the spec gives neither. -/
def popBad (s : State) (w : Wave) (k : Nat) (m : Mv) : Bad :=
  match popUnit w m with
  | none => none
  | some u =>
    match popEntry { s with slot := k } w u with
    | none => none
    | some e => match e.st with
      | .failed => some (causeRemote, 0, 0)
      | .poisoned => some (causePoison, 0, 0)
      | .pending | .ready => none

/-- The check of a lane trigger, made when it starts in some lane. -/
def whenActive (o : Opnds) (b : Bad) : Option Chk := if o.mask = 0 then none else Chk.ofBad b

/-- MX checks (R181, R182), on the operands of each submission (R45). -/
def mxChk (s : State) (w mid : Wave) (p : Party) (k : Nat) (m : Mv) (f : ETy × ETy → Opnds → Bad) : Option Chk :=
  let o := opndsAt s w mid k .mx m
  whenActive o (firstBad (bad? (!p.matrix) causeMxRights 0 0 :: o.submissions.map (f (mxConfigAt s w mid k))))

/-- SX checks (R12). -/
def sxChk (s : State) (w mid : Wave) (k : Nat) (m : Mv) (f : Opnds → Bad) : Option Chk :=
  let o := opndsAt s w mid k .sx m
  whenActive o (firstBad [bad? (w.num != 0) causeSxRights 0 0, f o])

/-- BA checks on a live barrier (R168, R170, R172). DESIGN CHOICE (Log 126): an address outside the party's banks raises BA_OPERAND too, since it names no
live barrier; Table 5.1 would also let it raise SPAD_RANGE, and no order of the two is given. -/
def liveChk (s : State) (w mid : Wave) (p : Party) (k : Nat) (m : Mv) : Option Chk :=
  let o := opndsAt s w mid k .ba m
  let a := baAddr (laneAt o.a o.lane)
  whenActive o (bad? (!liveIn p (dirAt s w mid p k) a) causeBa o.lane a)

/-- BA checks on a buffer (R174). -/
def cbChk (s : State) (w mid : Wave) (p : Party) (k : Nat) (m : Mv) (cb : BitVec 4) : Option Chk :=
  let o := opndsAt s w mid k .ba m
  whenActive o (bad? (!p.cbGrant.contains cb.toNat) causeCb o.lane 0)

/-- The checks of R37 for the move in slot k that are no decode checks; none where it passes. DESIGN CHOICE (Log 105): a MASKG with a lane source and no
active lane has no effect (R223), so it raises nothing inside a bracket either, although R25 has a MASKG raise MASK_BRACKET there whatever its guard. -/
def moveCheck (s : State) (w mid : Wave) (l : Launch) (p : Party) (k : Nat) (i : Instr) : Option Chk :=
  let ldChk := fun (m : Mv) (sz : Sz) (spad view once : Bool) =>
    firstChk (memLanes s w l p .read spad view once (szBytes sz) (opndsAt s w mid k .ld m))
  let stChk := fun (m : Mv) (sz : Sz) (spad : Bool) =>
    let o := opndsAt s w mid k .st m
    let dir := if spad then dirAt s w mid p k else []
    firstChk ((lanesOf o.mask).map (fun L => stTarget s w l p spad dir (szBytes sz) L (effAddr o L)))
  let atChk := fun (m : Mv) (aw : AtW) =>
    firstChk (memLanes s w l p .atomic false false false (atBytes aw) (opndsAt s w mid k .atm m))
  let csrChk := fun (m : Mv) (write : Bool) => match scalarOp s w k m with
    | some a => Chk.ofBad (bad? (!csrOk w.hmode write a) causeCsr 0 0)
    | none => none
  let own := match i with
    | .xsShfl m _ | .xsShflup m _ | .xsShfldn m _ | .xsShflx m _ | .xsBcast m _ | .xsVoteany m _ | .xsVoteall m _ | .xsBallot m _
    | .xsRedadd m _ | .xsRedmax m _ | .xsRedmin m _ | .xsScanadd m _ | .xsMatch m _ => Chk.ofBad (bracketBad w m)
    | .ldLdg m sz _ _ | .ldLdsc m sz _ _ | .ldLdnt m sz _ _ => ldChk m sz false false false
    | .ldLds m sz _ _ => ldChk m sz true false false
    | .ldLdl m sz _ _ => ldChk m sz false true false
    | .ldLdb m sz _ _ => ldChk m sz false false true
    | .stStg m sz _ | .stStsc m sz _ | .stStnt m sz _ => stChk m sz false
    | .stSts m sz _ => stChk m sz true
    | .atAdd m aw _ _ | .atSub m aw _ _ | .atMin m aw _ _ | .atMax m aw _ _ | .atMinu m aw _ _ | .atMaxu m aw _ _ | .atAnd m aw _ _
    | .atOr m aw _ _ | .atXor m aw _ _ | .atXchg m aw _ _ | .atCas m aw _ _ | .atInc m aw _ _ | .atFadd m aw _ _ => atChk m aw
    | .lgAcqn m _ =>
      let o := opndsAt s w mid k .lg m
      let a := baAddr (laneAt o.a o.lane)
      whenActive o (firstBad [bad? (a % 16 != 0) causeAlign o.lane a, spadBad p o.lane [(a, 80)]])
    | .baBinit m =>
      let o := opndsAt s w mid k .ba m
      whenActive o (binitBad p (dirAt s w mid p k) o.lane (laneAt o.a o.lane) (laneAt o.b o.lane))
    | .baArrive m | .baWait m | .baTest m => liveChk s w mid p k m
    | .baCbinit m cb =>
      let o := opndsAt s w mid k .ba m
      whenActive o (cbinitBad p cb.toNat o.lane (laneAt o.a o.lane) (laneAt o.b o.lane))
    | .baCbresv m cb | .baCbfill m cb | .baCbtake m cb | .baCbfree m cb => cbChk s w mid p k m cb
    | .mxCfg m => mxChk s w mid p k m (fun _ o => bad? (mxConfig (laneAt o.a o.lane)).isNone causeMx o.lane 0)
    | .mxLdb m _ => mxChk s w mid p k m (fun g o => ldbBad p g.2 o.lane (laneAt o.a o.lane) (laneAt o.b o.lane))
    | .mxMmq m _ _ =>
      match bracketBad w m with
      | some b => some (.bad b)
      | none => mxChk s w mid p k m (fun g o => mmBad p g.1 false o.mask o.a o.b o.c)
    | .mxMmw m _ _ =>
      match bracketBad w m with
      | some b => some (.bad b)
      | none => mxChk s w mid p k m (fun g o => mmBad p g.1 true o.mask o.a o.b o.c)
    | .mxZacc m _ => mxChk s w mid p k m (fun _ _ => none)
    | .mxStacc m _ => mxChk s w mid p k m (fun _ o => staccBad p o.mask o.a o.b)
    | .mxRdacc m _ => mxChk s w mid p k m (fun _ o => bad? ((laneAt o.b o.lane).toNat >>> 4 != 0) causeMx o.lane 0)
    | .mxKat m => mxChk s w mid p k m (fun _ o => bad? ((laneAt o.b o.lane).toNat >>> 5 != 0) causeMx o.lane 0)
    | .gaGidx m =>
      let o := opndsAt s w mid k .ga m
      whenActive o (gidxBad p o.mask o.a (laneAt o.b o.lane) (laneAt o.c o.lane) o.lane)
    | .gaGrows m =>
      let o := opndsAt s w mid k .ga m
      whenActive o (growsBad p o.mask o.a (laneAt o.b o.lane) (laneAt o.c o.lane) o.lane)
    | .sxCopy2d m => sxChk s w mid k m (fun o => copyBad p false (fun _ => true) o.lane (laneAt o.a o.lane) (laneAt o.b o.lane)
        (laneAt o.c o.lane))
    | .sxCopy2dw m => sxChk s w mid k m (fun o => copyBad p true (liveIn p (dirAt s w mid p k)) o.lane (laneAt o.a o.lane)
        (laneAt o.b o.lane) (laneAt o.c o.lane))
    | .sxLoopcopy m cb => sxChk s w mid k m (fun o => loopcopyBad p cb.toNat ((s.core w.core).cb cb.toNat) o.lane (laneAt o.a o.lane)
        (laneAt o.b o.lane) (laneAt o.c o.lane))
    | .sxStop m => sxChk s w mid k m (fun o => bad? ((laneAt o.b o.lane).toNat >>> 5 != 0) causeSx o.lane 0)
    | .sxLandresv m _ => sxChk s w mid k m (fun o => landresvBad o.lane (laneAt o.a o.lane) (laneAt o.b o.lane))
    | .sxLandsend m _ => sxChk s w mid k m (fun o => landsendBad p o.lane (laneAt o.a o.lane) (laneAt o.b o.lane) (laneAt o.c o.lane))
    | .sxLandclr m z => sxChk s w mid k m (fun o => landclrBad p z.toNat o.lane (laneAt o.b o.lane))
    | .sxZoneinit m z => sxChk s w mid k m (fun o => zoneinitBad p z.toNat o.lane (laneAt o.a o.lane) (laneAt o.b o.lane))
    | .sxWaitc m => sxChk s w mid k m (fun o => bad? ((laneAt o.b o.lane).toNat >>> 1 != 0) causeSx o.lane 0)
    | .ctBtab m _ => Chk.ofBad (bad? (w.table.isSome || (btabIndex s w k m).any (fun x =>
        decide ((tableTargets s.ib.table).length ≤ x.2))) causeTable 0 0)
    | .ctAllon m => Chk.ofBad (bad? ((scalarOp s w k m).isSome && w.bracket) causeBracket 0 0)
    | .ctAlloff m => Chk.ofBad (bad? ((scalarOp s w k m).isSome && !w.bracket) causeBracket 0 0)
    | .ctMaskg m => Chk.ofBad (bad? ((laneOperand { s with slot := k } w m).isSome && w.bracket) causeBracket 0 0)
    | .ctMasks m => Chk.ofBad (bad? ((scalarOp s w k m).isSome && w.bracket) causeBracket 0 0)
    | .ctPhase m => Chk.ofBad (if (scalarOp s w k m).isSome then
        firstBad [bad? w.bracket causeBracket 0 0, bad? w.table.isSome causeTable 0 0] else none)
    | .syRett m => Chk.ofBad (bad? ((scalarOp s w k m).isSome && !w.hmode) causePriv 0 0)
    | .syCsrr m => csrChk m false
    | .syCsrw m | .syCsrs m | .syCsrc m => csrChk m true
    | .syLaunch m => match scalarOp s w k m with
      | some a => Chk.ofBad (firstBad [bad? (a.toNat % 128 != 0) causeSpad 0 a.toNat, spadBad p 0 [(a.toNat, 128)]])
      | none => none
    | _ => none
  match (moveOf i).bind (popBad s w k) with
  | some b => some (.bad b)
  | none => own

/-! Stalls. -/

/-- The queued command a move pushes, by its shape alone: the unit and whether it reserves an entry (R27). -/
def pushShape (i : Instr) : Option (PortUnit × Bool) :=
  match unitOf i with
  | none => none
  | some u =>
    if isQueued u then
      some (u, match i with
        | .stStg _ _ _ | .stSts _ _ _ | .stStsc _ _ _ | .stStnt _ _ _ => false
        | .baBinit _ | .baArrive _ | .baCbinit _ _ | .baCbfill _ _ | .baCbfree _ _ => false
        | .mxCfg _ | .mxLdb _ _ | .mxMmq _ _ _ | .mxMmw _ _ _ | .mxZacc _ _ | .mxStacc _ _ => false
        | .sxCopy2d _ | .sxCopy2dw _ | .sxLoopcopy _ _ | .sxStop _ | .sxLandresv _ _ | .sxLandsend _ _ | .sxLandclr _ _
        | .sxZoneinit _ _ => false
        | _ => true)
    else none

/-- Commands already in the queue of a unit (R27, R178). -/
def queueLen (s : State) (w : Wave) (u : PortUnit) : Nat :=
  match u with
  | .mx => (s.core w.core).mxq.length
  | .ga => (s.core w.core).gaq.length
  | .sf => (s.core w.core).sfq.length
  | .sx => match s.party? w.party with
    | some p => p.sxq.length + p.sxWait.length + p.heldCmds
    | none => 0
  | _ => (w.cmds.filter (fun c => c.op.unit == u)).length

/-- Depth of a queue (R27, R178). -/
def queueDepth (u : PortUnit) : Nat :=
  match u with
  | .mx | .sf => 32
  | _ => 16

/-- Places of a queue that a command takes: two for a matrix command of both hardware waves of a group (R45). -/
def placesOf (u : PortUnit) (mask : BitVec 64) : Nat := if u == .mx && mask &&& lanesBelow 32 != 0 && mask &&& ~~~ lanesBelow 32 != 0 then 2 else 1

/-- The pushes of the bundle to a unit: how many places and how many entries they take (R28). -/
def pushesTo (s : State) (w : Wave) (u : PortUnit) : Nat × Nat :=
  (enum s.ib.moves).foldl (fun acc e =>
    match e.2 with
    | none => acc
    | some i =>
      match pushShape i, moveOf i with
      | some (u', ent), some m =>
        let mask := trigMask { s with slot := e.1 } w u m
        if u' == u && mask != 0 then (acc.1 + placesOf u mask, acc.2 + ent.toNat) else acc
      | _, _ => acc) (0, 0)

/-- The queued units. -/
def queuedUnits : List PortUnit := [.ld, .st, .atm, .lg, .ba, .mx, .ga, .sx, .sf]

/-- A unit stalls the bundle: it lacks a popped entry, or room for the bundle's commands and entries (R27). The places its own
pops free count as room (R18). -/
def unitStalls (s : State) (w : Wave) (u : PortUnit) : Bool :=
  let q := w.io.queue u
  let pops := popsBelow s w u s.ib.moves.length
  let push := pushesTo s w u
  (q.take pops).length != pops || (q.take pops).any (fun e => e.st == .pending) ||
    (push.1 != 0 && (decide (queueDepth u < queueLen s w u + push.1) || decide (Config.resultPlaces < q.length - pops + push.2)))

/-- Partners of a wave that an RDV names and that are in recovery (R237). -/
def State.partnersRecover (s : State) (w : Wave) (key mask : Nat) : Bool :=
  (s.partyWaves w.party).any (fun e => e.1 != key && mask.testBit e.2.num && e.2.recovering && !e.2.exited)

/-- The hold of an SY operation of an earlier bundle still stands (R237, R241, R252, R253). -/
def syHolds (s : State) (w : Wave) (key : Nat) : Bool :=
  let evc := match s.party? w.party with
    | some p => p.evc
    | none => 0
  match w.hold with
  | .none => false
  | .sleep t e timed => !((timed && decide (t ≤ s.cycle)) || (match e with
      | some x => x != evc
      | none => false))
  | .qfence mask upTo =>
    let mine := fun (c : Cmd) => c.wave == key && decide (c.id < upTo)
    let names := fun (c : Cmd) => mask.testBit (c.op.unit.code - PortUnit.ld.code)
    let k := s.core w.core
    let sx := match s.party? w.party with
      | some p => p.sxq ++ p.sxWait
      | none => []
    (w.cmds ++ k.mxq ++ k.gaq ++ k.sfq ++ sx).any (fun c => mine c && names c)
  | .rdv mask => s.partnersRecover w key mask
  | .launch _ _ _ _ _ _ => true

/-- The hold of a CT.WAITE still stands (R241). -/
def evcHolds (s : State) (w : Wave) : Bool :=
  match w.evcHold, s.party? w.party with
  | some e, some p => e == p.evc
  | some e, none => e == 0
  | none, _ => false

/-- An SC operation of the wave, its predecessors performed, waits for its compass position (R14, R153). -/
def scWaits (w : Wave) : Bool :=
  !w.trails && w.cmds.any (fun c => c.isSc && ((c.st == .queued && w.canPerform c) || c.st.stage.1 == 6))

/-- A hold set by an earlier bundle still stands (R14, R153, R237, R241, R252, R253). -/
def holdStands (s : State) (w : Wave) (key : Nat) : Bool := syHolds s w key || evcHolds s w || scWaits w

/-- Holds that have ended are over: what they waited for may come about again without holding the wave a second time. -/
def Wave.letGo (s : State) (key : Nat) (w : Wave) : Wave :=
  { w with
    hold := if syHolds s w key then w.hold else .none
    evcHold := if evcHolds s w then w.evcHold else none }

/-- A trigger escapes the core (R309); taken when its guard condition holds. -/
def escapes (s : State) (w mid : Wave) (k : Nat) (i : Instr) : Bool :=
  let lane := fun (u : PortUnit) (m : Mv) => trigMask { s with slot := k } w u m != 0
  match i with
  | .lgPub m sc => lane .lg m && decide (2 ≤ sc.code)
  | .lgDrain m => lane .lg m
  | .atAdd m _ _ _ | .atSub m _ _ _ | .atMin m _ _ _ | .atMax m _ _ _ | .atMinu m _ _ _ | .atMaxu m _ _ _ | .atAnd m _ _ _
  | .atOr m _ _ _ | .atXor m _ _ _ | .atXchg m _ _ _ | .atCas m _ _ _ | .atInc m _ _ _ | .atFadd m _ _ _ => lane .atm m
  | .stStsc m _ _ => lane .st m
  | .sxCopy2d m | .sxCopy2dw m =>
    lane .sx m && !(let o := opndsAt s w mid k .sx m
      (laneAt o.c o.lane).getLsbD 119)
  | .sxLandresv m _ | .sxLandsend m _ | .sxLandclr m _ | .sxZoneinit m _ => lane .sx m
  | .syLaunch m | .ctPhase m | .ctExit m => (scalarOp s w k m).isSome
  | _ => false

/-- The bundle is a closing bundle (R309). -/
def closing (s : State) (w mid : Wave) : Bool :=
  (enum s.ib.moves).any (fun e => match e.2 with
    | some i => escapes s w mid e.1 i
    | none => false)

/-- Fold of operand a of the active lanes, each reduced to 64 bits (R321). -/
def operandFold (mask : BitVec 64) (a : List Lane) : Word :=
  (lanesOf mask).foldl (fun sig L => fold sig ((laneAt a L).truncate 64 ^^^ (laneAt a L >>> 64).truncate 64)) 0

/-- The Fold of operand a of an escaping trigger (R321). -/
def escapeFold (s : State) (w mid : Wave) (k : Nat) (i : Instr) : Word :=
  match unitOf i, moveOf i with
  | some u, some m =>
    if u == .ct || u == .sy then (match scalarOp s w k m with
      | some a => fold 0 a
      | none => 0)
    else
      let o := opndsAt s w mid k u m
      operandFold o.mask o.a
  | _, _ => 0

/-- What a twin's compare holds of the bundle in State.ib: its place, and its escaping triggers (R321). -/
def escapeOf (s : State) (w mid : Wave) : Escape :=
  { pc := w.pc, nth := w.issued
    ops := (enum s.ib.moves).filterMap (fun e => match e.2 with
      | some i => if escapes s w mid e.1 i then some (e.1, escapeFold s w mid e.1 i) else none
      | none => none) }

/-- The commands a closing bundle waits for (R310): MX, GA and SF commands, SX commands with a scratchpad destination, running LOOPCOPYs among them,
and stores that append records, that the wave pushed in its segment. -/
def segmentBusy (s : State) (w : Wave) (key : Nat) : Bool :=
  let k := s.core w.core
  let mine := fun (c : Cmd) => c.wave == key && c.seg == w.seg
  let sx := match s.party? w.party with
    | some p => p.sxq ++ k.loops.map (fun (e : Nat × LoopCtx) => e.2.cmd)
    | none => []
  let toSpad := fun (c : Cmd) => match c.op with
    | .sx .copy2d _ | .sx .copy2dw _ => (laneAt c.c ((lowest c.mask).getD 0)).getLsbD 119
    | .sx .loopcopy _ => true
    | _ => false
  (k.mxq ++ k.gaq ++ k.sfq).any mine || sx.any (fun c => mine c && toSpad c) || w.cmds.any (fun c => mine c && c.isSt && !c.isSts)

/-- A move reads SSIG while a store of an earlier bundle has not appended its records (R311); a null-sink move does not (R85). -/
def ssigWaits (s : State) (w : Wave) : Bool :=
  w.cmds.any (fun c => c.isSt && !c.isSts) && s.ib.moves.any (fun i => match i.bind readMove with
    | some m => m.src == .spec .ssig
    | none => false)

/-- SY.ICINV waits for every earlier LG trigger of the wave (R250). -/
def icinvWaits (s : State) (w : Wave) : Bool :=
  w.cmds.any (fun c => c.isLg) && (enum s.ib.moves).any (fun e => match e.2 with
    | some (.syIcinv m) => (scalarOp s w e.1 m).isSome
    | _ => false)

/-- The values of SY a trailing twin takes from its leader before its bundle issues (R319). -/
def syForwarded (s : State) (w : Wave) (k : Nat) (i : Instr) : Bool :=
  match i with
  | .syCsrr m => match scalarOp s w k m with
    | some a => a == 0x030 || a == 0x021 || a == 0x024
    | none => false
  | .syWheelq m => (scalarOp s w k m).isSome
  | _ => false

/-- The records the leading wave of a twin would hold unconfirmed if its bundle issued (R322): those in the log, those of its queued stores,
and those of the bundle's own stores, one for each granule they name. -/
def unconfirmed (s : State) (w mid : Wave) (key : Nat) : Nat :=
  let own := (enum s.ib.moves).foldl (fun n e =>
    let m := match e.2 with
      | some (.stStg m _ _) | some (.stStsc m _ _) | some (.stStnt m _ _) => some m
      | _ => none
    match m with
    | none => n
    | some m =>
      let o := opndsAt s w mid e.1 .st m
      n + ((lanesOf o.mask).map (fun L => effAddr o L / 16)).eraseDups.length) 0
  ((s.core w.core).log.filter (fun r => r.held && r.wave == key)).length +
    (w.cmds.filter (fun c => c.isSt && !c.isSts)).foldl (fun n c => n + (storeRecs c).length) 0 + own

/-- Two twins stand at the same place of the wave's bundles. -/
def Wave.atSame (v w : Wave) : Bool := v.count == w.count && v.hcount == w.hcount && v.hmode == w.hmode && v.pc == w.pc

/-- A twin stalls (R322): the leader too far ahead or about to hold too many unconfirmed records, the trailing twin for a forwarded value,
either at a segment entry before the other has arrived, or before the compares of its segment are done (Log 31). -/
def twinStalls (s : State) (w mid : Wave) (key : Nat) (entry : Bool) : Bool :=
  match w.twin with
  | none => false
  | some (o, lead) =>
    match s.wave? o with
    | none => false
    | some v =>
      (lead && (decide (v.count + Config.twinBundles ≤ w.count) ||
        decide (Config.twinRecords < unconfirmed s w mid key))) ||
      (!lead && (enum s.ib.moves).any (fun e => match e.2 with
        | some i => syForwarded s w e.1 i && !w.fwd.any (fun f => f.kind / 4 == fwdKind PortUnit.sy.code w.issued e.1 0 / 4)
        | none => false)) ||
      (entry && !(w.folds.isEmpty && v.folds.isEmpty && w.escapes.isEmpty && v.escapes.isEmpty)) ||
      (entry && !v.exited && !v.atSame w)

/-- The bundle cannot issue now (R14, R27). A closing bundle that is itself a segment entry has no earlier bundle in its segment (R310). -/
def stalls (s : State) (w mid : Wave) (entry : Bool) : Bool :=
  holdStands s w s.cur || queuedUnits.any (unitStalls s w) || (closing s w mid && !entry && segmentBusy s w s.cur) || ssigWaits s w ||
    icinvWaits s w || twinStalls s w mid s.cur entry

/-! The gate. -/

/-- What stands before a bundle: it is performed, it waits (for a translation of a lane's address, perhaps), or it traps. -/
inductive Gate
  | go
  | hold
  | miss (slot lane va : Nat)
  | trap (t : Trap)
  deriving DecidableEq, Repr

/-- The first answer of the checks of R37, in slot order. -/
def checksFrom (s : State) (w mid : Wave) (l : Launch) (p : Party) : List (Nat × Option Instr) → Gate
  | [] => .go
  | (_, none) :: t => checksFrom s w mid l p t
  | (k, some i) :: t =>
    match moveCheck s w mid l p k i with
    | some (.bad b) => .trap { cause := b.1, slot := k, lane := b.2.1, addr := b.2.2, code := 0 }
    | some (.miss lane va) => .miss k lane va
    | some (.ok _) => checksFrom s w mid l p t
    | none => checksFrom s w mid l p t

/-- The gate of the bundle in State.ib, whose decode checks have passed. -/
def gate (s : State) (w : Wave) (entry : Bool) : Gate :=
  let mid := midWave s w
  if stalls s w mid entry then .hold
  else
    match s.launch? w.launch, s.party? w.party with
    | some l, some p => checksFrom s w mid l p (enum s.ib.moves)
    | _, _ => .hold

/-- The wave can issue at all: it has not exited and stands at no phase boundary (R238, R243). -/
def Wave.runs (w : Wave) : Bool := !w.exited && w.atPhase.isNone

/-- The state in which the acting wave performs a bundle with one move, in its slot. -/
def aloneIn (i : Instr) (w : Wave) (s : State) : State :=
  { s with
    ib := { s.ib with on := true, moves := List.replicate s.slot none ++ [some i], advanced := false }
    pre := some w }

/-- One move of the acting wave. Within a bundle that step performs, it is performed. Alone, it is a bundle with this move only: it
meets the checks and stalls of one, and is then performed; step adds fetch, decode and the end of the bundle. -/
def runMove (i : Instr) (s : State) (perform : State → Wave → State) : Host.Outcome State Fault Refusal :=
  match s.cur? with
  | none => .next s
  | some w =>
    if s.ib.on then .next (perform s (s.pre.getD w))
    else if !w.runs then .next s
    else
      match slotCheck w [] s.slot i with
      | some cause => .next (takeTrap s s.cur { cause := cause, slot := s.slot, lane := 0, addr := 0, code := 0 })
      | none =>
        let t := aloneIn i w s
        match gate t w false with
        | .go =>
          let u := perform t w
          .next { u with ib := s.ib, pre := s.pre }
        | .hold => .next s
        | .miss _ _ _ => .next s
        | .trap t => .next (takeTrap s s.cur t)

end Sys2Proof.Machine
end

