-- ==== Sys2Proof/Machine/Moves.lean ====
section
/-!
DEFINITION. Moves to registers, specials, operand ports and the null sink (R18 to R22, R85, R88), and the shape every trigger of an
exposed lane unit shares (R26, R29).
-/
namespace Sys2Proof.Machine

/-- A register move: the source, popped if it is a queue, enters the destination (R18 to R22, R84). -/
def execRegisterMove (m : Mv) (d : Dst) (fill : BitVec 5) (s : State) : Host.Outcome State Fault Refusal :=
  runMove (.registerMove m d fill) s (fun t w => (popSrc t w m).modWave t.cur (writeDst w m d fill.toNat (srcVal t w m)))

/-- A move to an operand port (R88). -/
def execOperandPortWrite (m : Mv) (u : PortUnit) (p : Latch) (fill : BitVec 5) (s : State) : Host.Outcome State Fault Refusal :=
  runMove (.operandPortWrite m u p fill) s (fun t w => (popSrc t w m).modWave t.cur (writePort w m u p fill.toNat (srcVal t w m)))

/-- A move to the null sink: it pops, and writes nothing (R85). -/
def execNullSinkMove (m : Mv) (s : State) : Host.Outcome State Fault Refusal :=
  runMove (.nullSinkMove m) s (fun t w => popSrc t w m)

/-- A trigger of an exposed lane unit (R26, R29): its source enters latch a, and the result of each lane it triggers in lands after
the unit's bound. The result of lane L is computed from the source and the latches b and c of every lane. -/
def laneTrigger (u : PortUnit) (m : Mv) (f : State → Wave → BitVec 64 → List Lane → List Lane → List Lane → Nat → Lane) (t : State)
    (w : Wave) : State :=
  let v := srcVal t w m
  let t1 := latchA (popSrc t w m) w u m v
  let mask := trigMask t w u m
  if mask = 0 then t1
  else landResult t1 w u mask ((List.range w.phys).map (f t w mask (v.all w.phys) (latchB t1 u) (latchC t1 u)))

end Sys2Proof.Machine
end

