-- ==== Sys2Proof/Machine/LdSt.lean ====
section
/-!
DEFINITION. The triggers of LD and ST (R140 to R151). What the commands do when they are performed stands in
Machine/Perform.lean.
-/
namespace Sys2Proof.Machine

/-- The shape every trigger of a queued unit shares (R23, R26, R28): its source enters latch a, and where it triggers in some lane it
pushes one command with the operands that prep gives it. -/
def queuedTrigger (m : Mv) (op : QOp) (prep : State → Wave → Opnds → Opnds) (t : State) (w : Wave) : State :=
  let u := op.unit
  let v := srcVal t w m
  let t1 := latchA (popSrc t w m) w u m v
  let mask := trigMask t w u m
  if mask = 0 then t1
  else
    let o := prep t w { mask := mask, a := v.all w.phys, b := latchB t1 u, c := latchC t1 u }
    pushCmd t1 (mkCmd t1 w op o.mask o.a o.b o.c) w.core

/-- Operands as they are. -/
def asIs (_ : State) (_ : Wave) (o : Opnds) : Opnds := o

/-- The targets of the lanes of an access, translated at issue; an access the worlds forbid is marked (R37, R363). -/
def withTargets (k : AccKind) (spad view once : Bool) (n : Nat) (t : State) (w : Wave) (o : Opnds) : Opnds :=
  match t.launch? w.launch, t.party? w.party with
  | some l, some p =>
    let one := fun (L : Nat) => match laneTarget t w l p k spad view n L (effAddr o L) with
      | .ok x => x
      | .miss _ _ => 0
      | .bad _ => 0
    let only := (lowest o.mask).getD 0
    { o with a := (List.range w.phys).map (fun L => if o.mask.getLsbD L && (!once || L == only) then one L else 0), b := [] }
  | _, _ => o

/-- The field-book record of a trigger some of whose lanes the worlds forbid (R363, Table 17.4 class 6). -/
def noteWorld (code : Nat) (t t1 : State) (w : Wave) : State :=
  match t1.cur?.bind (fun v => v.cmds.getLast?) with
  | none => t1
  | some c =>
    if c.id = t.nextId then
      match c.targets.find? tBlocked with
      | some x => t1.fb { cls := 6, code := if isAperture (tPa x) then 5 else code, addr := tPa x, detail := w.core, vi := t1.coreVi w.core,
                          core := some w.core }
      | none => t1
    else t1

/-- The post-increment of an address register (R141), under the condition of R23. -/
def postIncrement (m : Mv) (pi : Bool) (step : Nat) (t : State) (w : Wave) : State :=
  match pi, m.src with
  | true, .a n =>
    if w.active m = 0 then t
    else t.modWave t.cur (fun v => { v with a := Tab.set v.a n (w.readA n + BitVec.ofNat 64 step) })
  | _, _ => t

/-- A trigger of LD (R140 to R146). -/
def ldTrigger (k : LdKind) (m : Mv) (sz : Sz) (sx pi : Bool) (t : State) (w : Wave) : State :=
  let t1 := queuedTrigger m (.ld k sz sx) (withTargets .read (k == .lds) (k == .ldl) (k == .ldb) (szBytes sz)) t w
  postIncrement m pi (if k = .ldb then szBytes sz else szBytes sz * w.width) (noteWorld 1 t t1 w) w

/-- The records of a store fold into SSIG in its trigger's place (R311). -/
def foldStore (t t1 : State) : State :=
  t1.modWave t1.cur (fun v => match v.cmds.getLast? with
    | some c => if c.id = t.nextId then { v with ssig := (storeFolds c).foldl fold v.ssig } else v
    | none => v)

/-- A trigger of ST (R140 to R142, R149). -/
def stTrigger (k : StKind) (m : Mv) (sz : Sz) (pi : Bool) (t : State) (w : Wave) : State :=
  let prep := withTargets .write (k == .sts) false false (szBytes sz)
  let t1 := queuedTrigger m (.st k sz) prep t w
  let t2 := if k = .sts then t1 else foldStore t t1
  postIncrement m pi (szBytes sz * w.width) (noteWorld 2 t t2 w) w

/-- LD.LDG: a global load (Table 5.2). -/
def execLdLdg (m : Mv) (sz : Sz) (sx : Bool) (pi : Bool) (s : State) : Host.Outcome State Fault Refusal :=
  runMove (.ldLdg m sz sx pi) s (ldTrigger .ldg m sz sx pi)

/-- LD.LDS: a scratchpad load (Table 5.2). -/
def execLdLds (m : Mv) (sz : Sz) (sx : Bool) (pi : Bool) (s : State) : Host.Outcome State Fault Refusal :=
  runMove (.ldLds m sz sx pi) s (ldTrigger .lds m sz sx pi)

/-- LD.LDL: a load of decoded legend data (Table 5.2). -/
def execLdLdl (m : Mv) (sz : Sz) (sx : Bool) (pi : Bool) (s : State) : Host.Outcome State Fault Refusal :=
  runMove (.ldLdl m sz sx pi) s (ldTrigger .ldl m sz sx pi)

/-- LD.LDB: a broadcast (Table 5.2). -/
def execLdLdb (m : Mv) (sz : Sz) (sx : Bool) (pi : Bool) (s : State) : Host.Outcome State Fault Refusal :=
  runMove (.ldLdb m sz sx pi) s (ldTrigger .ldb m sz sx pi)

/-- LD.LDSC: a sequentially consistent load (Table 5.2). -/
def execLdLdsc (m : Mv) (sz : Sz) (sx : Bool) (pi : Bool) (s : State) : Host.Outcome State Fault Refusal :=
  runMove (.ldLdsc m sz sx pi) s (ldTrigger .ldsc m sz sx pi)

/-- LD.LDNT: a load that allocates no L1 line (Table 5.2). -/
def execLdLdnt (m : Mv) (sz : Sz) (sx : Bool) (pi : Bool) (s : State) : Host.Outcome State Fault Refusal :=
  runMove (.ldLdnt m sz sx pi) s (ldTrigger .ldnt m sz sx pi)

/-- ST.STG: records for the survey log (Table 5.3). -/
def execStStg (m : Mv) (sz : Sz) (pi : Bool) (s : State) : Host.Outcome State Fault Refusal :=
  runMove (.stStg m sz pi) s (stTrigger .stg m sz pi)

/-- ST.STS: a scratchpad store (Table 5.3). -/
def execStSts (m : Mv) (sz : Sz) (pi : Bool) (s : State) : Host.Outcome State Fault Refusal :=
  runMove (.stSts m sz pi) s (stTrigger .sts m sz pi)

/-- ST.STSC: a sequentially consistent store (Table 5.3). -/
def execStStsc (m : Mv) (sz : Sz) (pi : Bool) (s : State) : Host.Outcome State Fault Refusal :=
  runMove (.stStsc m sz pi) s (stTrigger .stsc m sz pi)

/-- ST.STNT: records marked non-temporal (Table 5.3). -/
def execStStnt (m : Mv) (sz : Sz) (pi : Bool) (s : State) : Host.Outcome State Fault Refusal :=
  runMove (.stStnt m sz pi) s (stTrigger .stnt m sz pi)

end Sys2Proof.Machine
end

