-- ==== Sys2Proof/Machine/Streamer.lean ====
section
/-!
DEFINITION. The streamer (R199 to R208): how its commands start, what a copy reads and writes, its end, and the triggers of SX.
-/
namespace Sys2Proof.Machine

/-- The opcode byte of a streamer operation (Table 3.7). -/
def SxOp.code : SxOp → Nat
  | .copy2d => 1
  | .copy2dw => 2
  | .loopcopy => 3
  | .stop => 4
  | .landresv => 5
  | .landsend => 6
  | .landclr => 7
  | .zoneinit => 8
  | .waitc => 9

/-- A command's streamer operation and its number. -/
def Cmd.sx? (c : Cmd) : Option (SxOp × Nat) :=
  match c.op with
  | .sx o n => some (o, n)
  | _ => none

/-- The wave of a command trails in a twin pair. -/
def State.cmdTrails (s : State) (c : Cmd) : Bool :=
  match s.wave? c.wave with
  | some w => w.trails
  | none => false

/-- A completion record of a command (Table 6.5). -/
def Cmd.record (c : Cmd) (status fault bytes aux tag : Nat) : CRec :=
  match c.sx? with
  | some (o, n) => { aux := aux, tag := tag, bytes := bytes, op := o.code, unit := n, fault := fault, status := status }
  | none => { aux := aux, tag := tag, bytes := bytes, op := 0, unit := 0, fault := fault, status := status }

/-! Copies. -/

/-- Where a streamer access to global memory goes (R204): the physical address and package, a miss, or a cause. -/
def sxAt (s : State) (core cmd : Nat) (l : Launch) (va : Nat) (k : AccKind) : XRes :=
  match s.translateSx core cmd l va k with
  | .miss => .miss
  | .fault c => .fault c
  | .ok pa pkg => if pkg = 0 ∧ isAperture pa then .fault causeLegend else .ok pa pkg

/-- What a copy has done so far: the state, the bytes written, the cause it stopped at, the chunks forwarded to it or by it, the line of virtual
addresses it read last, whether the field book has its record of a forbidden access, whether it waits for room in the log, the address whose walk it
waits for, and its writes. -/
structure CopyRun where
  st : State
  bytes : Nat
  fault : Option Nat
  sent : List Lane
  line : Option Nat
  noted : Bool
  stuck : Bool
  miss : Option Nat
  wids : List Nat
  deriving DecidableEq, Repr

/-- How a copy runs: its core, party, launch and command, which sides are scratchpad, the choice among the writes it may read, and what a trailing
twin has been forwarded for it: 0 for bytes alone, a cause if its leader's copy stopped (R319). -/
structure CopyWay where
  core : Nat
  party : Party
  launch : Launch
  cmd : Cmd
  ssp : Bool
  dsp : Bool
  cut : Nat
  given : Option Nat
  deriving DecidableEq, Repr

/-- An access the worlds forbid is recorded, once for the command (R363). -/
def CopyRun.forbid (r : CopyRun) (x : CopyWay) (pa : Nat) : CopyRun :=
  if r.noted then r
  else { r with
    st := r.st.fb { cls := 6, code := 4, addr := pa, detail := x.core, vi := some x.launch.vi, core := some x.core }
    noted := true }

/-- A 16-byte read of global memory: of home memory under He, or of another package (R204, R272). A line already counted is the same (R397). -/
def CopyRun.readGlobal (r : CopyRun) (x : CopyWay) (va : Nat) : List Byte × CopyRun :=
  let s := r.st
  match sxAt s x.core x.cmd.id x.launch va .read with
  | .miss => ([], { r with miss := some va })
  | .fault k => ([], { r with fault := some k })
  | .ok pa pkg =>
    if s.worldBlocks x.launch pa pkg then (bytesOf 16 0, r.forbid x pa)
    else if pkg ≠ 0 then (s.remoteBytes x.cmd.he pa pkg 16 s.fresh, { r with st := s.refresh })
    else
      ((s.seenBytes x.cmd.he x.cut pa 16).1,
        { r with
          st := if r.line = some (va / 64) then s.tally (s.tractOf pa) (x.core / 160 % 4) 16 (some x.core) else s.served (s.tractOf pa) x.core 16
          line := some (va / 64) })

/-- A 16-byte read of a copy. What it reads of global memory is kept for a trailing twin; that one takes the bytes from its leader (R319). -/
def CopyRun.read (r : CopyRun) (x : CopyWay) (a : Nat) : List Byte × CopyRun :=
  if x.ssp then (r.st.spadRead x.party a 16, r)
  else
    match x.given, r.sent with
    | some _, y :: t => (bytesOf 16 y.toNat, { r with sent := t })
    | some k, [] => ([], { r with fault := some k })
    | none, _ =>
      let q := r.readGlobal x a
      (q.1, { q.2 with sent := q.2.sent ++ [BitVec.ofNat 128 (ofBytes q.1)] })

/-- A 16-byte write of global memory: a record of the engine log (R206, R271), if the log has room or a drain makes it (R259). -/
def CopyRun.writeGlobal (r : CopyRun) (x : CopyWay) (va : Nat) (bs : List Byte) : CopyRun :=
  let s := r.st
  match sxAt s x.core x.cmd.id x.launch va .write with
  | .miss => { r with miss := some va }
  | .fault k => { r with fault := some k }
  | .ok pa pkg =>
    if s.worldBlocks x.launch pa pkg then
      let q := r.forbid x pa
      { q with bytes := q.bytes + 16 }
    else
      let m := makeRoom s x.core
      if m.2 then
        { r with
          st := m.1.appendRec x.core
            { wid := 0, pkg := pkg, gran := pa / 16, ben := 0xFFFF, data := BitVec.ofNat 128 (ofBytes bs), kind := 0x11, wslot := 0,
              isOpen := false, held := false, seq := 0, engine := true, cmd := x.cmd.id, wave := x.cmd.wave,
              launch := x.party.launch, seg := x.cmd.seg, spilled := false,
              stamp := none }
          bytes := r.bytes + 16
          wids := m.1.nextId :: r.wids }
      else { r with stuck := true }

/-- A 16-byte write of a copy. -/
def CopyRun.write (r : CopyRun) (x : CopyWay) (a : Nat) (bs : List Byte) : CopyRun :=
  if x.dsp then { r with st := r.st.spadWrite x.party a bs, bytes := r.bytes + 16 } else r.writeGlobal x a bs

/-- One 16-byte chunk of a copy, in row order and increasing address (R204). -/
def copyChunk (x : CopyWay) (r : CopyRun) (sd : Nat × Nat) : CopyRun :=
  if r.fault.isSome || r.stuck || r.miss.isSome then r
  else
    let q := r.read x sd.1
    if q.2.miss.isSome then q.2
    else if q.2.fault.isSome then { q.2 with sent := if x.given.isSome then q.2.sent else r.sent } else q.2.write x sd.2 q.1

/-- The chunks of a block: source and destination of each. -/
def copyChunks (src dst : Nat) (ss ds : Int) (rows n : Nat) : List (Nat × Nat) :=
  (List.range rows).flatMap (fun i => (List.range (n / 16)).map (fun j =>
    ((sxRow src ss i + 16 * j) % 2 ^ 64, (sxRow dst ds i + 16 * j) % 2 ^ 64)))

/-- What a leader's copy forwards is under this number (R319); its mask holds the cause the copy stopped at. -/
def copyKind (c : Cmd) : Nat := fwdKind PortUnit.sx.code c.nth c.slot 0

/-- A block is copied; noted tells whether the field book has the command's record of an access that the worlds forbid (R363). A leading twin's copy to the scratchpad forwards what it has read of global memory, and where it stopped (R319). -/
def runCopy (s : State) (core : Nat) (p : Party) (l : Launch) (c : Cmd) (ssp dsp noted : Bool) (chunks : List (Nat × Nat)) : CopyRun :=
  let ch := s.choose
  let fed := if s.cmdTrails c && !ssp then (s.wave? c.wave).bind (fun w => w.fwd.find? (fun f => f.kind == copyKind c)) else none
  let x : CopyWay := { core := core, party := p, launch := l, cmd := c, ssp := ssp, dsp := dsp, cut := ch.1, given := fed.map (fun f => f.mask.toNat) }
  let sent := match fed with
    | some f => f.vals
    | none => []
  let r := chunks.foldl (copyChunk x)
    { st := ch.2, bytes := 0, fault := none, sent := sent, line := none, noted := noted, stuck := false, miss := none, wids := [] }
  match fed with
  | some g => { r with st := r.st.modWave c.wave (fun w => { w with fwd := (w.fwd.takeWhile (fun f => f != g)) ++ (w.fwd.dropWhile (fun f => f != g)).drop 1 }) }
  | none =>
    if ssp || !dsp then r
    else { r with st := r.st.forward c.wave (copyKind c) c.seg (BitVec.ofNat 64 (r.fault.getD 0)) r.sent }

/-- The bytes a trailing twin's copy needs have been forwarded, or it needs none (R319). -/
def State.copyFed (s : State) (c : Cmd) (ssp : Bool) : Bool :=
  match s.wave? c.wave with
  | some w => !w.trails || ssp || w.fwd.any (fun f => f.kind == copyKind c)
  | none => true

/-- The record kind under which a leading twin's completion record is forwarded. -/
def recKind (c : Cmd) : Nat := fwdKind PortUnit.st.code c.nth c.slot 3

/-- A completion record of a command, and its copy for a trailing twin (R321). -/
def endRecord (s : State) (c : Cmd) (r : CRec) (wanted : Bool) : State :=
  let t := if wanted then s.pushRecord c.party (some (c.wave, c.seg)) r else s
  t.forward c.wave (recKind c) c.seg 0 [r.pack.truncate 128, (r.pack >>> 128).truncate 128]

/-- A trailing twin's completion record is its leader's (R321). -/
def State.trailRecord (s : State) (c : Cmd) (r : BitVec 256) : State :=
  (s.modParty c.party (fun q => { q with held := q.held ++ [{ own := some (c.wave, c.seg), rec' := r }] })).flushRecord c.party

/-- A command leaves its party's queue. -/
def State.dropSx (s : State) (c : Cmd) : State :=
  s.modParty c.party (fun p => { p with sxq := p.sxq.filter (fun d => d.id != c.id), sxWait := p.sxWait.filter (fun d => d.id != c.id) })

/-- Changes a command in its party's queue. -/
def State.modSx (s : State) (c : Cmd) (f : Cmd → Cmd) : State :=
  s.modParty c.party (fun p => { p with sxq := p.sxq.map (fun d => if d.id = c.id then f d else d) })

/-- The end of a copy (R204, R206): credit, then record. Its engine-log records are in the core's horizon from now on (R263). -/
def finishCopy (s : State) (c : Cmd) (k : SxCopy) (core : Nat) (p : Party) (stamp bytes : Nat) (fault : Option Nat) (wids : List Nat) : State :=
  let t := (s.dropSx c).join core wids
  match fault with
  | some cause => endRecord t c (c.record 1 cause bytes 0 k.tag) k.crec
  | none =>
    let live := t.barLive p (16 * k.barix)
    let t1 := if k.baren then t.creditBar c.party (16 * k.barix) false bytes else t
    let nobar := k.baren && !live
    endRecord t1 c (c.record (if nobar then 3 else 0) 0 bytes (if nobar then 0 else stamp) k.tag) k.crec

/-- A copy that has moved its bytes: one with a global destination publishes them (R206, R271), and ends when its mark stands (R261). None while it
waits. -/
def endCopy (s : State) (c : Cmd) (k : SxCopy) (core l : Nat) (p : Party) (bytes : Nat) (fault : Option Nat) (wids : List Nat) : Option State :=
  if k.dsp then some (finishCopy s c k core p 0 bytes fault wids)
  else if c.st.stage.1 = 1 then
    match s.mark? c.st.stage.2 with
    | some m => if m.stands then some (finishCopy s c k core p m.stamp bytes fault wids) else none
    | none => some (finishCopy s c k core p 0 bytes fault wids)
  else
    match publish s core { scope := k.pscope, launch := l, engine := true, hor := c.he } c.id wids with
    | none => s.noteWait k.pscope core (.cmd c.id)
    | some (m, t) =>
      if t.markStands m.id then some (finishCopy t c k core p m.stamp bytes fault wids)
      else some (t.modSx c (fun d => { d with st := stageSt 1 m.id }))

/-- A LANDSEND of the party to its own core has not been written and answered; a later command of the queue that reads or writes the scratchpad waits
for it (R199). -/
def Party.sendsHome (p : Party) (s : State) : Bool :=
  p.sxWait.any (fun d => match d.op with
    | .sx .landsend _ => bits d.opB.toNat 15 0 == s.fabric.pkgid && bits d.opB.toNat 25 16 == coreIdent p.core
    | _ => false)

/-- A copy at the head of its queue is performed from its first byte to its end (R204); none while it waits. A trailing twin's copy to global memory is not
performed: its record is its leader's (R321). -/
def performCopy (s : State) (c : Cmd) : Option State :=
  match s.party? c.party with
  | none => none
  | some p =>
    match s.launch? p.launch with
    | none => none
    | some l =>
      let k := SxCopy.ofLanes c.opA c.opB c.opC
      if s.cmdTrails c && !k.dsp then
        (s.wave? c.wave).bind (fun w => (w.fwd.find? (fun f => f.kind == recKind c)).map (fun f =>
          let rec' := (laneAt f.vals 0).zeroExtend 256 ||| ((laneAt f.vals 1).zeroExtend 256 <<< 128)
          let t := (s.dropSx c).modWave c.wave (fun v => { v with fwd := v.fwd.filter (fun x => x.kind != f.kind) })
          if k.crec then t.trailRecord c rec' else t))
      else
        match c.got with
        | some (bytes, fault, wids) => endCopy s c k p.core p.launch p bytes fault wids
        | none =>
          if !s.copyFed c k.ssp || s.waitsSts c || ((k.ssp || k.dsp) && p.sendsHome s) then none
          else
            let r := runCopy s p.core p l c k.ssp k.dsp false (copyChunks k.src k.dst k.sstride k.dstride k.rows k.rowbytes)
            if r.stuck then none
            else
            match r.miss with
            | some va => some (s.noteSxMiss p.core c.id p.launch va)
            | none =>
              match endCopy r.st c k p.core p.launch p r.bytes r.fault r.wids with
              | some t => some (t.modSx c (fun d => { d with got := some (r.bytes, r.fault, r.wids) }))
              | none => some (r.st.modSx c (fun d => { d with got := some (r.bytes, r.fault, r.wids) }))

/-! LOOPCOPY (R207, R208). -/

/-- The end of a LOOPCOPY: its record, whose TAG is 0. -/
def endLoop (s : State) (core ctx : Nat) (c : Cmd) (status fault done bytes : Nat) : State :=
  let t := s.modCore core (fun k => { k with loops := Tab.erase k.loops ctx })
  endRecord t c (c.record status fault bytes (if status = 0 then 0 else done) 0) (c.opC.getLsbD 117)

/-- One iteration of a running LOOPCOPY: a slot is reserved, one block copied, the slot filled. None while it waits; while the core halts it starts
no iteration (R358). -/
def loopStep (s : State) (core ctx : Nat) : Option State :=
  match Tab.get? (s.core core).loops ctx with
  | none => none
  | some x =>
    let c := x.cmd
    let n := match c.sx? with
      | some (_, n) => n
      | none => 0
    let k := SxCopy.ofLanes c.opA c.opB c.opC
    let block := k.rows * k.rowbytes
    if x.stop then some (endLoop s core ctx c 2 0 x.i (x.i * block))
    else
      match s.party? c.party with
      | none => none
      | some p =>
        match s.launch? p.launch with
        | none => none
        | some l =>
          let cb := (s.core core).cb n
          if cb.free = 0 ∨ s.cbAhead core c.id .cbresv n ∨ !s.copyFed c k.ssp ∨ s.waitsSts c ∨ (s.core core).haltAt.isSome then none
          else
            let slot := cb.slotAddr cb.pix
            let t := s.modCb core n (fun b => b.reserve.1)
            let r := runCopy t core p l c k.ssp true x.noted (copyChunks (loopSrc c.opA c.opB x.i) slot k.sstride k.dstride k.rows k.rowbytes)
            match r.miss, r.fault with
            | some va, _ => some (s.noteSxMiss core c.id p.launch va)
            | none, some cause => some (endLoop r.st core ctx c 1 cause x.i (x.i * block + r.bytes))
            | none, none =>
              let u := r.st.modCb core n Cb.fill
              if x.i + 1 = loopCount c.opB then some (endLoop u core ctx c 0 0 (x.i + 1) ((x.i + 1) * block))
              else some (u.modCore core (fun q => { q with loops := Tab.set q.loops ctx { x with i := x.i + 1, noted := r.noted } }))

/-- STOP (R208): every running LOOPCOPY of the party that it names stops. -/
def performStop (s : State) (core party : Nat) (b : Lane) : State :=
  let names := fun (x : LoopCtx) => x.cmd.party == party && (b.getLsbD 4 || x.cmd.sx? == some (.loopcopy, bits b.toNat 3 0))
  s.modCore core (fun k => { k with loops := k.loops.map (fun e => if names e.2 then (e.1, { e.2 with stop := true }) else e) })

/-! WAITC (R202). -/

/-- The entry of a record: even lanes its low half, odd lanes its high half. -/
def recordLanes (n : Nat) (r : Nat) : List Lane :=
  (List.range n).map (fun L => BitVec.ofNat 128 (if L % 2 = 0 then r % 2 ^ 128 else r / 2 ^ 128))

/-- The entry of a WAITC that found no record (R202). -/
def noRecord : Nat := 0xFFFF

/-- A forwarded entry is that of a WAITC that found no record. -/
def Fwd.none' (f : Fwd) : Bool := bits (laneAt f.vals 0).toNat 15 0 == noRecord

/-- WAITC takes the record at TAIL. None while the ring is empty, or its leader's value has not come; a leader that found no record leaves the
trailing twin's ring alone (R319). -/
def takeRecord (s : State) (c : Cmd) : Option State :=
  match s.party? c.party, s.wave? c.wave with
  | some p, some w =>
    let g := p.cring
    let empty := cringLog g = 0 ∨ cringHead g = cringTail g
    let r := s.spadNat p (cringBase g + 32 * (cringTail g % 2 ^ cringLog g)) 32
    let t := (s.dropSx c).modParty c.party (fun q =>
      { q with cring := cringPack (cringHead q.cring) (cringTail q.cring + 1) (cringLog q.cring) (cringBase q.cring) })
    match w.trails, w.fwdFor c with
    | true, some f => if f.none' then some ((s.dropSx c).takeFwd c f) else if empty then none else some (t.takeFwd c f)
    | true, none => none
    | false, _ => if empty then none else some (t.deliverFwd c .ready (recordLanes w.phys r))
  | _, _ => none

/-- The WAITCs of a party that wait, oldest first. -/
def Party.waitcs (p : Party) : List Cmd := p.sxWait.filter (fun c => c.op.entry)

/-- The oldest waiting WAITCs take the records of the ring, each the next (R202). -/
def serveWaits : Nat → State → Nat → State
  | 0, s, _ => s
  | n + 1, s, party =>
    match (s.party? party).bind (fun p => p.waitcs.head?) with
    | none => s
    | some c =>
      match takeRecord s c with
      | some t => serveWaits n t party
      | none => s

/-- WAITC at its push, after the WAITCs that wait before it: a record, the answer of NOWAIT on an empty ring, or a wait apart from the queue
(R199, R202). -/
def performWaitc (s0 : State) (c : Cmd) : State :=
  let s := serveWaits (s0.nextId) s0 c.party
  match s.party? c.party, s.wave? c.wave with
  | some p, some w =>
    let first := if p.waitcs.isEmpty then takeRecord s c else none
    match first with
    | some t => t
    | none =>
      let empty := decide (cringLog p.cring = 0 ∨ cringHead p.cring = cringTail p.cring)
      if c.opB.getLsbD 0 && empty && !w.trails then (s.dropSx c).deliverFwd c .ready (recordLanes w.phys noRecord)
      else s.modParty c.party (fun q => { q with sxq := q.sxq.filter (fun d => d.id != c.id), sxWait := q.sxWait ++ [c] })
  | _, _ => s

/-! Landfall commands at the sender (R211 to R215). -/

/-- The sender's number of a landfall command: package and core identifier. -/
def State.selfId (s : State) (core : Nat) : Nat × Nat := (s.fabric.pkgid, coreIdent core)

/-- A landfall command of the sender as a message to its receiver. DESIGN CHOICE (Log 107): the source bytes of a LANDSEND are read all at once, when it
starts; R212 has them read at any time before the record. -/
def landMsg (s : State) (p : Party) (c : Cmd) : Option (Nat × LandMsg) :=
  let me := s.selfId p.core
  let a := c.opA.toNat
  let b := c.opB.toNat
  match c.sx? with
  | some (.landresv, z) => some (bits a 15 0, .resv me.1 me.2 c.id (bits a 25 16) z (bits b 18 0))
  | some (.landsend, z) =>
    some (bits b 15 0, .send me.1 me.2 c.id (bits b 25 16) z (bits b 31 26) (bits b 47 32) (sendOffset c.opB)
      (s.spadRead p (bits a 63 0) (sendBytes c.opC)))
  | some (.landclr, z) => some (bits a 15 0, .clr me.1 me.2 c.id (bits a 25 16) z (bits b 5 0) (bits b 47 32))
  | _ => none

/-- TAG of a landfall command. -/
def landTag (c : Cmd) : Nat :=
  match c.sx? with
  | some (.landresv, _) | some (.landsend, _) => bits c.opB.toNat 95 64
  | _ => 0

/-- The record of a landfall command is wanted: always, but for a send without CREC (R212). -/
def landWanted (c : Cmd) : Bool :=
  match c.sx? with
  | some (.landsend, _) => c.opC.getLsbD 20
  | _ => true

/-- A landfall command ends with an answer (R201). -/
def finishLand (s : State) (c : Cmd) (a : LandAns) : State :=
  endRecord (s.dropSx c) c (c.record a.status a.reason a.bytes a.aux (landTag c)) (landWanted c)

/-- The key of the route of a landfall command (R382, Log 11). -/
def Cmd.landKey (c : Cmd) : Nat :=
  match c.sx? with
  | some (.landsend, _) => Machine.landKey (bits c.opB.toNat 25 16) (bits c.opB.toNat 31 26)
  | some (.landclr, _) => Machine.landKey (bits c.opA.toNat 25 16) (bits c.opB.toNat 5 0)
  | _ => Machine.landKey (bits c.opA.toNat 25 16) 0

/-- A landfall command starts: a zone command of the core itself, or a message to its receiver (R199, R382). -/
def startLand (s : State) (p : Party) (c : Cmd) : State :=
  let t := s.modParty c.party (fun q => { q with sxq := q.sxq.filter (fun d => d.id != c.id), sxWait := q.sxWait ++ [c] })
  match c.sx? with
  | some (.zoneinit, z) => startClear t p.core (.zoneInit z c.opA c.opB c.id)
  | some (o, z) =>
    if o == .landclr && !c.opB.getLsbD 6 then (startClear t p.core (.localClr z (bits c.opB.toNat 5 0))).endLand c.id
    else
      match landMsg t p c with
      | none => t
      | some (pkg, m) =>
        if pkg = t.fabric.pkgid then { t with net := t.net ++ [m] }
        else if t.reachable pkg then t.send pkg c.landKey (.land pkg m)
        else finishLand t c (landAns 0x13 0 0 0)
  | none => t

/-- A trailing twin's landfall command takes its leader's record (R321). -/
def trailLand (s : State) (c : Cmd) : Option State :=
  (s.wave? c.wave).bind (fun w => (w.fwd.find? (fun f => f.kind == recKind c)).map (fun f =>
    let rec' := (laneAt f.vals 0).zeroExtend 256 ||| ((laneAt f.vals 1).zeroExtend 256 <<< 128)
    let t := (s.dropSx c).modWave c.wave (fun v => { v with fwd := v.fwd.filter (fun x => x.kind != f.kind) })
    if landWanted c then t.trailRecord c rec' else t))

/-- The head of a party's queue starts if it can without waiting: a LOOPCOPY into a free loop context, a landfall command (R199).
Copies are started by their events. -/
def startHead (s : State) (party : Nat) : Option State :=
  match s.party? party with
  | none => none
  | some p =>
    match p.sxq with
    | [] => none
    | c :: _ =>
      if p.copyHeld then none
      else
        match c.sx? with
        | some (.loopcopy, _) =>
          if 4 ≤ (s.core p.core).loops.length + ((s.coreParties p.core).map (fun e => e.2.heldLoops)).sum then none
          else match (List.range 4).find? (fun i => (Tab.get? (s.core p.core).loops i).isNone) with
          | some i =>
            some ((s.dropSx c).modCore p.core (fun k => { k with loops := Tab.set k.loops i { cmd := c, i := 0, stop := false, noted := false } }))
          | none => none
        | some (.landresv, _) | some (.landsend, _) | some (.landclr, _) | some (.zoneinit, _) =>
          if s.cmdTrails c then trailLand s c
          else if s.waitsSts c || (c.readsSpad && p.sendsHome s) then none
          else some (startLand s p c)
        | _ => none

/-- The queue of a party runs until its head waits for an event. -/
def startSx : Nat → State → Nat → State
  | 0, s, _ => s
  | n + 1, s, party =>
    match startHead s party with
    | some t => startSx n t party
    | none => s

/-- What the queues of a core and of the parties on it can do without an event. -/
def settleCore (s : State) (core : Nat) : State :=
  (s.coreParties core).foldl (fun t p => startSx 17 t p.1) (settle s core)

/-! The triggers of SX. -/

/-- A trigger of STOP: one command, performed at its push ahead of those before it (R199, R208). -/
def sxStopTrigger (m : Mv) (t : State) (w : Wave) : State :=
  let o := opndsAt t w (t.cur?.getD w) t.slot .sx m
  let t1 := latchA (popSrc t w m) w .sx m (srcVal t w m)
  if o.mask = 0 then t1 else performStop t1 w.core w.party (laneAt o.b o.lane)

/-- A trigger of WAITC: its command is evaluated at its push (R199, R202). -/
def sxWaitcTrigger (m : Mv) (t : State) (w : Wave) : State :=
  let t1 := queuedTrigger m (.sx .waitc 0) asIs t w
  match (t1.party? w.party).bind (fun p => p.sxq.getLast?) with
  | some c => if c.id = t.nextId then performWaitc t1 c else t1
  | none => t1

/-- A trigger of SX that pushes its command (R199). -/
def sxTrigger (o : SxOp) (n : Nat) (m : Mv) (t : State) (w : Wave) : State := queuedTrigger m (.sx o n) asIs t w

/-- SX.COPY2D (R203). -/
def execSxCopy2d (m : Mv) (s : State) : Host.Outcome State Fault Refusal :=
  runMove (.sxCopy2d m) s (sxTrigger .copy2d 0 m)

/-- SX.COPY2DW (R205). -/
def execSxCopy2dw (m : Mv) (s : State) : Host.Outcome State Fault Refusal :=
  runMove (.sxCopy2dw m) s (sxTrigger .copy2dw 0 m)

/-- SX.LOOPCOPY (R207). -/
def execSxLoopcopy (m : Mv) (cb : BitVec 4) (s : State) : Host.Outcome State Fault Refusal :=
  runMove (.sxLoopcopy m cb) s (sxTrigger .loopcopy cb.toNat m)

/-- SX.STOP (R208): performed at its push (R199). -/
def execSxStop (m : Mv) (s : State) : Host.Outcome State Fault Refusal :=
  runMove (.sxStop m) s (sxStopTrigger m)

/-- SX.LANDRESV (R211). -/
def execSxLandresv (m : Mv) (z : BitVec 3) (s : State) : Host.Outcome State Fault Refusal :=
  runMove (.sxLandresv m z) s (sxTrigger .landresv z.toNat m)

/-- SX.LANDSEND (R212). -/
def execSxLandsend (m : Mv) (z : BitVec 3) (s : State) : Host.Outcome State Fault Refusal :=
  runMove (.sxLandsend m z) s (sxTrigger .landsend z.toNat m)

/-- SX.LANDCLR (R214). -/
def execSxLandclr (m : Mv) (z : BitVec 3) (s : State) : Host.Outcome State Fault Refusal :=
  runMove (.sxLandclr m z) s (sxTrigger .landclr z.toNat m)

/-- SX.ZONEINIT (R210). -/
def execSxZoneinit (m : Mv) (z : BitVec 3) (s : State) : Host.Outcome State Fault Refusal :=
  runMove (.sxZoneinit m z) s (sxTrigger .zoneinit z.toNat m)

/-- SX.WAITC (R202): evaluated at its push (R199). -/
def execSxWaitc (m : Mv) (s : State) : Host.Outcome State Fault Refusal :=
  runMove (.sxWaitc m) s (sxWaitcTrigger m)

end Sys2Proof.Machine
end

