-- ==== Sys2Proof/Machine/Engines.lean ====
section
/-!
DEFINITION. What the commands of MX (R182 to R194), GA (R195 to R198) and SF (R217) do when their engine performs them.
-/
namespace Sys2Proof.Machine

/-! K-steps (R68 to R70, R185). -/

/-- The operand of one K-step: its mantissas or elements, and for BFP its scale slots, each as a number. -/
structure KOp where
  elems : Nat
  slots : Nat
  deriving DecidableEq, Repr

/-- Element k of a K-step operand under a type, exactly. -/
def KOp.value (x : KOp) (ty : ETy) (k : Nat) : XVal :=
  if ty.isBfp then bfpValue ty.bfpM ((x.elems >>> (ty.bfpM * k)) % 2 ^ ty.bfpM) ((x.slots >>> (16 * (k / 32))) % 2 ^ 16)
  else
    let w := ETy.width ty
    let e := (x.elems >>> (w * k)) % 2 ^ w
    if ty.isInt then XVal.ofInt (ETy.read ty e) else (fmtOf ty).value e

/-- Consecutive K indices summed before they join the accumulator (R68, R69). -/
def chunkSize (ty : ETy) : Nat := if ty.isBfp || ty.isInt then 32 else 16

/-- KStep(acc, a, b) (R68, R69). -/
def kStep (at' bt : ETy) (acc : BitVec 32) (a b : KOp) : BitVec 32 :=
  let n := chunkSize at'
  (List.range (mxK at' / n)).foldl (fun x c =>
    accAdd x (chunkCode ((List.range n).map (fun i => (a.value at' (c * n + i)).mul (b.value bt (c * n + i)))))) acc

/-! Accumulators. -/

/-- The number of an accumulator element. -/
def accIx (m r n : Nat) : Nat := 2048 * m + 32 * r + n
/-- An accumulator element. -/
def MxEngine.elem (e : MxEngine) (m r n : Nat) : BitVec 32 := Tab.getD e.acc (accIx m r n) 0
/-- Writes an accumulator element; +0 is not listed. -/
def MxEngine.setElem (e : MxEngine) (m r n : Nat) (x : BitVec 32) : MxEngine :=
  { e with acc := if x = 0 then Tab.erase e.acc (accIx m r n) else Tab.set e.acc (accIx m r n) x }

/-- Changes the matrix engine of a core. -/
def State.modMx (s : State) (core : Nat) (f : MxEngine → MxEngine) : State := s.modCore core (fun c => { c with mx := f c.mx })

/-- The number under which a checkpoint notes that it holds an accumulator. -/
def accNote (m : Nat) : Nat := 2 ^ 16 + m

/-- Before a command of the wave's open segment first writes an accumulator, its value enters the wave's checkpoint (Table 11.1). -/
def State.saveAcc (s : State) (core : Nat) (c : Cmd) (m : Nat) : State :=
  let vals := (s.core core).mx.acc.filter (fun e => e.1 / 2048 == m)
  let save := fun (k : Ckpt) =>
    if k.wave.seg == c.seg && (Tab.get? k.acc (accNote m)).isNone then { k with acc := (accNote m, 0) :: vals ++ k.acc } else k
  { s with ckpts := Tab.modify s.ckpts c.wave save }

/-! Operands. -/

/-- Byte i of a column of a B latch. A latch never loaded holds zero bytes (R182); what a latch loaded under a narrower type holds
beyond its load is not stated: a free value (Log 8). -/
def latchByte (loaded : Bool) (l : List Byte) (seed i : Nat) : Byte :=
  match l[i]? with
  | some b => b
  | none => if loaded then (Config.freeBits (2 ^ 97 + seed * 2 ^ 12 + i)).truncate 8 else 0

/-- Column n of a B latch under a type. -/
def bColumn (l : Option BLatch) (bt : ETy) (seed n : Nat) : KOp :=
  let x := l.getD { cols := [], scales := [] }
  let byte := fun (p : List Byte) (sd i : Nat) => latchByte l.isSome p sd i
  { elems := ofBytes ((List.range (mxRowBytes bt)).map (byte (nth x.cols n []) (seed * 64 + n)))
    slots := if bt.isBfp then ofBytes ((List.range 32).map (byte (nth x.scales n []) (seed * 64 + 32 + n))) else 0 }

/-- An A row (R185, R187). -/
def aRow (s : State) (p : Party) (at' : ETy) (c : Cmd) (h : Nat) (x : MmRow) : KOp :=
  { elems := s.spadNat p (mmRowAddr c.a c.b h x) (mxRowBytes at')
    slots := if at'.isBfp then s.spadNat p (mmScaleAddr c.c x) 32 else 0 }

/-- One taken row is accumulated against the 32 columns (R188). -/
def accRow (at' bt : ETy) (m r : Nat) (a : KOp) (cols : List KOp) (e : MxEngine) : MxEngine :=
  (enum cols).foldl (fun x c => x.setElem m r c.1 (kStep at' bt (x.elem m r c.1) a c.2)) e

/-! Passes (R189). -/

/-- The quarters of a command of hardware wave h that hold an active lane. -/
def quartersOf (mask : BitVec 64) (h : Nat) : List Nat := ((List.range 4).filter (fun q => (lanesOf (halfMask mask h)).any (fun L => L / 8 == q)))

/-- The passes an MMQ of hardware wave h costs: its quarters join the wave's open pass where R189 lets them, and the rest form one. -/
def fuseQuarters (e : MxEngine) (c : Cmd) (bl acc h : Nat) : MxEngine :=
  let qs := quartersOf c.mask h
  if qs.isEmpty then e
  else
    let key := 2 * c.wave + h
    let fresh := fun (rest : List Nat) =>
      { e with
        passes := e.passes + 1
        open' := Tab.set e.open' key { bl := bl, acc := acc, types := (e.atype, e.btype), first := c.pushed, quarters := rest } }
    match Tab.get? e.open' key with
    | some g =>
      if g.bl = bl ∧ g.acc = acc ∧ g.types = (e.atype, e.btype) ∧ c.pushed ≤ g.first + 4 then
        let rest := qs.filter (fun q => g.quarters.contains q)
        if rest.isEmpty then { e with open' := Tab.set e.open' key { g with quarters := g.quarters ++ qs } } else fresh rest
      else fresh qs
    | none => fresh qs

/-- A command other than an MMQ closes the open pass of its hardware wave. -/
def closePasses (e : MxEngine) (c : Cmd) : MxEngine :=
  { e with open' := e.open'.filter (fun x => !(x.1 / 2 == c.wave && halfMask c.mask (x.1 % 2) != 0)) }

/-! MX commands. -/

/-- LDB (R186). -/
def performLdb (s : State) (core : Nat) (p : Party) (c : Cmd) (bl : Nat) : State :=
  let bt := (s.core core).mx.btype
  let l : BLatch :=
    { cols := (List.range 32).map (fun j => s.spadRead p (ldbCol c.opA c.opB j) (mxRowBytes bt))
      scales := if bt.isBfp then (List.range 32).map (fun j => s.spadRead p (ldbScale c.opB j) 32) else [] }
  s.modMx core (fun e => { e with bl := Tab.set e.bl bl l })

/-- MMQ and MMW (R188). -/
def performMm (s : State) (core : Nat) (p : Party) (c : Cmd) (bl m : Nat) (whole : Bool) : State :=
  let e := (s.core core).mx
  let cols := (List.range 32).map (bColumn (Tab.get? e.bl bl) e.btype s.fresh)
  let rows := [0, 1].flatMap (fun h => (mmRows whole c.mask h).map (fun x => (x.r, aRow s p e.atype c h x)))
  let t := (s.saveAcc core c m).refresh
  let t1 := t.modMx core (fun e0 => rows.foldl (fun x r => accRow e.atype e.btype m r.1 r.2 cols x) e0)
  if whole then
    t1.modMx core (fun x => { x with passes := x.passes + ([0, 1].filter (fun h => halfMask c.mask h != 0)).length })
  else t1.modMx core (fun x => fuseQuarters (fuseQuarters x c bl m 0) c bl m 1)

/-- The rows a whole-accumulator command takes (R187). -/
def takenRows (c : Cmd) : List (Nat × Nat) := [0, 1].flatMap (fun h => (mmRows true c.mask h).map (fun x => (h, x.r)))

/-- Rows of an accumulator set to +0. -/
def MxEngine.zeroRows (e : MxEngine) (m : Nat) (rs : List Nat) : MxEngine :=
  { e with acc := e.acc.filter (fun x => !(x.1 / 2048 == m && rs.contains (x.1 / 32 % 64))) }

/-- The element STACC writes (R191): its code. -/
def staccElem (fpc : Word) (ty : ETy) (rm : RMode) (scale acc : Nat) (d : DrawAt) (e : Nat) : Nat :=
  let x := (fp32.value acc).mul (fp32.value scale)
  if ty.isInt then toInt ty x rm (fun _ => draw8 d e)
  else roundTo (fmtOf ty) x rm { ovf := fpcOvf fpc, fres := false } (fun _ => draw8 d e)

/-- One row STACC writes. DEDUCED (Log 95): the draws of the second hardware wave of a 64-lane group take lane 32 + r div 2, since the rows of its
submission are those of its lanes 32 to 63 (R45); R191 states L = r div 2 for one wave. -/
def staccOne (core : Nat) (p : Party) (c : Cmd) (m : Nat) (s : State) (x : Nat × Nat) : State :=
  let lane := 32 * x.1 + (lowest (halfMask c.mask x.1)).getD 0
  let b := laneAt c.b lane
  match staccType b, Rm.ofCode (bits b.toNat 55 53) with
  | some ty, some rm =>
    let d : DrawAt := { seed := fpcSeed c.fpc, t := c.t, slot := c.slot, lane := 32 * x.1 + x.2 / 2 }
    let es := (List.range 32).map (fun n =>
      staccElem c.fpc ty (Rm.mode rm c.fpc) (bits b.toNat 31 0) ((s.core core).mx.elem m x.2 n).toNat d (32 * (x.2 % 2) + n))
    let t := s.spadWrite p (staccRow (laneAt c.a lane) b x.2) (bytesOf (4 * ETy.width ty) (packNat (ETy.width ty) es))
    if b.getLsbD 56 then t.modMx core (fun e => e.zeroRows m [x.2]) else t
  | _, _ => s

/-- STACC (R191). -/
def performStacc (s : State) (core : Nat) (p : Party) (c : Cmd) (m : Nat) : State :=
  let clears := [0, 1].any (fun h => halfMask c.mask h != 0 && (laneAt c.b (32 * h + (lowest (halfMask c.mask h)).getD 0)).getLsbD 56)
  (takenRows c).foldl (staccOne core p c m) (if clears then s.saveAcc core c m else s)

/-- RDACC's entry (R192). -/
def rdaccLane (e : MxEngine) (m rb L : Nat) : Lane :=
  packLane 32 ((List.range 4).map (fun i => (e.elem m (4 * rb + L % 32 / 8) (4 * (L % 8) + i)).toNat))

/-- KSig (R193). -/
def kSig (e : MxEngine) (m : Nat) : Word :=
  (List.range 2048).foldl (fun sg i => sg ^^^ ((e.elem m (i / 32) (i % 32)).zeroExtend 64).rotateLeft (i % 64)) 0

/-- The MX status word (Table 6.3). -/
def mxStatus (e : MxEngine) (depth : Nat) : Lane :=
  BitVec.ofNat 128 (e.passes % 2 ^ 64 * 2 ^ 64 + min e.errs 0xFFFF * 2 ^ 48 + depth % 2 ^ 8 * 2 ^ 40 + e.btype.code * 2 ^ 8 + e.atype.code)

/-- A detected error of a core's matrix engine is counted (R193, R194). -/
def State.countMxErr (s : State) (core : Nat) : State := s.modMx core (fun e => { e with errs := min (e.errs + 1) 0xFFFF })

/-- A later submission of the same trigger is in the queue (R45). -/
def Core.mxMore (k : Core) (id : Nat) : Bool := k.mxq.any (fun d => d.id == id)

/-- A submission answers in its lanes of its trigger's entry, in the wave's queues or in the parked ones (R40); with the last one the entry is ready (R45), and, of QSTAT, forwarded (R319). -/
def State.deliverMx (s : State) (core : Nat) (w : Wave) (c : Cmd) (fwd : Bool) (vals : List Lane) : State :=
  let held := fun (io : WaveIo) => (io.queue .mx).find? (fun e => e.id == c.id)
  let old := match (held w.io).orElse (fun _ => w.parked.bind held) with
    | some e => e.vals
    | none => []
  let all := (List.range w.phys).map (fun L => if c.mask.getLsbD L then laneAt vals L else laneAt old L)
  if (s.core core).mxMore c.id then s.deliver c .pending all else if fwd then s.deliverFwd c .ready all else s.deliver c .ready all

/-- An MX submission is performed at its place, the head of the queue: the state after it, and whether a KAT found a mismatch. None where a trailing
twin waits for a forwarded entry, which the last submission takes (R319). -/
def performMx (s : State) (core : Nat) (c : Cmd) : Option (State × Bool) :=
  match s.party? c.party, s.wave? c.wave with
  | some p, some w =>
    let t := s.modCore core (fun k => { k with mxq := k.mxq.erase c })
    let other := fun (u : State) => u.modMx core (fun e => closePasses e c)
    match c.op with
    | .mxCfg => some ((other t).modMx core (fun e => match mxConfig c.opA with
        | some g => { e with atype := g.1, btype := g.2 }
        | none => e), false)
    | .mxLdb bl => some (performLdb (other t) core p c bl, false)
    | .mxMmq bl m => some (performMm t core p c bl m false, false)
    | .mxMmw bl m => some (performMm (other t) core p c bl m true, false)
    | .mxZacc m => some (((other t).saveAcc core c m).modMx core (fun e => e.zeroRows m ((takenRows c).map (·.2))), false)
    | .mxStacc m => some (performStacc (other t) core p c m, false)
    | .mxRdacc m =>
      let e := (s.core core).mx
      some ((other t).deliverMx core w c false ((List.range w.phys).map (rdaccLane e m (bits c.opB.toNat 3 0))), false)
    | .mxKat =>
      let m := bits c.opB.toNat 3 0
      let sig := kSig (s.core core).mx m
      let ok := decide (bits sig.toNat 39 0 = bits c.opA.toNat 39 0)
      let t1 := (other t).deliverMx core w c false (sameLanes w.phys (BitVec.ofNat 128 (sig.toNat + ok.toNat * 2 ^ 64)))
      let t2 := if c.opB.getLsbD 4 then (t1.saveAcc core c m).modMx core (fun e => e.zeroRows m (List.range 64)) else t1
      some (if ok then t2 else t2.countMxErr core, !ok)
    | .mxQstat =>
      match w.trails, w.fwdFor c with
      | true, f => if (t.core core).mxMore c.id then some (other t, false) else f.map (fun x => ((other t).takeFwd c x, false))
      | false, _ =>
        let x := if p.matrix then mxStatus (s.core core).mx (min 31 (t.core core).mxq.length) else 0
        some ((other t).deliverMx core w c true (sameLanes w.phys x), false)
    | _ => none
  | _, _ => none

/-! GA commands. -/

/-- A saturating 32-bit count. -/
def sat32 (n : Nat) : Nat := min n (2 ^ 32 - 1)

/-- The counts of a gather (R195, R198). -/
def State.countGa (s : State) (c : Cmd) : State :=
  let ls := lanesOf c.mask
  let out := (ls.filter (fun L => decide (gaCount c.opB ≤ gaIndex (laneAt c.a L)))).length
  s.modParty c.party (fun p => { p with gaOut := sat32 (p.gaOut + out), gaDone := sat32 (p.gaDone + (ls.length - out)) })

/-- The bytes a lane gathers: zeros where its index is out of range (R195). -/
def gaRow (s : State) (p : Party) (c : Cmd) (n L : Nat) : List Byte :=
  let i := gaIndex (laneAt c.a L)
  if i < gaCount c.opB then s.spadRead p (gaBase c.opB + i * gaStride c.opB) n else bytesOf n 0

/-- A GA command is performed. None where a trailing twin waits for a forwarded entry. DESIGN CHOICE (Log 96): GROWS takes its lanes in increasing order,
each row read after the rows before it are written; R197 states no order, which rows that overlap each other or the table would show. -/
def performGa (s : State) (core : Nat) (c : Cmd) : Option State :=
  match s.party? c.party, s.wave? c.wave with
  | some p, some w =>
    let t := s.modCore core (fun k => { k with gaq := k.gaq.filter (fun d => d.id != c.id) })
    match c.op with
    | .gaGidx =>
      some ((t.countGa c).deliver c .ready ((List.range w.phys).map (fun L =>
        if c.mask.getLsbD L then BitVec.ofNat 128 (ofBytes (gaRow s p c 16 L)) else 0)))
    | .gaGrows =>
      let n := gaRowBytes c.opC
      let t1 := (lanesOf c.mask).foldl (fun u L => u.spadWrite p (gaDbase c.opC + L * gaDstride c.opC) (gaRow u p c n L)) t
      some ((t1.countGa c).deliver c .ready ((List.range w.phys).map (fun L =>
        if gaIndex (laneAt c.a L) < gaCount c.opB then 1 else 0)))
    | .gaGstat =>
      match w.trails, w.fwdFor c with
      | true, some f => some (t.takeFwd c f)
      | true, none => none
      | false, _ => some (t.deliverFwd c .ready (sameLanes w.phys (BitVec.ofNat 128 (p.gaDone * 2 ^ 32 + p.gaOut))))
    | _ => none
  | _, _ => none

/-! SF commands. -/

/-- An SF command is performed (R217). -/
def performSf (s : State) (core : Nat) (c : Cmd) : Option State :=
  match s.wave? c.wave, c.op with
  | some w, .sf f ty =>
    let t := s.modCore core (fun k => { k with sfq := k.sfq.filter (fun d => d.id != c.id) })
    some (t.deliver c .ready ((List.range w.phys).map (fun L =>
      if c.mask.getLsbD L then mapElems (ETy.width ty) (fun i => sfElem f ty c.fpc (elem (ETy.width ty) (laneAt c.a L) i)) else 0)))
  | _, _ => none

end Sys2Proof.Machine
end

