-- ==== Sys2Proof/Machine/AtHome.lean ====
section
/-!
DEFINITION. Atomics at their home (R155 to R159, R268), the SC operations (R153, R154, R269), and the ends of acquires and drains
(R163 to R165).
-/
namespace Sys2Proof.Machine

/-- NewValue(op, old, C) of Table 5.5, for w-bit operands. -/
def newValue (o : AtOp) (aw : AtW) (old : Nat) (c : Lane) : Nat :=
  let w := 8 * atBytes aw
  let x := bits c.toNat (w - 1) 0
  match o with
  | .add => (old + x) % 2 ^ w
  | .sub => (old + 2 ^ w - x) % 2 ^ w
  | .min => if sint w x < sint w old then x else old
  | .max => if sint w old < sint w x then x else old
  | .minu => min old x
  | .maxu => max old x
  | .and => old &&& x
  | .or => old ||| x
  | .xor => old ^^^ x
  | .xchg => x
  | .cas => if old = bits c.toNat (64 + w - 1) 64 then x else old
  | .inc => if x ≤ old then 0 else old + 1
  | .fadd =>
    let f := fmtOf (if aw = .bf16 then .bf16 else .f32)
    roundTo f ((f.value old).add (f.value x) .rne) .rne RoundOpts.none noDraw

/-- The lanes of one request, in increasing order: the value after them, and what each returns (R156). -/
def atFold (o : AtOp) (aw : AtW) : List (Nat × Lane) → Nat → Nat × List (Nat × Nat)
  | [], v => (v, [])
  | (L, c) :: t, v =>
    let r := atFold o aw t (newValue o aw v c)
    (r.1, (L, v) :: r.2)

/-- The writes that stand at home in the bytes of an address, each byte's latest (R268). -/
def State.latestAt (s : State) (pa n : Nat) : List Nat :=
  (List.range n).filterMap (fun i =>
    (s.hist.find? (fun a => a.gran == (pa + i) / 16 && a.ben.getLsbD ((pa + i) % 16))).map (fun a => a.wid))

/-- The byte enables of an operand of n bytes within its granule. -/
def operandBen (pa n : Nat) : BitVec 16 := maskOf (fun i => decide (pa % 16 ≤ i) && decide (i < pa % 16 + n)) |>.truncate 16

/-- One request applied indivisibly at a home of this package (R156): the state, what each lane returns, and the writes that a requester
on this package has now seen. -/
def applyAt (s : State) (o : AtOp) (aw : AtW) (sc : Bool) (pa : Nat) (ls : List (Nat × Lane)) : State × List (Nat × Nat) × List Nat :=
  let n := atBytes aw
  let r := atFold o aw ls (s.homeNat pa n)
  let seen := s.latestAt pa n
  let t := { s with nextId := s.nextId + 1 }.applyHome s.nextId (pa / 16) (operandBen pa n) (BitVec.ofNat 128 (r.1 * 2 ^ (8 * (pa % 16)))) sc
  (t, r.2, s.nextId :: seen)

/-! The requester. -/

/-- An entry lane of an atomic (R158), marked done; and the lane of a request whose home found its granule poisoned. -/
def atLane (ret status : Nat) : Lane := BitVec.ofNat 128 (ret % 2 ^ 64 + status % 256 * 2 ^ 64 + 2 ^ 127)
def atPoison : Lane := BitVec.ofNat 128 (2 ^ 127 + 2 ^ 126)
/-- The lane is done. -/
def atDone (x : Lane) : Bool := x.getLsbD 127
/-- The entry lane without its marks. -/
def atEntry (x : Lane) : Lane := x &&& ~~~ (3#128 <<< 126)

/-- The active lanes not yet done. A lane that the worlds forbid makes no request, and its entry is zero (R363). -/
def Cmd.atLeft (c : Cmd) : List Nat := (lanesOf c.mask).filter (fun L => !atDone (laneAt c.b L) && !tBlocked (laneAt c.a L))

/-- Of them, those that name an address of a package (0 this one): one request (R156). -/
def Cmd.atLanes (c : Cmd) (pkg pa : Nat) : List Nat :=
  c.atLeft.filter (fun L => tPkg (laneAt c.a L) == pkg && tPa (laneAt c.a L) == pa)

/-- The requests of a command still to be made: the packages and addresses that its lanes name, without those asked already. -/
def atTodo (c : Cmd) (reqs : List AtSent) : List (Nat × Nat) :=
  c.atLeft.foldl (fun acc L =>
    let x := (tPkg (laneAt c.a L), tPa (laneAt c.a L))
    if acc.contains x || reqs.any (fun q => q.wave == c.wave && q.cmd == c.id && q.pkg + 1 == x.1 && q.pa == x.2) then acc else acc ++ [x]) []

/-- Lanes of a command marked done. -/
def Cmd.atMark (c : Cmd) (n : Nat) (vals : List (Nat × Lane)) : Cmd :=
  { c with b := (List.range n).map (fun L => Tab.getD vals L (laneAt c.b L)) }

/-- Records of a core's own survey log on the 64-byte line of an address of a package (R157). -/
def ownLine (pkg pa : Nat) (r : Rec) : Bool := !r.engine && r.pkg == pkg && r.gran / 4 == pa / 64

/-- A record covers a byte of an operand of n bytes at an address. -/
def Rec.meets (r : Rec) (pkg pa n : Nat) : Bool :=
  r.pkg == pkg && r.gran == pa / 16 && (List.range n).any (fun i => r.ben.getLsbD (pa % 16 + i))

/-- What stands at home before an atomic of a core on an operand is performed: the core's own line, ahead of the order of its log (R157, R264), what
the core's horizon holds of the operand (R265), and, for an SC write with stamp a, what marks below it cover of the operand (R269). None while one
of these records cannot be applied, or a peer's record of a lower mark waits here. -/
def drainFor (s : State) (core pkg pa n : Nat) (sc : Option Nat) : Option State :=
  let own := ((s.core core).log.filter (ownLine pkg pa)).map (fun r => r.wid)
  let below := fun (r : Rec) => match sc, r.stamp with
    | some a, some k => decide (k < a)
    | _, _ => false
  if pkg = 0 && sc.any (fun a => s.lowerPeer (pa / 16) (operandBen pa n) 0 a) then none
  else s.applyPend (fun r => own.contains r.wid) (fun p => own.contains p.r.wid || (p.r.meets pkg pa n &&
    (below p.r || ((s.core core).horizon.contains p.r.wid && (decide (p.ctx < 1024) || decide (p.eff < unstamped))))))

/-- A command of a wave by its number. -/
def State.cmd? (s : State) (key id : Nat) : Option (Wave × Cmd) :=
  (s.wave? key).bind (fun w => (w.cmds.find? (fun c => c.id == id)).map (fun c => (w, c)))

/-- An atomic whose lanes are all done: its entry arrives, and an acquire follows where its order asks (R157). -/
def atFinish (s : State) (w : Wave) (c : Cmd) : State :=
  let bad := (lanesOf c.mask).any (fun L => (laneAt c.b L).getLsbD 126)
  let t := if bad then s.deliverFwd c .poisoned [] else s.deliverFwd c .ready ((List.range w.phys).map (fun L => atEntry (laneAt c.b L)))
  match c.op with
  | .atm _ _ sc .acquire => if sc.code ≤ 1 then t.dropCmd c.wave c.id else t.modCmd c.wave c.id (fun d => { d with st := stageSt 5 0 })
  | .atm _ _ _ .sc => t.modCmd c.wave c.id (fun d => { d with st := stageSt 5 0 })
  | _ => t.dropCmd c.wave c.id

/-- If every lane of an atomic is done it finishes. -/
def atSettle (s : State) (key id : Nat) : State :=
  match s.cmd? key id with
  | some (w, c) => if c.atLeft.isEmpty && c.isAt then atFinish s w c else s
  | none => s

/-- Lanes of a command are done with entries; the command may finish. -/
def State.atLanesDone (s : State) (w : Wave) (c : Cmd) (vals : List (Nat × Lane)) : State :=
  atSettle (s.modCmd c.wave c.id (fun d => d.atMark w.phys vals)) c.wave c.id

/-- A request to a home of this package (R156, R268); none while records ahead of it cannot be applied. -/
def atLocal (s : State) (w : Wave) (c : Cmd) (o : AtOp) (aw : AtW) (sc : Option Nat) (pa : Nat) : Option State :=
  let ls := c.atLanes 0 pa
  if isHbm pa && s.poisoned pa then some (s.atLanesDone w c (ls.map (fun L => (L, atPoison))))
  else
    (drainFor s w.core 0 pa (atBytes aw) sc).map (fun t =>
      let r := applyAt t o aw sc.isSome pa (ls.map (fun L => (L, laneAt c.c L)))
      (((r.1.join w.core r.2.2).settleStamp (sc.getD 0)).served (r.1.tractOf pa) w.core (atBytes aw)).atLanesDone w c (r.2.1.map (fun e => (e.1, atLane e.2 0))))

/-- A free tag of a core's window for a home (R159). -/
def freeTag (c : Core) (pkg now : Nat) : Option Nat :=
  (List.range 4096).find? (fun t => !c.tags.any (fun x => x.1 == pkg && x.2.1 == t && decide (now < x.2.2 + Config.cycles2ms)))

/-- A request to a home on another package: sent under a tag of its own, UNSENT where no route exists, or none while the window is full or records
ahead of it cannot be applied (R159). -/
def atSend (s : State) (w : Wave) (c : Cmd) (n pkg pa : Nat) (sc : Option Nat) : Option State :=
  let p := pkg - 1
  if !s.reachable p then some (s.atLanesDone w c ((c.atLanes pkg pa).map (fun L => (L, atLane 0 3))))
  else
    (freeTag (s.core w.core) p s.cycle).bind (fun tag => (drainFor s w.core pkg pa n sc).map (fun t =>
      let u := t.modCore w.core (fun k =>
        { k with
          tags := (p, tag, s.cycle) :: k.tags.filter (fun x => !(x.1 == p && x.2.1 == tag))
          reqs := k.reqs ++ [{ wave := c.wave, cmd := c.id, pkg := p, tag := tag, pa := pa, time := s.cycle, lost := false }] })
      u.send p (pa / 64) (.atReq p tag c.wave c.id pa)))

/-- The publication of an atomic stands, or it makes none (R157, R162). -/
def relReady (s : State) (c : Cmd) (sc : Scope) (ord : AOrd) : Bool :=
  let stands := c.st.stage.1 == 1 && s.markStands c.st.stage.2
  match ord with
  | .relaxed | .acquire => c.st == .queued
  | .release => if sc.code ≤ 1 then c.st == .queued else stands
  | .sc => stands

/-- The publication of an atomic is made: a mark it then waits for (R154, R157); without room in a table it waits (R261). -/
def relStart (s : State) (w : Wave) (c : Cmd) (scope : Nat) : State :=
  if s.waveHeld w c.wave then s
  else if s.canMark scope w.core then
    let r := s.takeMark w.core { scope := scope, launch := w.launch, engine := false, hor := (s.core w.core).horizon } 0 []
    r.2.modCmd c.wave c.id (fun d => { d with st := stageSt 1 r.1.id })
  else (s.noteWait scope w.core (.cmd c.id)).getD s

/-- What a wave's atomic does next: its publication, one of its requests, or its end (R156 to R159). -/
def atOwn (s : State) (w : Wave) (c : Cmd) (req : Option (Nat × Nat)) : State :=
  match c.op with
  | .atm o aw sc ord =>
    if !w.canPerform c || w.trails then s
    else if !relReady s c sc ord then
      (if c.st == .queued && ord == .release then relStart s w c sc.code else s)
    else
      let a := if ord = .sc then (s.mark? c.st.stage.2).map (fun m => m.stamp) else none
      match req with
      | none => atSettle s c.wave c.id
      | some (0, pa) => (atLocal s w c o aw a pa).getD s
      | some (pkg + 1, pa) => (atSend s w c (atBytes aw) (pkg + 1) pa a).getD s
  | _ => s

/-- The requests that the atomics of a wave can make now, and the atomics that can end or publish. -/
def State.atReady (s : State) (w : Wave) : List (Cmd × Option (Nat × Nat)) :=
  (w.cmds.filter (fun c => c.isAt && w.canPerform c && (c.st.stage.1 == 1 || (c.st == .queued && !c.isSc)))).flatMap (fun c =>
    if c.atLeft.isEmpty then [(c, none)] else (atTodo c (s.core w.core).reqs).map (fun x => (c, some x)))

/-- The tag under which an answer of a home names a request: package, core and tag. -/
def tagKey (pkg core tag : Nat) : Nat := (pkg * 1024 + core) * 2 ^ 16 + tag

/-- The request of this package that an answer names, with its core. -/
def State.sentTo (s : State) (key : Nat) : Option (Nat × AtSent) :=
  (s.cores.flatMap (fun e => e.2.reqs.map (fun q => (e.1, q)))).find? (fun x => tagKey x.2.pkg x.1 x.2.tag == key)

/-- A request is over. -/
def State.dropReq (s : State) (core : Nat) (q : AtSent) : State :=
  s.modCore core (fun k => { k with reqs := k.reqs.filter (fun x => !(x.pkg == q.pkg && x.tag == q.tag)) })

/-- A request to another package ends with a status (R158, R159). With DONE and RECORDED the returned write and the atomic's join the core's horizon,
with the others nothing does (R268). -/
def atEnd (s : State) (core : Nat) (q : AtSent) (status : Nat) (ret : List (Nat × Word)) : State :=
  let t := if status ≤ 1 then (s.dropReq core q).joinRemote core 2 else s.dropReq core q
  match s.cmd? q.wave q.cmd with
  | some (w, c) =>
    let val := fun (L : Nat) => if status ≤ 1 then (Tab.getD ret L 0).toNat else 0
    t.atLanesDone w c ((c.atLanes (q.pkg + 1) q.pa).map (fun L => (L, atLane (val L) status)))
  | none => t

/-! The home of a peer's request (R159, R384). -/

/-- Records the tag store holds (R384). -/
def State.tagRoom (s : State) : Bool :=
  decide ((s.tagStore.filter (fun x => decide (s.cycle < x.time + Config.cycles2ms))).length < 2 ^ s.fabric.ratlog)

/-- Two receipts of one request. -/
def sameReq (a b : PeerAt) : Bool := a.pkg == b.pkg && a.core == b.core && a.tag == b.tag

/-- A peer's request waits for records of its own core's survey log on its line that wait here (R157, R264), and an SC write for records of its
operand with lower stamps (R269). -/
def peerPrepare (s : State) (r : PeerAt) : Option State :=
  if s.recHeld.any (fun x => x.pkg == r.pkg && x.core == r.core && !peerEngine x && (peerParts x).any (fun g => g.1 / 4 == r.pa / 64)) then none
  else
    match r.sc with
    | none => some s
    | some a =>
      if s.lowerPeer (r.pa / 16) (operandBen r.pa (atBytes r.w)) (r.pkg + 1) a then none
      else s.compactPend (fun p => p.r.meets 0 r.pa (atBytes r.w) && (match p.r.stamp with
        | some k => s.stampLt 0 k (r.pkg + 1) a
        | none => false))

/-- A peer's request at its home here, first received at a cycle: answered from its record, refused for poison, or performed and recorded (R159).
While the tag store is full, or lower stamps stand before it, it waits here (R384). -/
def atPeer (s : State) (since : Nat) (r : PeerAt) : State :=
  let reply := fun (t : State) (st : Nat) (ret : List (Nat × Word)) => t.send r.pkg (r.pa / 64) (.atAns r.pkg r.core r.tag st ret)
  let mine := fun (x : TagRec) => x.pkg == r.pkg && x.core == r.core && x.tag == r.tag && decide (s.cycle < x.time + Config.cycles2ms)
  if !isHbm r.pa || r.pa % atBytes r.w != 0 || s.atHeld.any (fun x => sameReq x.2 r) then s
  else
    match s.tagStore.find? mine with
    | some x => reply s 1 x.ret
    | none =>
      if s.poisoned r.pa then reply s 4 []
      else
        match (if s.tagRoom then peerPrepare s r else none) with
        | none => { s with atHeld := s.atHeld ++ [(since, r)] }
        | some u =>
          let a := applyAt u r.op r.w r.sc.isSome r.pa r.lanes
          let ret := a.2.1.map (fun e => (e.1, BitVec.ofNat 64 e.2))
          let t := a.1.tally (a.1.tractOf r.pa) 8 (atBytes r.w) none
          let rec' : TagRec := { pkg := r.pkg, core := r.core, tag := r.tag, ret := ret, time := since }
          let others := t.tagStore.filter (fun x => !(x.pkg == r.pkg && x.core == r.core && x.tag == r.tag))
          reply { t with tagStore := rec' :: others } 0 ret

/-- The requests that wait at this home are tried again, the oldest first. -/
def retryPeers (s : State) : State := s.atHeld.foldl (fun t x => atPeer t x.1 x.2) { s with atHeld := [] }

/-! Acquires and drains. -/

/-- The cores a descriptor names (R164). -/
def coreSet (s : State) (p : Party) (a : Nat) : List Nat :=
  let x := s.spadNat p a 80
  (List.range Config.numCores).filter (fun n => x.testBit n)

/-- The scope of the acquire a command makes, and the cores it names. -/
def acqScope (s : State) (c : Cmd) : Option (Nat × Option (List Nat)) :=
  match c.op with
  | .acq sc => some (sc.code, none)
  | .acqn sc => some (sc.code, (s.party? c.party).map (fun p => coreSet s p (baAddr c.opA)))
  | .ld .ldsc _ _ => some (6, none)
  | .atm _ _ _ .sc => some (6, none)
  | .atm _ _ sc .acquire => some (sc.code, none)
  | _ => none

/-- The lines of other packages' memory that a load reads, each once: package and line number. -/
def Cmd.peerLines (c : Cmd) : List (Nat × Nat) :=
  (c.loadMask.filterMap (fun L => let t := laneAt c.a L
    if tBlocked t || tPkg t == 0 || c.isSpad then none else some (tPkg t - 1, tPa t / 64))).foldl
      (fun acc x => if acc.contains x then acc else acc ++ [x]) []

/-- The packages, other than this one, whose memory a load reads. -/
def Cmd.peers (c : Cmd) : List Nat := c.peerLines.foldl (fun acc x => if acc.contains x.1 then acc else acc ++ [x.1]) []

/-- The requests of a load for lines of other packages (R148). -/
def Cmd.ldReqs (c : Cmd) : List (Nat × Nat × Wire) := c.peerLines.map (fun x => (x.1, x.2, .ldReq x.1 c.wave c.id x.2))

/-- A load may be performed: at once where its homes are here; else its requests go out, and it is performed when they are answered (R148). -/
def startLd (s : State) (c : Cmd) (k : LdKind) (sz : Sz) (sx : Bool) : State :=
  if c.peers.isEmpty then performLd s c k sz sx
  else
    (s.modCmd c.wave c.id (fun d => { d with st := .sent 0 0 s.cycle false })).sendAll c.ldReqs

/-- An acquire that waits for its stamp, its tick and its marks completes, and with it its command; the loads of an LDSC follow it (R154, R163,
R262). -/
def completeAcq (s : State) (w : Wave) (c : Cmd) : State :=
  match acqScope s c with
  | none => s
  | some (sc, named) =>
    if c.st.stage.1 = 5 then
      if s.canStamp sc then
        let r := s.takeStamp w.core
        r.2.modCmd c.wave c.id (fun d => { d with st := stageSt 2 r.1 })
      else s
    else
      let a := c.st.stage.2
      if !s.acquireReady w.core sc a named then s
      else
        let top := s.replayTop w.core sc a named
        let t := (s.replay w.core sc a named).settleStamp (if sc = 6 && named.isNone then a else 0)
        match c.op with
        | .ld k sz sx => if t.scWaits c k (szBytes sz) then s else startLd t c k sz sx
        | .atm _ _ _ _ => t.dropCmd c.wave c.id
        | _ => (t.dropCmd c.wave c.id).deliverFwd c .ready (sameLanes w.phys (BitVec.ofNat 128 top))

/-- The records a DRAIN covers: those of the survey log below a number, and those of the engine log that no command still running then appended
(R165). -/
def drainCovers (upTo : Nat) (running : List Nat) (r : Rec) : Bool := decide (r.wid < upTo) && !(r.engine && running.contains r.cmd)

/-- What an LG.DRAIN has to go on with: how many records it has applied, and the commands that ran when it was performed. -/
def Cmd.drainGot (c : Cmd) : Nat × List Nat := match c.got with
  | some (n, _, l) => (n, l)
  | none => (0, [])

/-- LG.DRAIN goes on: the records it covers are applied in log order; at one that is held for its twin, or that no route takes to its home, it waits.
It ends when every one is applied (R165, R276). -/
def completeDrain (s : State) (w : Wave) (c : Cmd) : State :=
  let g := c.drainGot
  let rs := (s.core w.core).log.filter (drainCovers c.st.stage.2 g.2)
  let r := State.drainList (rs.map (fun x => x.wid)) s
  let n := g.1 + (rs.filter (fun x => !s.lost x && !(r.1.core w.core).log.any (fun y => y.wid == x.wid))).length
  if r.2 then (r.1.dropCmd c.wave c.id).deliverFwd c .ready (sameLanes w.phys (BitVec.ofNat 128 n))
  else r.1.modCmd c.wave c.id (fun d => { d with got := some (n, none, g.2) })

/-! SC operations (R153, R154, R269). -/

/-- The SC operation a core takes next: the one pushed earliest. A trailing twin's is its leader's. -/
def nextSc (s : State) (core : Nat) : Option (Wave × Cmd) :=
  ((s.coreCmds core).filter (fun x => x.2.isSc && !x.1.trails)).head?

/-- STSC publishes its core's log tail at SYSTEM scope; it is performed when its mark stands and every record of the mark is applied at home, after
those of lower marks (R154, R264, R269). -/
def publishStsc (s : State) (w : Wave) (c : Cmd) : State :=
  let r := s.takeMark w.core { scope := 6, launch := w.launch, engine := false, hor := (s.core w.core).horizon } 0 []
  r.2.modCmd c.wave c.id (fun d => { d with st := stageSt 8 r.1.id })

/-- One SC operation at an owned position of the compass wheel (R153, R154). A leading twin's STSC first appends its records, and takes a position
once its trailing twin has confirmed them (R320). -/
def performSc (s : State) (core : Nat) : State :=
  match nextSc s core with
  | none => s
  | some (w, c) =>
    let appended := c.st.stage.1 == 6
    if !s.ownsPos core s.wheelPos || (s.core core).lastSc == some s.cycle || s.cycle ≤ c.pushed || !w.canPerform c || !s.canStamp 6 ||
        !(c.st == .queued || appended) || s.waveHeld w c.wave then s
    else
      let full := (s.noteWait 6 core (.cmd c.id)).getD s
      let done := fun (t : State) => (t.modCore core (fun k => { k with lastSc := some s.cycle })).tally (core / 40) 15 (s.cycle - c.pushed) (some core)
      match c.op with
      | .ld .ldsc _ _ =>
        let r := s.takeStamp core
        done (r.2.modCmd c.wave c.id (fun d => { d with st := stageSt 2 r.1 }))
      | .st .stsc _ =>
        if appended then (if s.markRoom 6 core then done (publishStsc s w c) else full)
        else if !(s.core core).roomFor (storeRecs c).length then s
        else if w.twin.isSome then (appendAll s c StKind.stsc.code).modCmd c.wave c.id (fun d => { d with st := stageSt 6 s.nextId })
        else if s.markRoom 6 core then done (publishStsc (appendAll s c StKind.stsc.code) w c)
        else full
      | .atm _ _ _ _ => if s.markRoom 6 core then done (relStart s w c 6) else full
      | _ => s

end Sys2Proof.Machine
end

