-- ==== Sys2Proof/Machine/Resil.lean ====
section
/-!
DEFINITION. Segments, checkpoints, rollback and the double re-run (R236, R309 to R318), twins (R319 to R325), and retirement (R328, R404).
-/
namespace Sys2Proof.Machine

/-- Resilience and launch fault codes (Tables 11.2 and 14.6). -/
def codeSegDiverge : Nat := 0x40
def codeSegDrained : Nat := 0x41
def codeLogLost : Nat := 0x42
def codeTwinDiverge : Nat := 0x43
def codeCoreRetired : Nat := 0x44
def codeWaypoint : Nat := 0x45
def codeHaltTimeout : Nat := 0x46

/-- A fault of a launch that no trap raises (Tables 11.2 and 14.6), with its field-book record (R318). No bundle is named
for such a fault: the pc and the slot of the record are free (Log 21). -/
def State.faultLaunch (s : State) (l cause core : Nat) : State :=
  match s.launch? l with
  | none => s
  | some x =>
    if x.completed then s
    else (s.fb { cls := 1, code := cause, addr := 0, detail := s.faultFree core 56 * 256 + s.faultFree core 5, vi := some x.vi,
                  core := some core }).launchFault l cause core

/-! Segment entries (R236, R311, R312). -/

/-- A segment entry: SSIG zero, the checkpoint taken, the records of earlier segments no longer open. -/
def enterSegment (s : State) (key : Nat) : State :=
  match s.wave? key with
  | none => s
  | some w =>
    let v : Wave :=
      { w with
        seg := w.seg + 1
        segBundles := 0
        ssig := 0
        segEntry := false
        rerun := .none
        recovering := if w.twin.isSome then false else w.recovering
        drained := false
        twinFails := 0
        compared := 0 }
    let k : Ckpt := { wave := v, seq := (s.core w.core).seq, acc := [] }
    let shut := fun (r : Rec) => if r.wave == key && !r.engine then { r with isOpen := false } else r
    ({ s with ckpts := Tab.set s.ckpts key k }.setWave key v).modCore w.core (fun c => { c with log := c.log.map shut })

/-- A segment entry of a wave; twins, who have waited for each other, take their checkpoints together (R322). -/
def enterBoth (s : State) (key : Nat) : State :=
  match (s.wave? key).bind (fun w => w.twin) with
  | some (o, _) => enterSegment (enterSegment s key) o
  | none => enterSegment s key

/-- The entry at which a wave stands has been made, and its bundle not been performed: it is not made a second time (R314, R322, R323). -/
def State.entered (s : State) (key : Nat) (w : Wave) : Bool :=
  match Tab.get? s.ckpts key with
  | some k => w.segBundles == 0 && k.wave.atSame w
  | none => false

/-! Rollback (R314). -/

/-- The commands of a wave's open segment, by wave and segment. -/
def ofSegment (key : Nat) (w : Wave) (k seg : Nat) : Bool := k == key && seg == w.seg

/-- Accumulators return to what a checkpoint holds of them. -/
def MxEngine.restore (e : MxEngine) (k : Ckpt) : MxEngine :=
  let held := fun (m : Nat) => (Tab.get? k.acc (accNote m)).isSome
  { e with acc := k.acc.filter (fun x => decide (x.1 < 2 ^ 16)) ++ e.acc.filter (fun x => !held (x.1 / 2048)) }

/-- A wave's memory command that has begun and goes on to its end. One that waits for a barrier, or for the compare of its own records, has not
been performed. -/
def Cmd.goesOn (c : Cmd) : Bool := c.st != .queued && !c.isBa && c.st.stage.1 != 6

/-- The wave as its checkpoint has it, with what rollback does not take back: its place in the machine, the commands pushed before the
entry or being performed, its party's and its twin's bookkeeping, and, where no bundle of the segment has issued, the holds that stand since the
bundle before it. -/
def Ckpt.restored (k : Ckpt) (w : Wave) (gone : List Nat) : Wave :=
  { k.wave with
    cmds := w.cmds.filter (fun c => c.seg != w.seg || c.goesOn)
    inSet := w.inSet
    age := w.age
    stalled := w.stalled
    pendSince := w.pendSince
    hold := if w.segBundles = 0 then w.hold else .none
    evcHold := if w.segBundles = 0 then w.evcHold else none
    carried := false
    unpub := w.unpub
    recovering := true
    drained := w.drained
    twin := w.twin
    twinFails := w.twinFails
    fwd := w.fwd.filter (fun f => f.seg != w.seg)
    folds := w.folds.filter (fun f => if w.trails then f.1 != w.seg else !gone.contains f.1)
    escapes := []
    issued := w.issued
    trapDue := []
    walkBad := none
    errSeq := w.errSeq }

/-- SEQ of the next record once some have been truncated: it goes back over those that were appended last (Table 11.3), and so names no record that
another wave has appended. -/
def seqBack (cut : List Nat) : Nat → Nat → Nat
  | 0, n => n
  | k + 1, n => if 0 < n ∧ cut.contains (n - 1) then seqBack cut k (n - 1) else n

/-- Rollback of a wave to its checkpoint (R314). The records of its segment still in the log are truncated. -/
def rollback (s : State) (key : Nat) : State :=
  match s.wave? key, Tab.get? s.ckpts key with
  | some w, some k =>
    let cut := fun (r : Rec) => r.wave == key && r.seg == w.seg && !r.engine
    let off := (s.core w.core).log.filter cut
    let gone := off.map (fun r => r.wid)
    let t := s.quiesce w.core w.party (ofSegment key w)
    let u := t.modCore w.core (fun c =>
      { c with
        log := c.log.filter (fun r => !cut r)
        seq := seqBack (off.map (fun r => r.seq)) off.length c.seq
        mx := c.mx.restore k })
    u.setWave key (k.restored w gone)
  | _, _ => s

/-! Retirement. -/

/-- SEQ of the newest record in the ring of a die (R400). -/
def State.lastSeq (s : State) (die : Nat) : Nat := ((Tab.getD s.fieldBook (die % 4) FbRing.empty).seq + 2 ^ 22 - 1) % 2 ^ 22

/-- A core is retired (R328, R404): it is first compacted (R276), it leaves every partition, its launches fault, and the field book records it, with SEQ
prev of the event that caused it. The launches of contexts saved from it fault too, since no other core can resume them. -/
def retireCore (s0 : State) (core code : Nat) (cause : Option Nat) (prev : Nat) : State :=
  let s := compactCore s0 core
  let drop := fun (v : Vi) => { v with cores := v.cores.filter (· != core) }
  let m : Mgmt := { s.mgmt with retmap := if s.mgmt.retmap.contains core then s.mgmt.retmap else core :: s.mgmt.retmap }
  let t : State := { s with mgmt := m, vis := s.vis.map (fun e => (e.1, drop e.2)) }
  let t1 := t.fb { cls := 4, code := code, addr := 0, detail := prev, vi := cause.bind t.launchVi, core := some core }
  let here := (t1.waves.filter (fun e => e.2.core == core)).map (fun e => e.2.launch) ++
    (t1.parties.filter (fun e => e.2.core == core && !e.2.ended)).map (fun e => e.2.launch)
  let own := match cause with
    | some l => if code = codeSegDiverge ∨ code = codeLogLost then t1.faultLaunch l code core else t1
    | none => t1
  here.foldl (fun u l => if cause = some l ∧ (code = codeSegDiverge ∨ code = codeLogLost) then u
    else u.faultLaunch l codeCoreRetired core) own

/-! Detected errors (R313 to R315, R323, R324). -/

/-- The field-book record of an uncorrectable error in a core: its site is the register file or the SRAM, which the error itself decides
(Table 17.4). -/
def State.noteError (s : State) (w : Wave) (rolled : Bool) : State :=
  let site := 1 + (Config.freeBits (2 ^ 98 + s.fresh)).toNat % 2
  s.refresh.fb { cls := 3, code := site, addr := 0, detail := rolled.toNat * 2, vi := s.launchVi w.launch, core := some w.core }

/-- TWIN_DIVERGE (R324): two field-book parts, and the launch faults. -/
def twinDiverge (s : State) (w v : Wave) (k : Nat) (entry : BitVec 56) : State :=
  let vi := s.launchVi w.launch
  let p0 : FbEvent := { cls := 1, code := codeTwinDiverge, addr := 0, detail := w.pc.toNat * 256 + s.faultFree w.core 5, vi := vi,
                        core := some w.core }
  let p1 : FbEvent := { p0 with addr := entry.toNat, detail := k * 1024 + v.core }
  (s.fbParts [p0, p1]).launchFault w.launch codeTwinDiverge w.core

/-- A mismatch of a twin pair (R323, R324): both roll back to their common checkpoint and run again once; the second at one checkpoint faults the
launch. A segment of which a log-full drain has applied records is not rewound (R259). The numbers of their bundles go on from the higher of the two. -/
def twinMismatch (s : State) (key other idx : Nat) : State :=
  match s.wave? key, s.wave? other with
  | some w, some v =>
    if 1 ≤ w.twinFails ∨ 1 ≤ v.twinFails then
      let entry := match Tab.get? s.ckpts key with
        | some k => k.wave.pc
        | none => w.pc
      twinDiverge s w v idx entry
    else if w.drained ∨ v.drained then s.faultLaunch w.launch codeSegDrained w.core
    else
      let bump := fun (x : Wave) => { x with twinFails := x.twinFails + 1, issued := max w.issued v.issued }
      ((rollback (rollback s key) other).modWave key bump).modWave other bump
  | _, _ => s

/-- A mismatch of two twins is followed by a rollback. -/
def State.rewinds (s : State) (key other : Nat) : Bool :=
  match s.wave? key, s.wave? other with
  | some w, some v => decide (w.twinFails = 0) && decide (v.twinFails = 0) && !w.drained && !v.drained
  | _, _ => false

/-- A wave whose segment is closed takes its entry first: no bundle of the next segment has been performed. Twins take theirs where both stand at
it; else the error lies in the segment that both are still in. -/
def openSegment (s : State) (key : Nat) : State :=
  match s.wave? key with
  | none => s
  | some w =>
    if !(w.segEntry || (Tab.get? s.ckpts key).isNone) then s
    else
      match w.twin with
      | none => enterSegment s key
      | some (o, _) => match s.wave? o with
        | some v => if (v.segEntry || (Tab.get? s.ckpts o).isNone) && v.atSame w then enterBoth s key else s
        | none => s

/-- A detected error of a wave (R313): rollback and run A, or what ends the launch. -/
def detectError (s0 : State) (key : Nat) : State :=
  let s := openSegment s0 key
  match s.wave? key with
  | none => s
  | some w =>
    match w.twin with
    | some (o, _) => twinMismatch (s.noteError w (s.rewinds key o)) key o 0
    | none =>
      if w.drained then (s.noteError w false).faultLaunch w.launch codeSegDrained w.core
      else
        if w.rerun ≠ .none then
          let t := s.noteError w false
          retireCore t w.core codeSegDiverge (some w.launch) (t.lastSeq (w.core / 160))
        else
          let t := s.noteError w true
          (rollback t key).modWave key (fun v => { v with rerun := .a, errSeq := t.lastSeq (w.core / 160) })

/-- A run of a re-run segment stands at its end point (R315). -/
def endRun (s : State) (key : Nat) : State :=
  match s.wave? key with
  | none => s
  | some w =>
    match w.rerun with
    | .none => s
    | .a => (rollback s key).modWave key (fun v => { v with rerun := .b w.segBundles w.ssig })
    | .b n sig =>
      if w.segBundles = n ∧ w.ssig = sig then s.modWave key (fun v => { v with rerun := .none, recovering := false })
      else retireCore s w.core codeSegDiverge (some w.launch) w.errSeq

/-! Twin compares (R320). -/

/-- A wave has no store whose records are still to be appended. -/
def Wave.storesDone (w : Wave) : Bool := !w.cmds.any (fun c => c.isSt && !c.isSts)

/-- A twin has passed the bundle at which the other trapped: the two no longer do the same (DESIGN CHOICE, Log 97). -/
def Wave.trapPassed (w : Wave) : Bool := w.trapDue.any (fun e => decide (e.1 < w.issued))

/-- Two twins at the same place, whose stores are done, have not appended the same number of records. -/
def unevenRecords (w v : Wave) : Bool := v.atSame w && w.storesDone && v.storesDone && (w.folds.isEmpty != v.folds.isEmpty)

/-- The heads of the two compare buffers (R320, R323, R325). -/
def compareRecords (s : State) (key : Nat) : State :=
  match s.wave? key with
  | none => s
  | some w =>
    match w.twin with
    | some (o, true) =>
      if w.trapPassed || ((s.wave? o).map Wave.trapPassed).getD false || ((s.wave? o).map (unevenRecords w)).getD false then
        twinMismatch s key o w.compared
      else
      match w.folds, (s.wave? o).map (fun v => v.folds) with
      | (id, f) :: t, some ((_, g) :: u) =>
        if f = g then
          let t1 := s.modCore w.core (fun c => { c with log := c.log.map (fun r => if r.wid = id then { r with held := false } else r) })
          (t1.modWave key (fun x => { x with folds := t, compared := x.compared + 1 })).modWave o (fun x => { x with folds := u })
        else twinMismatch s key o w.compared
      | _, _ => s
    | _ => s

end Sys2Proof.Machine
end

