-- ==== Sys2Proof/Machine/Fetch.lean ====
section
/-!
DEFINITION. From the PC to a bundle that can be performed: the fetch through the code cache (R230, R250, R275, R286), the decode checks
in their order (R108), segment entries and end points (R236, R315), and what stands around the moves of a bundle (R18, R98, R310).
-/
namespace Sys2Proof.Machine

/-- Why a wave's next bundle does not issue: it stalls; it waits for a translation, of its own address or of a lane's; it stands at the
end point of a re-run; it is a leading twin at an escaping bundle that its trailing twin has not matched (R321); it traps. -/
inductive Stop
  | hold
  | walkFetch (va : Nat)
  | walkLane (slot lane va : Nat)
  | endPoint
  | escape (e : Escape)
  | trap (t : Trap)
  deriving DecidableEq, Repr

/-- A fetch fault of an address (Table 7.7). -/
def fetchTrap (cause va : Nat) : Trap := { cause := cause, slot := 6, lane := 0, addr := va, code := 0 }

/-! The fetch. -/

/-- The edition a launch is bound to (R285). -/
def State.editionOf (s : State) (l : Launch) : Option Edition :=
  s.editions.find? (fun e => e.handle == l.handle && e.number == l.edition)

/-- The 64 KiB page of its text in which a bundle lies. -/
def textPage (l : Launch) (pc : Nat) : Option Nat := if l.textBase ≤ pc then some ((pc - l.textBase) / 2048) else none

/-- A page of the text of an edition (R286): not there, present, failed, or not loaded yet. -/
inductive PageSt
  | outside
  | present
  | failed
  | absent
  deriving DecidableEq, Repr

/-- The state of the page of a bundle. -/
def State.pageOf (s : State) (l : Launch) (pc : Nat) : PageSt :=
  match s.editionOf l, textPage l pc with
  | some e, some n =>
    if !e.pages.any (fun x => x.1 == n) then .outside
    else if e.failedPages.any (fun x => x.1 == n) then .failed
    else if e.loaded.contains n then .present
    else .absent
  | _, _ => .outside

/-- The tag of a bundle in a code cache: physical address, interface, address space, bundle number. -/
def cacheKey (l : Launch) (pa pc : Nat) : Nat := ((pa * 2 ^ 8 + l.vi) * 2 ^ 16 + l.asid) * 2 ^ 56 + pc

/-- A bundle from home memory and the records of the core's horizon other than its own log's (R275). -/
def readBundle (s : State) (core pa pkg : Nat) : Bundle × State :=
  let own := (s.ownLogs core).map (fun r => r.wid)
  let hor := (s.core core).horizon.filter (fun x => !own.contains x)
  if pkg = 0 then (BitVec.ofNat 256 (ofBytes (s.seenBytes hor 0 pa 32).1), s.served (s.tractOf pa) core 32)
  else (BitVec.ofNat 256 (ofBytes (s.remoteBytes hor pa pkg 32 s.fresh)), s.refresh)

/-- The bundle at a physical address: what the core's code cache holds, or a fresh copy (R275). The choice comes from the tape; 0, and an
empty tape, take the cached copy. -/
def cachedBundle (s : State) (core : Nat) (l : Launch) (pa pkg pc : Nat) : Bundle × State :=
  let key := cacheKey l (pkg * 2 ^ 52 + pa) pc
  let fresh := fun (t : State) =>
    let r := readBundle t core pa pkg
    (r.1, r.2.modCore core (fun c => { c with icache := Tab.set c.icache key r.1 }))
  match Tab.get? (s.core core).icache key with
  | none => fresh s
  | some b =>
    let c := s.choose
    if c.1 = 0 then (b, c.2) else fresh c.2

/-- One bundle is fetched (R230, R248, R286, R363). -/
def fetchOne (s : State) (core : Nat) (l : Launch) (pc : BitVec 56) : Except Stop (Bundle × State) :=
  let va := 32 * pc.toNat
  match s.pageOf l pc.toNat with
  | .failed => .error (.trap (fetchTrap causeText va))
  | .absent => .error .hold
  | .outside | .present =>
    match s.translate core l va .fetch with
    | .miss => .error (.walkFetch va)
    | .fault _ => .error (.trap (fetchTrap causeFetch va))
    | .ok pa pkg =>
      if pkg = 0 ∧ isAperture pa then .error (.trap (fetchTrap causeFetch va))
      else if s.worldBlocks l pa pkg then
        .ok (0, s.fb { cls := 6, code := 1, addr := pa, detail := core, vi := some l.vi, core := some core })
      else .ok (cachedBundle s core l pa pkg pc.toNat)

/-- Consecutive bundles are fetched. -/
def fetchMany : Nat → State → Nat → Launch → BitVec 56 → Except Stop (List Bundle × State)
  | 0, s, _, _, _ => .ok ([], s)
  | n + 1, s, core, l, pc =>
    match fetchOne s core l pc with
    | .error e => .error e
    | .ok (b, t) =>
      match fetchMany n t core l (pc + 1) with
      | .error e => .error e
      | .ok (bs, u) => .ok (b :: bs, u)

/-! Decode of a bundle. -/

/-- The decoded bundle: moves by slot, long immediates, address updates, the bundles of its table. -/
structure Decoded where
  moves : List (Option Instr)
  limm : List SlotBits
  updates : List Update
  seg : Bool
  table : List Bundle
  deriving DecidableEq, Repr

/-- A decode fault of a slot. -/
def decodeTrap (cause slot : Nat) : Trap := { cause := cause, slot := slot, lane := 0, addr := 0, code := 0 }

/-- A long-immediate source names a slot that holds one (R83, R108). -/
def limmOk (b : Bundle) (i : Instr) : Bool :=
  match (moveOf i).map (fun (m : Mv) => m.src) with
  | some (Src.limm k) => (bundleLimm b).getLsbD k
  | _ => true

/-- The moves of slots k to 5, checked in order after those before them (R108). -/
def decodeSlots (w : Wave) (b : Bundle) : Nat → List (Option Instr) → Except Trap (List (Option Instr))
  | 0, before => .ok before
  | n + 1, before =>
    let k := 5 - n
    if !bundleIsMove b k then decodeSlots w b n (before ++ [none])
    else
      match decodeSlot (bundleSlot b k) with
      | .error _ => .error (decodeTrap causeIllegal k)
      | .ok i =>
        if !limmOk b i then .error (decodeTrap causeIllegal k)
        else
          match slotCheck w before k i with
          | some cause => .error (decodeTrap cause k)
          | none => decodeSlots w b n (before ++ [some i])

/-- The slot of a BTAB and the number of its table bundles; found by the destination and opcode alone, since the table is checked before
the slots (R108). -/
def btabSlot (b : Bundle) : Option (Nat × Nat) :=
  ((List.range 6).find? (fun k => bundleIsMove b k && (slotDst (bundleSlot b k)).toNat == 0x200 + PortUnit.ct.code &&
    slotOpc (bundleSlot b k) == 8 && decide ((slotMod (bundleSlot b k)).toNat < 4))).map
    (fun k => (k, (slotMod (bundleSlot b k)).toNat + 1))

/-- The page that is not there from which a wave fetches: its next bundle lies in it, or, once that is read, a bundle of its table (R286). -/
def State.wantsPage (s : State) (w : Wave) (l : Launch) : Option Nat :=
  let gone := fun (pc : Nat) => s.pageOf l pc == .absent
  if gone w.pc.toNat then textPage l w.pc.toNat
  else
    match fetchOne s w.core l w.pc with
    | .error _ => none
    | .ok (b, _) =>
      match checkHeader b, btabSlot b with
      | .ok _, some (_, n) => (((List.range n).map (fun k => w.pc.toNat + 1 + k)).find? gone).bind (textPage l)
      | _, _ => none

/-- A bundle is decoded, and the table that follows it fetched (R101, R108). DESIGN CHOICE (Log 92): a table bundle that cannot be fetched raises
FETCH_FAULT, or waits for its walk, with its own address, as the bundle itself would, before the slots of the BTAB bundle are checked; the spec
speaks of that fault for a bundle to be issued only. -/
def decodeBundle (s : State) (w : Wave) (l : Launch) (b : Bundle) : Except Stop (Decoded × State) :=
  match checkHeader b with
  | .error _ => .error (.trap (decodeTrap causeIllegal 6))
  | .ok _ =>
    if bundleSeg b && w.inDelay then .error (.trap (decodeTrap causeIllegal 6))
    else
      let tab : Except Stop (List Bundle × State) :=
        match btabSlot b with
        | none => .ok ([], s)
        | some (k, n) =>
          match fetchMany n s w.core l (w.pc + 1) with
          | .error e => .error e
          | .ok (bs, t) => if tableOk bs then .ok (bs, t) else .error (.trap (decodeTrap causeIllegal k))
      match tab with
      | .error e => .error e
      | .ok (bs, t) =>
        match decodeSlots w b 6 [] with
        | .error e => .error (.trap e)
        | .ok ms =>
          let ups : Except DecodeErr (List Update) := if bundleLoop b then decodeUpdates (bundleSlot b 5) else .ok []
          match ups with
          | .error _ => .error (.trap (decodeTrap causeIllegal 5))
          | .ok us =>
            if us.any (fun u => ms.any (fun i => match i with
                | some i => updateConflict u.reg i
                | none => false)) then .error (.trap (decodeTrap causeIllegal 5))
            else
              let d : Decoded :=
                { moves := ms
                  limm := (List.range 6).map (fun k => if (bundleLimm b).getLsbD k then bundleSlot b k else 0)
                  updates := us
                  seg := bundleSeg b
                  table := bs }
              .ok (d, t)

/-! A bundle that can be performed. -/

/-- A wave's next bundle, ready to be performed: the state to perform it in, the wave before it, what stands around its moves. -/
structure Ready where
  st : State
  w : Wave
  updates : List Update
  entry : Bool
  close : Bool
  ser : Bool
  deriving DecidableEq, Repr

/-- The bundle holds a CT.SEG whose guard condition holds (R236). -/
def segMove (s : State) (w : Wave) : Bool :=
  (enum s.ib.moves).any (fun e => match e.2 with
    | some (.ctSeg m) => (scalarOp s w e.1 m).isSome
    | _ => false)

/-- A bundle that passes the gate is ready, but for one: a leading twin's escaping bundle is held at issue until its trailing twin has issued the same
(R321, Table 13.3). -/
def holdEscape (r : Ready) : Except Stop Ready :=
  match r.w.twin with
  | some (_, true) =>
    let e := escapeOf r.st r.w (midWave r.st r.w)
    if e.ops.isEmpty || r.w.escapes.contains e then .ok r else .error (.escape e)
  | _ => .ok r

/-- The walk that a wave waits for has ended without a translation: the wave takes the trap when it would issue the bundle (R230, R368). -/
def Wave.afterWalk (w : Wave) : Stop → Stop
  | .walkFetch va => match w.walkBad with
    | some t => if t.addr = va then .trap t else .walkFetch va
    | none => .walkFetch va
  | .walkLane k lane va => match w.walkBad with
    | some t => if t.addr = va ∧ t.slot = k ∧ t.lane = lane then .trap t else .walkLane k lane va
    | none => .walkLane k lane va
  | e => e

/-- What a wave that may issue does next: its bundle is fetched, decoded, and passes the stalls and the checks; or why not. A wave that a hold
keeps from issuing does not meet the fetch (R230); one whose twin trapped at this bundle takes that trap (R325). Whether a bundle closes a segment is
known only once the entries it pops have come (R310, R315). -/
def prepare (s0 : State) (key : Nat) : Except Stop Ready :=
  let s := { s0 with cur := key, slot := 0 }
  match s.wave? key with
  | none => .error .hold
  | some w0 =>
    match s.launch? w0.launch with
    | none => .error .hold
    | some l =>
      if !w0.runs || (s.core w0.core).haltAt.isSome then .error .hold
      else
        let w : Wave := { w0 with io := w0.io.landDue w0.phys w0.clock }
        let s1 := s.setWave key w
        if holdStands s1 w key then .error .hold
        else
        match w.trapHere with
        | some x => .error (.trap x)
        | none =>
        match fetchOne s1 w.core l w.pc with
        | .error e => .error (w.afterWalk e)
        | .ok (b, s2) =>
          match decodeBundle s2 w l b with
          | .error e => .error (w.afterWalk e)
          | .ok (d, s3) =>
            let t : State := { s3 with ib := { on := true, moves := d.moves, limm := d.limm, advanced := false, table := d.table } }
            let mid := midWave t w
            let close := closing t w mid
            let mark := d.seg || segMove t w || w.segEntry || (Tab.get? t.ckpts key).isNone
            let entry := mark && !t.entered key w
            if w.rerun != .none && (close || entry) then
              (if segmentBusy t w key || (!entry && queuedUnits.any (unitStalls t w)) then .error .hold else .error .endPoint)
            else
              match gate t w entry with
              | .go => holdEscape { st := t, w := w, updates := d.updates, entry := entry, close := close, ser := bundleSer b }
              | .hold => .error .hold
              | .miss slot lane va => .error (w.afterWalk (.walkLane slot lane va))
              | .trap x => .error (.trap x)

/-! Around the moves (R18, R98, R236, R310, R311). -/

/-- Before the moves: the segment entry, the fold of the PC, the address updates; a trailing twin's escaping bundle is kept for its leader (R321). The wave as the bundle's sources read it is kept; a phase
begins with its first bundle (R240). -/
def beginBundle (r : Ready) : State :=
  let key := r.st.cur
  let s1 := if r.entry then enterBoth r.st key else r.st
  match s1.wave? key with
  | none => s1
  | some pre =>
    let v : Wave :=
      { pre with
        ssig := fold pre.ssig (pre.pc.zeroExtend 64)
        escapes := if pre.trails && r.close then pre.escapes ++ [escapeOf r.st r.w (midWave r.st r.w)] else if pre.trails then pre.escapes else [] }
    let up := fun (x : Wave) (u : Update) => { x with a := Tab.set x.a u.reg (pre.readA u.reg + BitVec.ofInt 64 u.step) }
    let s2 := s1.modParty pre.party (fun p => { p with firstBundle := match p.firstBundle with
      | some c => some c
      | none => some s1.cycle })
    { s2.setWave key (r.updates.foldl up v) with pre := some pre }

/-- Where a move stands in the order of R18: register and latch writes, then the triggers. DESIGN CHOICE (Log 118): of the triggers, which R18 starts together,
CT's acts after the other units' and SY's last, so a wave that exits or stands at a phase boundary in a bundle with a SY.TRAP does not run the handler. -/
def moveRank (i : Instr) : Nat :=
  match unitOf i with
  | none => 0
  | some .ct => 2
  | some .sy => 3
  | some _ => 1

/-- The moves of the bundle in the order in which they are performed, with their slots. -/
def performOrder (s : State) : List (Nat × Instr) :=
  let ms := (enum s.ib.moves).filterMap (fun e => e.2.map (fun i => (e.1, i)))
  (List.range 4).flatMap (fun n => ms.filter (fun e => moveRank e.2 == n))

/-- After the moves: the end of the bundle, the segment entry that follows a closing bundle, and what the core's queues can do. -/
def endBundle (close : Bool) (s : State) : State :=
  let key := s.cur
  let t := advance s
  let u := if close then t.modWave key (fun w => { w with segEntry := true }) else t
  let core := u.coreOf key
  settleCore { u.refresh with ib := Issue.idle, pre := none, slot := 0 } core

/-! The compare of an escaping bundle (R321, R323, R324). -/

/-- The index of the first operand in which two escaping bundles differ. -/
def Escape.differ (e f : Escape) : Nat := ((List.range e.ops.length).find? (fun n => e.ops[n]? != f.ops[n]?)).getD e.ops.length

/-- An escaping bundle comes before the one at which a wave stands. -/
def Escape.before (e : Escape) (w : Wave) : Bool := decide (e.nth < w.issued)

/-- A leading twin's escaping bundle against that of its trailing twin: once both have come to it with the same operands, and every earlier record is
confirmed, it may issue. A bundle that escapes in one of them only is a mismatch too. -/
def compareEscapes (s : State) (key : Nat) : State :=
  match s.wave? key with
  | none => s
  | some w =>
    match w.twin with
    | some (o, true) =>
      match s.wave? o with
      | none => s
      | some v =>
        match prepare s key, v.escapes with
        | .error (.escape e), f :: t =>
          if e ≠ f then twinMismatch s key o (e.differ f)
          else if s.waveHeld w key || !w.folds.isEmpty || !w.storesDone then s
          else (s.modWave o (fun x => { x with escapes := t })).modWave key (fun x => { x with escapes := [e] })
        | .error (.escape e), [] => if e.before v then twinMismatch s key o 0 else s
        | _, f :: _ => if f.before w then twinMismatch s key o 0 else s
        | _, [] => s
    | _ => s

end Sys2Proof.Machine
end

