-- ==== Sys2Proof/Machine/Sched.lean ====
section
/-!
DEFINITION. The active and the pending set of a core (R14), and which of its waves issues (R15 to R17).

The age of a wave is kept as the cycle of its last issue or of its entry into the active set. Of an active wave pendSince is the cycle
from which it may issue; of a pending wave, the cycle since which it is pending.
-/
namespace Sys2Proof.Machine

/-- The wave's next bundle can issue, as a bundle, a trap or the end of a re-run. -/
def isReady (s : State) (key : Nat) : Bool :=
  match prepare s key with
  | .ok _ => true
  | .error (.trap _) => true
  | .error .endPoint => true
  | .error .hold => false
  | .error (.escape _) => false
  | .error (.walkFetch _) => false
  | .error (.walkLane _ _ _) => false

/-- A wave leaves the active set (R14). -/
def State.leaveSet (s : State) (key : Nat) : State :=
  s.modWave key (fun w => { w with inSet := false, pendSince := s.cycle, stalled := 0 })

/-- A wave enters the active set: its age is zero, and it may issue from the third cycle after (R14, R15). -/
def State.joinSet (s : State) (key : Nat) : State :=
  s.modWave key (fun w => { w with inSet := true, age := s.cycle, pendSince := s.cycle + 3, stalled := 0 })

/-- Hardware waves of a wave: a 64-lane group is two (R45, R289). -/
def Wave.hw (w : Wave) : Nat := if w.width = 64 then 2 else 1

/-- Waves of the active set of a core. -/
def State.activeWaves (s : State) (core : Nat) : List (Nat × Wave) := (s.coreWaves core).filter (fun e => e.2.inSet)

/-- Free places of the active set, the place of one wave counted as free. -/
def State.freePlaces (s : State) (core : Nat) (but : Option Nat) : Nat :=
  Config.activePlaces - ((s.activeWaves core).filter (fun e => some e.1 != but)).foldl (fun n e => n + e.2.hw) 0

/-- The pending wave of a core that has been pending longest, among those that are ready and for which there is room; of two, the
lower-numbered resident slot (R14). -/
def longestPending (s : State) (core : Nat) (but : Option Nat) : Option Nat :=
  (leastBy (fun (e : Nat × Wave) => e.2.pendSince * 16 + e.2.rslot)
    ((s.coreWaves core).filter (fun e => some e.1 != but && !e.2.inSet && e.2.runs && decide (e.2.hw ≤ s.freePlaces core but) &&
      isReady s e.1))).map (fun e => e.1)

/-- An active wave gives its place to the longest-pending ready wave, if there is one (R14). -/
def exchange (s : State) (key : Nat) : State :=
  match s.wave? key with
  | none => s
  | some w =>
    if !w.inSet then s
    else
      match longestPending s w.core (some key) with
      | some k => (s.leaveSet key).joinSet k
      | none => s

/-- A free place of the active set is filled (R14). DESIGN CHOICE (Log 125): at the end of a cycle one place of a core is filled; where several are free,
the next follows a cycle later, since the rule does not say how soon. -/
def fillPlace (s : State) (core : Nat) : State :=
  if 0 < s.freePlaces core none then
    match longestPending s core none with
    | some k => s.joinSet k
    | none => s
  else s

/-! The choice of a cycle (R15, R16). -/

/-- Reads and writes of the register banks of a bundle: the physical lane registers it names, each once (R16). A null-sink move reads nothing
(R85). -/
def bankUse (r : Ready) : List Nat × List Nat :=
  let once := fun (l : List Nat) => l.foldl (fun acc x => if acc.contains x then acc else x :: acc) []
  let reads := r.st.ib.moves.filterMap (fun i => match i.bind readMove with
    | some m => (match m.src with
      | .v n => some (r.w.physV n)
      | _ => none)
    | none => none)
  let writes := r.st.ib.moves.filterMap (fun i => match i with
    | some (.registerMove _ (.v n) _) => some (r.w.physV n)
    | _ => none)
  (once reads, once writes)

/-- The units whose trigger ports a bundle writes, CT aside (R16). DESIGN CHOICE (Log 82): a trigger whose guard is false in every lane
counts as well, since whether two bundles conflict is decided by the ports they name. -/
def triggerUnits (r : Ready) : List PortUnit :=
  r.st.ib.moves.filterMap (fun i => match i.bind unitOf with
    | some u => if u == .ct then none else some u
    | none => none)

/-- Two bundles conflict (R16). -/
def bundlesConflict (a b : Ready) : Bool :=
  let x := bankUse a
  let y := bankUse b
  let beyond := fun (p q : List Nat) => (List.range 4).any (fun k =>
    decide (6 < (p.filter (fun n => n % 4 == k)).length + (q.filter (fun n => n % 4 == k)).length))
  beyond x.1 y.1 || beyond x.2 y.2 || (triggerUnits a).any (fun u => (triggerUnits b).contains u)

/-- The ready active waves of a core, oldest first (R15). -/
def readyByAge (s : State) (core : Nat) : List Nat :=
  let l := (s.activeWaves core).filter (fun e => e.2.runs && decide (e.2.pendSince ≤ s.cycle) && isReady s e.1)
  let before := fun (a b : Nat × Wave) => decide (a.2.age < b.2.age) || (a.2.age == b.2.age && decide (a.2.rslot < b.2.rslot))
  (l.foldr (fun x acc => acc.takeWhile (fun y => before y x) ++ [x] ++ acc.dropWhile (fun y => before y x)) []).map (fun e => e.1)

/-- The waves of a core that issue in this cycle: the two oldest ready, the older alone where the two conflict, one is marked SER,
or one is a 64-lane group (R15, R16, R45). -/
def chosen (s : State) (core : Nat) : List Nat :=
  match readyByAge s core with
  | [] => []
  | [a] => [a]
  | a :: b :: _ =>
    match prepare s a, prepare s b with
    | .ok x, .ok y =>
      if x.ser || y.ser || x.w.width == 64 || y.w.width == 64 || bundlesConflict x y then [a] else [a, b]
    | _, _ => [a, b]

/-- The waves that issued in a cycle take its number as their age; the active waves that could not issue count a stalled cycle (R14).
DESIGN CHOICE (Log 83): in a cycle in which throttling forbids all issue (R395) a wave whose next bundle could issue is not stalled, and its
count returns to zero. -/
def countStall (s : State) (core : Nat) : State :=
  (s.activeWaves core).foldl (fun t e =>
    if e.2.runs && decide (e.2.pendSince ≤ s.cycle) && decide (e.2.age < s.cycle) && !isReady s e.1 then t.modWave e.1 (fun w => { w with stalled := w.stalled + 1 })
    else t.modWave e.1 (fun w => { w with stalled := 0 })) s

end Sys2Proof.Machine
end

