-- ==== Sys2Proof/Machine/Ct.lean ====
section
/-!
DEFINITION. CT, the sequencer (R227 to R243).
-/
namespace Sys2Proof.Machine

/-- A trigger of CT or SY (R221, R223): where it takes effect, its operand enters latch a and the operation is performed on it. -/
def scalarTrigger (u : PortUnit) (m : Mv) (f : State → Wave → Word → State) (t : State) (w : Wave) : State :=
  let t1 := popSrc t w m
  match scalarOp t w t.slot m with
  | none => t1
  | some a => f (t1.modWave t1.cur (fun v => { v with io := v.io.setSlatch u .a a })) w a

/-- A change of the acting wave. -/
def State.modCur (s : State) (f : Wave → Wave) : State := s.modWave s.cur f

/-- A change of the acting wave by an operand, in place of the trigger's own (R221). -/
def ctMod (f : Wave → Word → Wave → Wave) (t : State) (w : Wave) (a : Word) : State := t.modCur (f w a)

/-! Transfers (R227 to R229). -/

/-- A relative target. -/
def relTarget (w : Wave) (a : Word) : BitVec 56 := w.pc + a.truncate 56

/-- The pending transfer of a CT trigger: its own bundle is no delay slot. -/
def setXfer (target : BitVec 56) (taken : Bool) (w : Wave) : Wave := { w with xfer := some { target := target, taken := taken, left := 3 } }

/-- A transfer: taken to its target where its guard condition and its own test hold; its delay slots follow in any case (R221). A lane source
without an active lane, the guard condition holding, gives no operand, and the move has no effect (R223, Log 49). -/
def transfer (m : Mv) (test : Bool) (target : Wave → Word → BitVec 56) (link : Bool) (t : State) (w : Wave) : State :=
  let t1 := popSrc t w m
  match scalarOp t w t.slot m with
  | none => if w.guardAny m then t1 else t1.modCur (setXfer 0 false)
  | some a =>
    let t2 := t1.modCur (fun v => { v with io := v.io.setSlatch .ct .a a })
    let t3 := t2.modCur (setXfer (target w a) test)
    if link && test then t3.modCur (fun v => { v with a := Tab.set v.a 15 ((w.pc + 3).zeroExtend 64) }) else t3

/-- A branch on the guards (R31); without an operand it has no effect (R223). -/
def laneBranch (m : Mv) (test : Wave → Mv → Bool) (t : State) (w : Wave) : State :=
  let t1 := popSrc t w m
  match laneOperand t w m with
  | none => t1
  | some a =>
    (t1.modCur (fun v => { v with io := v.io.setSlatch .ct .a a })).modCur (setXfer (relTarget w a) (test w m))

/-- CT.BRA (Table 7.2). -/
def execCtBra (m : Mv) (s : State) : Host.Outcome State Fault Refusal :=
  runMove (.ctBra m) s (transfer m true relTarget false)

/-- CT.BANY (R31). -/
def execCtBany (m : Mv) (s : State) : Host.Outcome State Fault Refusal := runMove (.ctBany m) s (laneBranch m testAny)

/-- CT.BALL (R31). -/
def execCtBall (m : Mv) (s : State) : Host.Outcome State Fault Refusal := runMove (.ctBall m) s (laneBranch m testAll)

/-- CT.BNONE (R31). -/
def execCtBnone (m : Mv) (s : State) : Host.Outcome State Fault Refusal := runMove (.ctBnone m) s (laneBranch m testNone)

/-- CT.BSCAL (Table 7.2). -/
def execCtBscal (m : Mv) (z : Bool) (k : BitVec 3) (s : State) : Host.Outcome State Fault Refusal :=
  runMove (.ctBscal m z k) s (fun t w => transfer m (testScal w z k.toNat) relTarget false t w)

/-- CT.CALL (R229). -/
def execCtCall (m : Mv) (s : State) : Host.Outcome State Fault Refusal :=
  runMove (.ctCall m) s (transfer m true relTarget true)

/-- CT.RET: an absolute target. -/
def execCtRet (m : Mv) (s : State) : Host.Outcome State Fault Refusal :=
  runMove (.ctRet m) s (transfer m true (fun _ a => a.truncate 56) false)

/-! Branch tables (R231, R232). -/

/-- The targets that some lane selects, in table order, with their lanes. -/
def selected (pc : BitVec 56) (offs : List (BitVec 24)) (sel : List (Nat × Nat)) : List (BitVec 56 × BitVec 64) :=
  (enum offs).filterMap (fun e =>
    let mask := maskOf (fun L => sel.any (fun x => x.1 == L && x.2 == e.1))
    if mask = 0 then none else some (pc + e.2.signExtend 56, mask))

/-- CT.BTAB: the table is pending, and its bundles are passed over. -/
def startTable (t : State) (w : Wave) (sel : List (Nat × Nat)) : State :=
  let bs := t.ib.table
  let join := match bs with
    | b :: _ => w.pc + (tableJoin b).signExtend 56
    | [] => w.pc + 3
  let tab : TableSt := { join := join, exm := w.exm, left := 3, targets := selected w.pc (tableTargets bs) sel }
  t.modCur (fun v => { v with table := some tab, pc := v.pc + BitVec.ofNat 56 bs.length })

/-- CT.BTAB (R231). -/
def execCtBtab (m : Mv) (n : BitVec 2) (s : State) : Host.Outcome State Fault Refusal :=
  runMove (.ctBtab m n) s (fun t w => startTable (popSrc t w m) w (btabIndex t w t.slot m))

/-! Loops (R233). -/

/-- LoopBoundary(p, A). -/
def loopBoundary (a : Word) (w : Wave) : Wave :=
  let again := fun (v : Wave) (fresh : Bool) =>
    let r := { v with rrb := v.rrb + 1 }
    { r.writeG 8 (r.physG 8) (lanesBelow r.phys) (if fresh then lanesBelow r.phys else 0) with pc := relTarget w a }
  if 1 < w.lc.toNat then again { w with lc := w.lc - 1 } true
  else if 0 < w.ec.toNat then again { w with lc := 0, ec := w.ec - 1 } false
  else { w with lc := 0, pc := w.pc + 1 }

/-- CT.LOOP: the boundary is the end of its bundle. -/
def loopEnd (t : State) (_ : Wave) (a : Word) : State :=
  let u := t.modCur (fun v => (loopBoundary a v).arrive.countBundle)
  { u with ib := { u.ib with advanced := true } }

/-- CT.LOOP (R233). -/
def execCtLoop (m : Mv) (s : State) : Host.Outcome State Fault Refusal := runMove (.ctLoop m) s (scalarTrigger .ct m loopEnd)

/-! Masks (R25, R235). -/

/-- CT.ALLON (R25). -/
def execCtAllon (m : Mv) (s : State) : Host.Outcome State Fault Refusal :=
  runMove (.ctAllon m) s (scalarTrigger .ct m (ctMod (fun w _ v => { v with exs := w.exm, exm := w.allLanes, bracket := true })))

/-- CT.ALLOFF (R25). -/
def execCtAlloff (m : Mv) (s : State) : Host.Outcome State Fault Refusal :=
  runMove (.ctAlloff m) s (scalarTrigger .ct m (ctMod (fun w _ v => { v with exm := w.exs, bracket := false })))

/-- CT.MASKG: the guard is an operand (R235); a lane source without an active lane has no effect (R223). DESIGN CHOICE (Log 84): R30 runs the
delay slots with the EXM in force at the transfer and R235 has MASKG and MASKS write EXM with their bundle; one of them in the first delay slot
changes EXM for the second. -/
def execCtMaskg (m : Mv) (s : State) : Host.Outcome State Fault Refusal :=
  runMove (.ctMaskg m) s (fun t w =>
    let t1 := popSrc t w m
    match laneOperand t w m with
    | none => t1
    | some a => t1.modCur (fun v => { v with io := v.io.setSlatch .ct .a a, exm := w.exm &&& w.guard m }))

/-- CT.MASKS (R235); in the first delay slot of a transfer it changes EXM for the second (DESIGN CHOICE, Log 84). -/
def execCtMasks (m : Mv) (s : State) : Host.Outcome State Fault Refusal :=
  runMove (.ctMasks m) s (scalarTrigger .ct m (ctMod (fun w a v => { v with exm := a &&& w.allLanes })))

/-! Segments, phases, routes (R236 to R240). -/

/-- CT.SEG: within a bundle that step performs, the entry was made before the bundle (R236). -/
def execCtSeg (m : Mv) (s : State) : Host.Outcome State Fault Refusal :=
  let inBundle := s.ib.on
  runMove (.ctSeg m) s (scalarTrigger .ct m (fun t _ _ => if inBundle then t else enterSegment t t.cur))

/-- CT.PHASE: the wave stands at the boundary; a launch without a waypoint area faults (R238, Table 14.6). -/
def phaseBoundary (t : State) (w : Wave) (a : Word) : State :=
  let keep := (slatchB t .ct).getLsbD 0
  let t1 := advance t
  let t2 := t1.modCur (fun v => { v with atPhase := some (relTarget w a, keep), inSet := false, pendSince := t1.cycle })
  match t2.launch? w.launch with
  | some l => if l.wpkib = 0 then t2.faultLaunch w.launch codeWaypoint w.core else t2
  | none => t2

/-- CT.PHASE (R238). -/
def execCtPhase (m : Mv) (s : State) : Host.Outcome State Fault Refusal := runMove (.ctPhase m) s (scalarTrigger .ct m phaseBoundary)

/-- CT.ROUTE: a request from 0 to 3, or the selector's choice; ignored without a route table (R240). -/
def routeRequest (t : State) (w : Wave) (a : Word) : State :=
  let n := bits a.toNat 2 0
  match t.launch? w.launch with
  | some l => if l.func.routes.isEmpty then t else t.modParty w.party (fun p => { p with routeReq := min n 4 })
  | none => t

/-- CT.ROUTE (R240). -/
def execCtRoute (m : Mv) (s : State) : Host.Outcome State Fault Refusal := runMove (.ctRoute m) s (scalarTrigger .ct m routeRequest)

/-! Giving up issue, and exit (R241, R243). -/

/-- CT.YIELD (R241). -/
def execCtYield (m : Mv) (s : State) : Host.Outcome State Fault Refusal :=
  runMove (.ctYield m) s (scalarTrigger .ct m (fun t _ _ => exchange t t.cur))

/-- CT.EXIT: what ends with the wave; its commands go on (R243). -/
def exitWave (t : State) (_ : Wave) (_ : Word) : State :=
  let t1 := advance t
  t1.modCur (fun v =>
    { v with
      exited := true
      xfer := none
      table := none
      bracket := false
      io := { v.io with res := [] }
      parked := none
      inSet := false })

/-- CT.EXIT (R243). -/
def execCtExit (m : Mv) (s : State) : Host.Outcome State Fault Refusal := runMove (.ctExit m) s (scalarTrigger .ct m exitWave)

/-- CT.WAITE (R241). -/
def execCtWaite (m : Mv) (s : State) : Host.Outcome State Fault Refusal :=
  runMove (.ctWaite m) s (scalarTrigger .ct m (ctMod (fun _ a v => { v with evcHold := some (a.truncate 32) })))

end Sys2Proof.Machine
end

