-- ==== Sys2Proof/Machine/Queue.lean ====
section
/-!
DEFINITION. Work queues as the device and the programs reach them (R340 to R342, R352): rings in guest-physical memory, room, and the
submission of a packet.
-/
namespace Sys2Proof.Machine

/-- LOG2N of a ring register: 4 to 16, other values act as 4 (Table 14.2). -/
def ringLog (r : Word) : Nat := let n := bits r.toNat 4 0; if 4 ≤ n ∧ n ≤ 16 then n else 4

/-- BASE of a ring register, a guest-physical address. -/
def ringBase (r : Word) : Nat := bits r.toNat 51 12 * 4096

/-- An access made for an interface to a physical address of this package is one of the non-secure world to a secure target (R361, R363). -/
def State.viBlocks (s : State) (vi pa : Nat) : Bool := !(s.vi vi).secure && s.securePa pa

/-- Bytes written within one page at a guest-physical address of an interface, by stage 2 alone (R340). Bytes without a translation in this
package's HBM are dropped, and those to a secure target for a non-secure partition (R363). -/
def State.writeGpaPage (s : State) (vi gpa : Nat) (bs : List Byte) : State :=
  match s.stage2 vi gpa with
  | some (pa, 0, p) => if p.w && isHbm pa && !s.viBlocks vi pa then s.writeHome pa bs else s
  | some (_, _ + 1, _) => s
  | none => s

/-- Bytes written at a guest-physical address of an interface, page by page. -/
def State.writeGpa (s : State) (vi gpa : Nat) (bs : List Byte) : State :=
  let off := gpa % 4096
  (List.range ((off + bs.length + 4095) / 4096)).foldl (fun t k =>
    let lo := 4096 * k - off
    t.writeGpaPage vi (gpa + lo) ((bs.drop lo).take (4096 * (k + 1) - off - lo))) s

/-- Bytes read within one page at a guest-physical address of an interface: zeros of a secure target for a non-secure partition (R363); none where
it has no translation in this package's HBM. -/
def State.readGpaPage (s : State) (vi gpa n : Nat) : Option (List Byte) :=
  match s.stage2 vi gpa with
  | some (pa, 0, p) => if p.r && isHbm pa then some (if s.viBlocks vi pa then bytesOf n 0 else s.homeBytes pa n) else none
  | some (_, _ + 1, _) => none
  | none => none

/-- Bytes read at a guest-physical address of an interface, page by page. -/
def State.readGpa (s : State) (vi gpa n : Nat) : Option (List Byte) :=
  let off := gpa % 4096
  (List.range ((off + n + 4095) / 4096)).foldl (fun acc k =>
    let lo := max off (4096 * k)
    acc.bind (fun l => (s.readGpaPage vi (gpa - off + lo) (min (off + n) (4096 * (k + 1)) - lo)).map (fun x => l ++ x))) (some [])

/-- The pages of an access at a guest-physical address that lie in this package's HBM: the physical address and the bytes of each. -/
def State.gpaSpans (s : State) (vi gpa n : Nat) : List (Nat × Nat) :=
  let off := gpa % 4096
  (List.range ((off + n + 4095) / 4096)).filterMap (fun k =>
    let lo := max off (4096 * k)
    match s.stage2 vi (gpa - off + lo) with
    | some (pa, 0, _) => if isHbm pa then some (pa, min (off + n) (4096 * (k + 1)) - lo) else none
    | some (_, _ + 1, _) => none
    | none => none)

/-- An access that a core makes at a guest-physical address is charged to its die (R397), and recorded if the worlds forbid it (R363). -/
def State.chargeGpa (s : State) (vi core gpa n code : Nat) : State :=
  let t := (s.gpaSpans vi gpa n).foldl (fun u x => u.charged core x.1 x.2) s
  match (s.gpaSpans vi gpa n).find? (fun x => s.viBlocks vi x.1) with
  | some x => t.fb { cls := 6, code := code, addr := x.1, detail := core, vi := some vi, core := some core }
  | none => t

/-- Packets waiting in a queue, modulo 2^32. -/
def WQueue.waiting (q : WQueue) : Nat := (q.tail + 2 ^ 32 - q.head) % 2 ^ 32

/-- The ring has room for a packet. -/
def WQueue.room (q : WQueue) : Bool := decide (q.waiting < 2 ^ ringLog q.ring)

/-- A write of n bytes within a page at a guest-physical address is charged to the die of a core, or to the fabric (R397). -/
def State.chargePacket (s : State) (vi gpa n : Nat) (who : Option Nat) : State :=
  match s.stage2 vi gpa, who with
  | some (pa, 0, p), some c => if p.w && isHbm pa && !s.viBlocks vi pa then s.charged c pa n else s
  | some (pa, 0, p), none => if p.w && isHbm pa && !s.viBlocks vi pa then s.tally (s.tractOf pa) 8 n none else s
  | _, _ => s

/-- A packet written at TAIL, and TAIL advanced (R352, R353); peer is 0 for a fabric peer's, 1 for one of SY.LAUNCH, whose core is charged
(R397). -/
def State.submit (s : State) (q peer : Nat) (who : Option Nat) (bs : List Byte) : State :=
  let x := s.queue q
  let at' := ringBase x.ring + 128 * (x.tail % 2 ^ ringLog x.ring)
  let t := (s.chargePacket x.vi at' bs.length who).writeGpa x.vi at' bs
  t.modQueue q
    (fun y => { y with
      tail := (y.tail + 1) % 2 ^ 32
      bells := y.bells ++ [((y.tail + 1) % 2 ^ 32, t.hist.length, false)]
      peerRing := (2 * y.tail + peer) :: y.peerRing })

/-- The physical queue a program names: none where SY.LAUNCH is refused (R352). -/
def State.launchQueue (s : State) (l : Launch) (q : Nat) : Option Nat :=
  let v := s.vi l.vi
  let n := v.qfirst + q
  if l.lright && decide (q < v.qcount) && (s.queue n).vi == l.vi && (s.queue n).devlaunch then some n else none

/-- SY.r answers a SY.LAUNCH, and its wave goes on; a leading twin forwards the answer, under the number of the bundle that holds the LAUNCH. -/
def launchAnswer (s : State) (key : Nat) (w : Wave) (slot t nth x : Nat) : State :=
  let f : Flight := { u := PortUnit.sy.code, slot := slot, t := t, bound := unitBound .sy, mask := lanesBelow w.phys,
                      vals := sameLanes w.phys (BitVec.ofNat 128 x) }
  (s.modWave key (fun v => { v with hold := .none, io := { v.io with flight := v.io.flight ++ [f] } })).forward key
    (fwdKind PortUnit.sy.code nth slot 3) w.seg f.mask [BitVec.ofNat 128 x]

/-- The packet of a SY.LAUNCH that holds its wave: published, then written once its ring has room, and SY.r set (R253, R352). A trailing twin waits
for its leader's answer (R321). -/
def tryLaunch (s : State) (key : Nat) : State :=
  match s.wave? key with
  | none => s
  | some w =>
    match w.hold with
    | .launch addr queue slot t nth published =>
      if w.trails then
        let kind := fwdKind PortUnit.sy.code nth slot 3
        match w.fwd.find? (fun f => f.kind == kind) with
        | some f =>
          launchAnswer (s.modWave key (fun v => { v with fwd := v.fwd.filter (fun y => y.kind != kind) })) key w slot t nth
            (laneAt f.vals 0).toNat
        | none => s
      else
        match s.launch? w.launch, s.party? w.party with
        | some l, some p =>
            let pub : Option State := if published then some s
              else (publish s w.core { scope := 5, launch := w.launch, engine := false, hor := (s.core w.core).horizon } 0 []).map (fun r =>
                r.2.modWave key (fun v => { v with hold := .launch addr queue slot t nth true }))
            match pub with
            | none => (s.noteWait 5 w.core (.launch key nth)).getD s
            | some s1 =>
              match s1.launchQueue l queue with
              | none => launchAnswer s1 key w slot t nth 1
              | some n => if (s1.queue n).room then launchAnswer (s1.submit n 1 (some w.core) (s1.spadRead p addr 128)) key w slot t nth 0 else s1
        | _, _ => s
    | _ => s

end Sys2Proof.Machine
end

