-- ==== Sys2Proof/Machine/Packet.lean ====
section
/-!
DEFINITION. Launch packets (R343 to R346): their fields, the roles they give, the argument block, the checks of a head packet, and the done
record of a packet that ends (R342).
-/
namespace Sys2Proof.Machine

/-- Word i of a packet as a number. -/
def pktWord (ws : List Word) (i : Nat) : Nat := (nth ws i 0).toNat

/-- Fields of Table 14.4. -/
def pktPrio (ws : List Word) : Nat := bits (pktWord ws 0) 20 16
def pktLright (ws : List Word) : Bool := (pktWord ws 0).testBit 11
def pktEdset (ws : List Word) : Bool := (pktWord ws 0).testBit 10
def pktTwin (ws : List Word) : Bool := (pktWord ws 0).testBit 8
def pktVi (ws : List Word) : Nat := bits (pktWord ws 0) 29 24
def pktEdition (ws : List Word) : Nat := bits (pktWord ws 0) 63 32
def pktFunc (ws : List Word) : Nat := bits (pktWord ws 1) 47 32
def pktCont (ws : List Word) : BitVec 32 := BitVec.ofNat 32 (pktWord ws 1)
def pktParties (ws : List Word) : Nat := bits (pktWord ws 2) 49 40
def pktStencil (ws : List Word) : Nat := bits (pktWord ws 2) 38 24
def pktX (ws : List Word) : Nat := bits (pktWord ws 2) 11 0 + 1
def pktY (ws : List Word) : Nat := bits (pktWord ws 2) 23 12 + 1
def pktWheel (ws : List Word) : Nat := bits (pktWord ws 3) 56 48
def pktArgn (ws : List Word) : Nat := bits (pktWord ws 4) 63 56
def pktTvec (ws : List Word) : BitVec 56 := BitVec.ofNat 56 (pktWord ws 4)
def pktArgs (ws : List Word) : Nat := pktWord ws 5
def pktWpbase (ws : List Word) : Nat := bits (pktWord ws 6) 51 12 * 4096
def pktTag (ws : List Word) : Nat := bits (pktWord ws 7) 47 32
def pktWpkib (ws : List Word) : Nat := bits (pktWord ws 7) 31 0

/-- The role word of a kind in W3: waves and register code. -/
def pktRole (ws : List Word) (kind : Nat) : Nat × Nat :=
  let r := bits (pktWord ws 3) (16 * kind + 15) (16 * kind)
  (bits r 4 0, bits r 8 5)

/-- The bits marked "—" of a packet are zero, W2[39] aside (Table 14.4). -/
def pktReservedOk (ws : List Word) : Bool :=
  let z := fun (w hi lo : Nat) => bits (pktWord ws w) hi lo == 0
  z 0 31 30 && z 0 23 21 && z 0 15 12 && z 0 9 9 && z 1 63 48 && z 2 63 50 && z 3 63 57 && z 3 47 41 && z 3 31 25 && z 3 15 9 &&
    z 6 63 52 && z 6 11 0 && z 7 63 48

/-- One role after W3: a nonzero field replaces the entry's; none where the role is not declared, registers 0 where none are given
(R343). -/
def roleAfter (f : Func) (ws : List Word) (kind : Nat) : Option Role :=
  let w := pktRole ws kind
  match f.roles.find? (fun r => r.kind == kind) with
  | some r => some { kind := kind, regs := if w.2 = 0 then r.regs else 8 * (w.2 + 1), waves := if w.1 = 0 then r.waves else w.1 }
  | none => if w.1 = 0 then none else some { kind := kind, regs := if w.2 = 0 then 0 else 8 * (w.2 + 1), waves := w.1 }

/-- The declared roles of a launch, in role order. -/
def rolesAfter (f : Func) (ws : List Word) : List Role := (List.range 3).filterMap (roleAfter f ws)

/-- Hardware waves of one wave of a function (R45, R289). -/
def hwPer (f : Func) : Nat := if f.width = 64 then 2 else 1

/-- Wave registers and hardware waves of a party (R11, R289). -/
def partyRegs (f : Func) (rs : List Role) : Nat := rs.foldl (fun n r => n + r.regs * r.waves * hwPer f) 0
def partyHw (f : Func) (rs : List Role) : Nat := rs.foldl (fun n r => n + r.waves * hwPer f) 0

/-- The limits of a `.role` directive (Table 3.14). -/
def roleInLimits (r : Role) : Bool :=
  decide (16 ≤ r.regs) && decide (r.regs ≤ 96) && r.regs % 8 == 0 && decide (1 ≤ r.waves) && decide (r.waves ≤ 16)

/-- Roles fit R288 and R289. -/
def rolesFit (f : Func) (rs : List Role) : Bool :=
  rs.all roleInLimits &&
    rs.any (fun r => r.kind == 0) && decide (partyRegs f rs ≤ Config.waveRegs) && decide (partyHw f rs ≤ Config.residentSlots)

/-- Words of a packet from its bytes. -/
def packetWords (bs : List Byte) : List Word := (List.range 16).map (fun i => BitVec.ofNat 64 (ofBytes ((bs.drop (8 * i)).take 8)))

/-- Bytes of a packet. -/
def packetBytes (ws : List Word) : List Byte := (List.range 16).flatMap (fun i => bytesOf 8 (pktWord ws i))

/-- The doorbell or submission that covers a ring index. -/
def WQueue.bellOf (q : WQueue) (k : Nat) : Option (Nat × Nat × Bool) :=
  q.bells.find? (fun b => let d := (b.1 + 2 ^ 32 - k) % 2 ^ 32; decide (1 ≤ d) && decide (d ≤ 2 ^ 16))

/-- A byte as it was before the newest writes of a list. -/
def byteBefore (news : List Applied) (gran i : Nat) (v : Byte) : Byte :=
  news.foldl (fun x a => if a.gran == gran && a.ben.getLsbD i then BitVec.ofNat 8 (elem 8 a.old i) else x) v

/-- The packet at a ring index (R341); zero where the ring has no translation. Of a slot rewritten after its packet was submitted each byte is the old
or the new one, freely. -/
def State.packetAt (s : State) (q : WQueue) (k : Nat) : List Word :=
  let a := ringBase q.ring + 128 * (k % 2 ^ ringLog q.ring)
  let bs := (s.readGpa q.vi a 128).getD (List.replicate 128 0)
  match q.bellOf k, s.stage2 q.vi a with
  | some b, some (pa, 0, _) =>
    let news := s.hist.take (s.hist.length - b.2.1)
    if news.isEmpty || s.viBlocks q.vi pa then packetWords bs
    else
      let pick := (Config.freeBits (2 ^ 94 + s.fresh)).toNat
      packetWords ((enum bs).map (fun e => if pick.testBit e.1 then byteBefore news ((pa + e.1) / 16) ((pa + e.1) % 16) e.2 else e.2))
  | _, _ => packetWords bs

/-- The ASTAB entry of a queue: its low word, and ASID; zero where stage 2 does not translate it (R366). -/
def State.astabEntry (s : State) (q : Nat) : Word × Nat :=
  let x := s.queue q
  let v := s.vi x.vi
  let n := ofBytes ((s.readGpa x.vi (v.astab + 16 * (q - v.qfirst)) 16).getD (List.replicate 16 0))
  (BitVec.ofNat 64 n, bits n 79 64)

/-- The marks that an acquire at SYSTEM scope with a stamp, made for no core, replays: those of this package at PACKAGE scope too (R262, R344). -/
def State.launchMarks (s : State) (a : Nat) : List Mark :=
  s.marks.filter (fun m => s.stampBelow m a && (decide (6 ≤ m.scope) || (m.scope == 5 && m.pkg == 0)))

/-- Such an acquire is complete (R262, R381). -/
def State.launchAcquired (s : State) (a : Nat) : Bool :=
  s.tickPassed 6 a && (s.launchMarks a).all (fun m => m.stands)

/-- What a load that has made the acquire of a stamp observes at a physical byte of this package (R344): the records of the marks it replayed, else
home memory. -/
def State.acquiredByte (s : State) (a pa : Nat) : Byte :=
  let ms := s.launchMarks a
  (s.seenByte (ms.flatMap (fun m => m.wids ++ m.hor)) 0 (pa / 16) (pa % 16)).1

/-- Bytes of the argument block, through the submitting process's address space; none where the read faults (R344, R345). -/
def State.argBytes (s : State) (acq vi asid root : Nat) (on : Bool) (va n : Nat) : Option (List Byte) :=
  (List.range n).foldr (fun i acc =>
    match acc with
    | none => none
    | some l =>
      let a := va + i
      if !canonical a then none
      else
        match s.walkIn vi asid root on a with
        | none => none
        | some e =>
          if e.pkgsel = 0 ∧ s.scratchUnits.contains (e.ppage / 16) then none
          else
          match s.useEntry e a .read with
          | .ok pa pkg =>
            if pkg = 0 then
              if !isHbm pa then none
              else if s.securePa pa && !(s.vi vi).secure then some (0 :: l)
              else some (s.acquiredByte acq pa :: l)
            else some ((Config.freeBits (2 ^ 97 + (s.fresh * 65536 + i))).truncate 8 :: l)
          | .miss => none
          | .fault _ => none) (some [])

/-- The entries of an argument block: register and value, with the check of their unused bytes (R344, Table 14.5). -/
def argEntries (n : Nat) (bs : List Byte) : List (Nat × Lane) × Bool :=
  let es := (List.range n).map (fun k =>
    let b := (bs.drop (32 * k)).take 32
    ((nth b 16 0).toNat, BitVec.ofNat 128 (ofBytes (b.take 16)), (b.drop 17).all (· == 0)))
  (es.map (fun e => (e.1, e.2.1)), es.all (fun e => decide (e.1 ≤ 95) && e.2.2))

/-- The container a packet names, and its function (R343, R345). -/
def State.packetFunc (s : State) (vi : Nat) (ws : List Word) : Option (Loaded × Func) :=
  match s.containers.find? (fun c => c.vi == vi && c.handle == pktCont ws) with
  | some c => (c.funcs[pktFunc ws]?).map (fun f => (c, f))
  | none => none

/-- The cores of a partition that may be used: not retired, and not returned since the reset (R328, R404). -/
def State.usableCores (s : State) (vi : Nat) : List Nat :=
  (List.range Config.numCores).filter (fun c => (s.vi vi).cores.contains c && !s.mgmt.retmap.contains c && !s.mgmt.returned.contains c)

/-- Some sheet of the partition holds two of its cores. -/
def State.twinSheet (s : State) (vi : Nat) : Bool :=
  let cs := s.usableCores vi
  cs.any (fun a => cs.any (fun b => a != b && a / 8 == b / 8))

/-- How a packet came to its queue: by a doorbell of the host block, through a view or SY.LAUNCH, or from a fabric peer. -/
inductive Origin
  | host
  | view
  | peer
  deriving DecidableEq, Repr

/-- The reason for which a packet is refused, the first of Table 14.5; none where it passes. args is what the argument block gives. -/
def refusal (s : State) (q : WQueue) (o : Origin) (ws : List Word) (args : Option (List (Nat × Lane) × Bool)) : Option Nat :=
  let vi := q.vi
  let v := s.vi vi
  let format := bits (pktWord ws 0) 7 0 == 1 && pktReservedOk ws && pktArgs ws % 16 == 0 && decide (pktArgn ws ≤ 32) &&
    (match args with
     | some a => a.2
     | none => true) && (List.range 3).all (fun k => decide ((pktRole ws k).2 ≤ 11))
  let viOk := match o with
    | .view => pktVi ws == 0
    | .host => pktVi ws == vi
    | .peer => pktVi ws == vi
  if !format then some 1
  else if !viOk then some 2
  else if v.maxprio < pktPrio ws then some 3
  else if pktLright ws && o == .peer then some 4
  else
    match s.packetFunc vi ws with
    | none => some 5
    | some (_, f) =>
      if !f.launchable then some 5
      else if pktEdset ws && !s.editions.any (fun e => e.handle == pktCont ws && e.number == pktEdition ws) then some 6
      else if !rolesFit f (rolesAfter f ws) then some 7
      else if (pktWord ws 2).testBit 39 then some 8
      else if 384 < pktWheel ws then some 9
      else if args.isNone then some 10
      else if pktTwin ws && !s.twinSheet vi then some 11
      else none

/-- A done record (Table 14.3). -/
def doneRecord (endC start index core tag cause status : Nat) : BitVec 256 :=
  BitVec.ofNat 256 (endC % 2 ^ 64 * 2 ^ 192 + start % 2 ^ 64 * 2 ^ 128 + index % 2 ^ 32 * 2 ^ 64 + core % 2 ^ 10 * 2 ^ 48 +
    tag % 2 ^ 16 * 2 ^ 32 + cause % 256 * 2 ^ 16 + status % 2 ^ 16)

/-- A done record becomes due. -/
def State.dueRecord (s : State) (q : Nat) (launch : Option Nat) (r : BitVec 256) : State :=
  s.modQueue q (fun x => { x with due := x.due ++ [{ queue := q, launch := launch, record := r }] })

/-- The head packet leaves its queue: HEAD advances (R341). -/
def WQueue.pop (q : WQueue) : WQueue :=
  let h := (q.head + 1) % 2 ^ 32
  { q with
    head := h
    headPkt := none
    headLevel := 0
    acq := none
    peerRing := q.peerRing.filter (fun k => k / 2 != q.head)
    bells := q.bells.filter (fun b => b.1 != h) }

/-- The origin of the packet at a ring index. -/
def WQueue.origin (q : WQueue) (k : Nat) : Origin :=
  if q.peerRing.contains (2 * k) then .peer else if q.peerRing.contains (2 * k + 1) then .view else .host

/-- Writes applied at home before the doorbell that submitted the packet at a ring index (R339); 0 where no doorbell did. -/
def WQueue.seenAt (q : WQueue) (k : Nat) : Nat :=
  match q.bellOf k with
  | some (_, n, true) => n
  | _ => 0

/-- PACKET_HEAD: the packet at HEAD is read and checked, and becomes head or is refused (R341, R345, R366). The read of an argument block first makes
an acquire at SYSTEM scope (R344), and once that is complete no mark below its stamp comes to light (R262, Log 75); its stamp carries core number 0, since no core makes it (DESIGN CHOICE, Log 110). -/
def takeHead (s : State) (q : Nat) : State :=
  let x := s.queue q
  if !x.enable || x.headPkt.isSome || x.waiting = 0 then s
  else
    let ws := s.packetAt x x.head
    let a := s.astabEntry q
    let n := min (pktArgn ws) 32
    let reads := n != 0 && refusal s x (x.origin x.head) ws (some ([], true)) != some 1
    if reads && x.acq.isNone then
      (if s.canStamp 6 then { s with lastStamp := s.stampFor 0 }.modQueue q (fun y => { y with acq := some (s.stampFor 0) }) else s)
    else if reads && !s.launchAcquired (x.acq.getD 0) then s
    else
    let s := if reads then s.settleStamp (x.acq.getD 0) else s
    let raw := s.argBytes (x.acq.getD 0) x.vi a.2 (bits a.1.toNat 51 12 * 4096) (a.1.getLsbD 0) (pktArgs ws) (32 * n)
    let args := raw.map (argEntries n)
    match refusal s x (x.origin x.head) ws args with
    | some r =>
      (s.refresh.dueRecord q none (doneRecord s.cycle 0 x.head 0 (pktTag ws) r 2)).modQueue q WQueue.pop
    | none =>
      s.refresh.modQueue q (fun y =>
        { y with
          headPkt := some ws
          acq := none
          headSince := s.cycle
          headLevel := pktPrio ws
          headS1 := a.1
          headAsid := a.2
          headArgs := match args with
            | some e => e.1
            | none => []
          headSeen := y.seenAt y.head })

/-- The effective level of a head packet (R346). -/
def levelOf (q : WQueue) (now : Nat) : Nat :=
  match q.headPkt with
  | none => 0
  | some ws => pktPrio ws + min ((now - q.headSince) / Config.cycles10ms) (q.ceil - pktPrio ws)

end Sys2Proof.Machine
end

