-- ==== Sys2Proof/Machine/Place.lean ====
section
/-!
DEFINITION. Placement: the room of a core (R11, R12, R292, R379), the launch and its text (R285 to R287), a party (R347, R348), and the waves
of a phase (R239, R301, R344).
-/
namespace Sys2Proof.Machine

/-! Plans and banks (R290 to R292). -/

/-- The logical banks that a plan touches. -/
def planBanks (f : Func) : List Nat :=
  (List.range 32).filter (fun b => f.plan.any (fun e =>
    let a := e.bank * Config.bankBytes + e.offset
    decide (a < (b + 1) * Config.bankBytes) && decide (b * Config.bankBytes < a + e.bytes)))

/-- The units of a kind that a plan grants: 2 circular buffers, 3 landfall zones. -/
def planUnits (f : Func) (kind : Nat) : List Nat := (f.plan.filter (fun e => e.kind == kind)).map (fun e => e.unitno)

/-- A launch declares a matrix role. -/
def hasMatrix (rs : List Role) : Bool := rs.any (fun r => r.kind == 1)

/-- Physical banks of a core's scratchpad that no party there has mapped. -/
def State.freeBanks (s : State) (core spsize : Nat) : List Nat :=
  (List.range (8 * (spsize % 4 + 1))).filter (fun b => (s.coreParties core).all (fun p => p.2.banks.all (fun e => e.2 != b)))

/-! The room of a core. -/

/-- A wave that has exited, all of whose commands are performed (R243). -/
def State.waveDone (s : State) (key : Nat) (w : Wave) : Bool :=
  let c := s.core w.core
  let mine := fun (x : Cmd) => x.wave == key
  w.exited && w.cmds.isEmpty && !c.mxq.any mine && !c.gaq.any mine && !c.sfq.any mine && !c.loops.any (fun e => mine e.2.cmd) &&
    (match s.party? w.party with
     | some p => !p.sxq.any mine && !p.sxWait.any mine
     | none => true)

/-- Wave registers in use on a core: an exited wave's until its commands are performed (R243), another's until step 2 of its boundary (R238). -/
def State.regsUsed (s : State) (core : Nat) : Nat :=
  ((s.coreWaves core).filter (fun e => !s.waveDone e.1 e.2 && !e.2.carried)).foldl (fun n e => n + e.2.alloc * e.2.hw) 0

/-- The waves of a core that have not exited: they hold its resident slots (R15). -/
def State.slotWaves (s : State) (core : Nat) : List (Nat × Wave) := (s.coreWaves core).filter (fun e => !e.2.exited)

/-- Hardware waves resident on a core (R11). -/
def State.hwUsed (s : State) (core : Nat) : Nat := (s.slotWaves core).foldl (fun n e => n + e.2.hw) 0

/-- Resident slots of a core that no wave holds, lowest first: a phase's waves take them in WAVE order, and a 64-lane group takes one number for its
two hardware waves (DESIGN CHOICE, Log 103: R15 does not say which free slot a wave takes, and ties of age go by it). -/
def State.freeSlots (s : State) (core : Nat) : List Nat :=
  (List.range Config.residentSlots).filter (fun r => (s.slotWaves core).all (fun e => e.2.rslot != r))

/-- Waves of the given roles fit on a core (R11). -/
def State.wavesFit (s : State) (core : Nat) (f : Func) (rs : List Role) : Bool :=
  decide (s.regsUsed core + partyRegs f rs ≤ Config.waveRegs) && decide (s.hwUsed core + partyHw f rs ≤ Config.residentSlots)

/-- A core could hold a party, if it held no other: the scratchpad holds its banks (R292). -/
def fitsAlone (s : State) (vi : Nat) (f : Func) : Bool :=
  decide ((planBanks f).length ≤ 8 * ((s.vi vi).spsize % 4 + 1))

/-- A zone of a core is still being closed for a party that has ended: its banks are not free yet (R300, R386). -/
def State.zonesEnding (s : State) (core : Nat) : Bool :=
  (s.core core).clears.any (fun r => match r.op with
    | .zoneEnd _ => true
    | .localClr _ _ | .remoteClr _ _ _ _ _ _ | .lease _ _ | .zoneInit _ _ _ _ | .zoneClose _ _ => false)

/-- No zone that a plan names is granted on a core, to a resident party or to one whose context is saved (R209, R357, R386). -/
def State.zonesFree (s : State) (core : Nat) (f : Func) : Bool :=
  (planUnits f 3).all (fun z => ((s.core core).zone z).granted.isNone)

/-- A core has room for a party of an interface, for a launch that may have parties already (of'): a core holds one party of a launch (R11, R12, R174,
R209, R292, R355). -/
def State.hasRoom (s : State) (vi core : Nat) (of' : Option Nat) (f : Func) (rs : List Role) : Bool :=
  let c := s.core core
  let ps := s.coreParties core
  let none' := fun (g : Party → List Nat) (l : List Nat) => ps.all (fun p => l.all (fun n => !(g p.2).contains n))
  c.haltAt.isNone && (c.running == none || c.running == some vi) && decide (ps.length < 2) && s.wavesFit core f rs &&
    decide ((planBanks f).length ≤ (s.freeBanks core (s.vi vi).spsize).length) && !(hasMatrix rs && ps.any (fun p => p.2.matrix)) &&
    none' (fun p => p.cbGrant) (planUnits f 2) && s.zonesFree core f && !s.zonesEnding core && ps.all (fun p => some p.2.launch != of')

/-! What is to be placed (R347). -/

/-- The parties of a launch that have not ended; the trailing party of a twin pair is not counted. -/
def State.liveParties (s : State) (l : Nat) : List (Nat × Party) :=
  s.parties.filter (fun e => e.2.launch == l && !e.2.ended && e.2.lead)

/-- Hardware waves for which a party takes a waypoint slot of 17 KiB each (R347, R289). -/
def slotKib (f : Func) (rs : List Role) : Nat := 17 * partyHw f rs

/-- The lowest waypoint slot that no party of a launch holds; none where they have run out, so that a further party waits. Without an area none
is needed; an area smaller than one slot is the first party's (DESIGN CHOICE, Log 85). -/
def State.freeWpSlot (s : State) (l : Nat) (x : Launch) : Option Nat :=
  if x.wpkib = 0 then some 0
  else
    let n := max 1 (x.wpkib / max 1 (slotKib x.func x.roles))
    let live := s.liveParties l
    (List.range (min n (live.length + 1))).find? (fun k => live.all (fun e => e.2.wslot != k))

/-- A further party of a placed launch could be placed: fewer than PARTIES and X × Y are, and a task is left for it (R306, R347). -/
def State.wantsParty (s : State) (l : Nat) (x : Launch) : Bool :=
  let live := s.liveParties l
  x.active && decide (live.length < min x.maxParties (x.xs * x.ys)) &&
    decide ((live.filter (fun e => e.2.waiting)).length + x.assigned.length < x.xs * x.ys) && (s.freeWpSlot l x).isSome

/-- Free extra positions of an interface's pool, lowest first (R379). -/
def State.wheelPool (s : State) (vi : Nat) : List Nat :=
  ((List.range 384).map (fun k => k + 640)).filter (fun p =>
    let w := (Tab.getD s.wheelOwn p 0).toNat
    w.testBit 63 && !w.testBit 62 && bits w 61 56 == vi)

/-- Something to place: a further party of a launch, or the head packet of a queue. -/
inductive Item
  | further (launch : Nat)
  | head (queue : Nat)
  deriving DecidableEq, Repr

/-- What an item needs: its function, roles, extra positions, twin mode and level. -/
structure Need where
  f : Func
  rs : List Role
  wheel : Nat
  twin : Bool
  level : Nat
  /-- a waypoint slot is there for it, or it needs none -/
  slot : Bool
  /-- the launch of which it is a further party -/
  of' : Option Nat
  deriving DecidableEq, Repr

/-- The extra positions of a launch: the packet's, or those of the WHEEL section (R343). -/
def wheelOf (f : Func) (ws : List Word) : Nat := if pktWheel ws = 0 then f.wheel else pktWheel ws

/-- The need of an item. -/
def State.need (s : State) (vi : Nat) (i : Item) : Option Need :=
  match i with
  | .further l => (s.launch? l).map (fun x => { f := x.func, rs := x.roles, wheel := x.wheelN, twin := x.twin, level := x.level,
                                                                slot := (s.freeWpSlot l x).isSome, of' := some l })
  | .head q =>
    match (s.queue q).headPkt with
    | none => none
    | some ws => (s.packetFunc vi ws).map (fun e =>
        { f := e.2, rs := rolesAfter e.2 ws, wheel := wheelOf e.2 ws, twin := pktTwin ws, level := (s.queue q).headLevel,
          slot := true, of' := none })

/-- The queues of an interface. -/
def State.queuesOf (s : State) (vi : Nat) : List Nat :=
  let v := s.vi vi
  ((List.range v.qcount).map (fun k => v.qfirst + k)).filter (fun q => (s.queue q).vi == vi)

/-- A queue's head packet waits to be placed, and SERIAL does not hold it (Table 14.2). -/
def State.headReady (s : State) (q : Nat) : Bool :=
  let x := s.queue q
  x.enable && x.headPkt.isSome && !(x.serialBit && decide (0 < x.running))

/-- Every item of an interface. -/
def State.items (s : State) (vi : Nat) : List Item :=
  ((s.launches.filter (fun e => e.2.vi == vi && s.wantsParty e.1 e.2)).map (fun e => Item.further e.1)) ++
    ((s.queuesOf vi).filter s.headReady).map Item.head

/-- The order in which items are tried: a higher level first; at one level a further party, by launch, before the heads, which take
turns after the queue last served at that level (R347). A smaller number goes first. -/
def itemRank (s : State) (vi : Nat) (i : Item) : Nat :=
  match i with
  | .further l => match s.launch? l with
    | some x => (63 - x.level) * 2 ^ 40 + l % 2 ^ 38
    | none => 2 ^ 60
  | .head q =>
    let lv := (s.queue q).headLevel
    let last := Tab.getD (s.vi vi).lastServed lv 4095
    (63 - lv) * 2 ^ 40 + 2 ^ 39 + (q + 4096 - last - 1) % 4096

/-- Items in that order. -/
def sortItems (s : State) (vi : Nat) (l : List Item) : List Item :=
  let before := fun (a b : Item) => decide (itemRank s vi a < itemRank s vi b)
  l.foldr (fun x acc => acc.takeWhile (fun y => before y x) ++ [x] ++ acc.dropWhile (fun y => before y x)) []

/-- A core, or a pair of cores of one sheet, with room for an item (R347). DESIGN CHOICE (Log 136): of several, the lowest-numbered. -/
def State.coresFor (s : State) (vi : Nat) (n : Need) : Option (List Nat) :=
  if (s.wheelPool vi).length < n.wheel ∨ !n.slot then none
  else
    let room := (s.usableCores vi).filter (fun c => s.hasRoom vi c n.of' n.f n.rs)
    if n.twin then
      (room.findSome? (fun a => (room.find? (fun b => decide (a < b) && a / 8 == b / 8)).map (fun b => [a, b])))
    else (room.head?).map (fun a => [a])

/-! Text in memory (R278, R284 to R287). -/

/-- Bytes of an area of virtual addresses, as many as the physical addresses below the aperture, and the number of areas (R365, Log 22). -/
def areaBytes : Nat := 2 ^ 40
def areaCount : Nat := 2 ^ 17

/-- The first of n numbers, from x on and round, that a test allows. -/
def firstFree (n : Nat) (free : Nat → Bool) : Nat → Nat → Option Nat
  | 0, _ => none
  | k + 1, x => if free (x % n) then some (x % n) else firstFree n free k (x + 1)

/-- The areas in use. -/
def State.usedAreas (s : State) : List Nat :=
  s.editions.map (fun e => 32 * e.base / areaBytes) ++ s.containers.map (fun c => c.dataBase / areaBytes) ++
    s.launches.flatMap (fun x => if x.2.completed then [] else [x.2.dataBase / areaBytes, x.2.scratch / areaBytes])

/-- The address of an area that nothing uses: the loader's choice (R278, R284, R287). Area 0 is left free, since its address stands for none. -/
def State.pickArea (s : State) : Nat × State :=
  let free := fun (n : Nat) => n != 0 && !s.usedAreas.contains n
  (areaBytes * (firstFree areaCount free (s.usedAreas.length + 2) (Config.areaFrom s.nextId)).getD 0, { s with nextId := s.nextId + 1 })

/-- 64 KiB of physical memory that the loader may take for an interface: nothing of the loader's lies there, no record waits for it, none of it is
poisoned, and the worlds let the interface reach it (R287, R362). -/
def State.unitFree (s : State) (vi u : Nat) : Bool :=
  !(s.textUnits ++ s.dataUnits ++ s.scratchUnits).contains u && !s.allRecs.any (fun r => r.pkg == 0 && r.gran / 4096 == u) &&
    !s.poison.any (fun f => f / 16 == u) && ((s.vi vi).secure || !s.securePa (65536 * u))

/-- Bytes put into 64 KiB of physical memory, zeros after them, by no write of any core: what stood there is gone from every view and code cache. -/
def State.fillUnit (s : State) (u : Nat) (bs : List Byte) : State :=
  let t := (List.range 65536).foldl (fun t i => t.setHomeByte (65536 * u + i) (nth bs i 0)) s
  { t with
    hist := t.hist.filter (fun a => a.gran / 4096 != u)
    cores := t.cores.map (fun e => (e.1, { e.2 with icache := e.2.icache.filter (fun x => x.1 / 2 ^ 80 / 65536 != u) }))
    nextId := t.nextId + 1 }

/-- Pages put into physical memory that nothing uses, one after another, each taken from a place of the loader's choice; none where memory is full. -/
def State.placeUnits (s : State) (vi : Nat) (taken : List Nat) : List (List Byte) → List Nat × State
  | [] => ([], s)
  | bs :: t =>
    match firstFree (hbmBytes / 65536) (fun u => !taken.contains u && s.unitFree vi u) (hbmBytes / 65536) (Config.unitFrom s.nextId) with
    | none => ([], s)
    | some u =>
      let r := (s.fillUnit u bs).placeUnits vi (u :: taken) t
      (u :: r.1, r.2)

/-- Bytes in pages of 64 KiB. -/
def pagesFrom (bs : List Byte) : List (List Byte) := (List.range ((bs.length + 65535) / 65536)).map (fun k => (bs.drop (65536 * k)).take 65536)

/-- The loader still maps the page of a translation of its own where the translation has it. -/
def State.stillMapped (s : State) (e : TlbEntry) : Bool :=
  match s.loaderPage e.vi (4096 * e.vpage) with
  | some (some (u, _)) => e.ppage / 16 == u
  | some none => false
  | none => false

/-- Translations of the loader's pages that it no longer maps leave every TLB, also where another address still maps the memory (R285). -/
def State.dropFreed (s : State) : State := s.tlbDrop (fun e => e.own && !s.stillMapped e)

/-- Editions that no launch is bound to and that are not the newest are freed (R285). -/
def State.freeEditions (s : State) : State :=
  ({ s with editions := s.editions.filter (fun e => e.newest ||
      s.launches.any (fun x => !x.2.completed && x.2.handle == e.handle && x.2.edition == e.number)) } : State).dropFreed

/-! Tasks (R303 to R307). -/

/-- The tasks of a launch, by y, then x. -/
def Launch.tasks (l : Launch) : List (Nat × Nat) := (List.range l.ys).flatMap (fun y => (List.range l.xs).map (fun x => (x, y)))

/-- Every predecessor of a task under the stencil has retired or lies outside (R304). -/
def Launch.taskFree (l : Launch) (x y : Nat) : Bool :=
  (List.range 15).all (fun k =>
    let px : Int := (x : Int) + (k % 4 : Nat) - 3
    let py : Int := (y : Int) + (k / 4 : Nat) - 3
    !l.stencil.testBit k || decide (px < 0) || decide (py < 0) || decide ((l.xs : Int) ≤ px) || decide ((l.ys : Int) ≤ py) ||
      l.retired.contains (px.toNat, py.toNat))

/-- Tasks newly released enter the queue (R304, R307). -/
def Launch.release (l : Launch) : Launch :=
  { l with released := l.released ++ l.tasks.filter (fun t => !l.released.contains t && !l.assigned.contains t && l.taskFree t.1 t.2) }

/-- A task retires (R305). -/
def Launch.retire (l : Launch) (x y : Nat) : Launch :=
  if l.retired.contains (x, y) then l else { l with retired := l.retired ++ [(x, y)] }.release

/-- The trailing party of a leading party of a twin launch (R319). -/
def State.twinParty (s : State) (id : Nat) : Option Nat :=
  match s.party? id with
  | some p => match s.launch? p.launch with
    | some l => if l.twin && p.lead then some (id + 1) else none
    | none => none
  | none => none

/-- Changes a party and, in twin mode, its trailing party. -/
def State.modPair (s : State) (id : Nat) (f : Party → Party) : State :=
  match s.twinParty id with
  | some t => (s.modParty id f).modParty t f
  | none => s.modParty id f

/-- A party that waits for a task goes before another: it has waited longer, or as long on a lower core; those that begin to wait in one cycle are served
from the next on (R306, R307). -/
def State.nextWaiting (s : State) (l : Nat) : Option Nat :=
  (leastBy (fun (e : Nat × Party) => e.2.waitSince * 1024 + e.2.core) ((s.liveParties l).filter (fun e => e.2.waiting && decide (e.2.waitSince < s.cycle)))).map (fun e => e.1)

/-- A released task goes to the party that has waited longest (R306). -/
def assignTask (s : State) (l : Nat) : State :=
  match s.launch? l with
  | none => s
  | some x =>
    match x.active, x.released, s.nextWaiting l with
    | true, (tx, ty) :: rest, some p =>
      (s.modLaunch l (fun y => { y with released := rest, assigned := y.assigned ++ [(tx, ty)] })).modPair p
        (fun q => { q with waiting := false, taskx := tx, tasky := ty, firstBundle := none })
    | _, _, _ => s

/-! Routes (R240, R308). -/

/-- SelectRoute. -/
def selectRoute (l : Launch) (req : Nat) : Nat :=
  let n := l.func.routes.length
  if n = 0 then 0
  else if req < n then req
  else
    match (List.range n).find? (fun r => (Tab.get? l.routesT r).isNone) with
    | some r => r
    | none => (leastBy (fun r => Tab.getD l.routesT r 0) (List.range n)).getD 0

/-! A party. -/

/-- Zero in the physical banks mapped for a party (R348). -/
def State.clearBanks (s : State) (p : Party) : State :=
  s.modCore p.core (fun c => { c with sram := p.banks.foldl (fun m e => Mem.zero m (e.2 * Config.bankBytes) Config.bankBytes) c.sram })

/-- A party placed on a core for a launch: banks, buffers, zones, the matrix engine, and the state of R348. The party waits for a task. -/
def placeParty (s : State) (launch : Nat) (l : Launch) (core id wslot : Nat) (lead : Bool) : State :=
  let logical := planBanks l.func
  let p : Party :=
    { launch := launch, core := core, banks := logical.zip (s.freeBanks core (s.vi l.vi).spsize), cbGrant := planUnits l.func 2,
      zoneGrant := planUnits l.func 3, matrix := hasMatrix l.roles, cring := 0, held := [], sxq := [], sxWait := [], evc := 0,
      route := selectRoute l 4, routeReq := 4, phaseno := 0, tscratch := 0, gaOut := 0, gaDone := 0, drains := 0, taskx := 0, tasky := 0,
      wheel := [], waitSince := s.cycle, waiting := true, firstBundle := none, waypoints := [], spkeep := false, phaseOver := false, resident := true,
      ended := false, lead := lead, placedAt := s.nextId, wslot := wslot }
  let t := { s with parties := Tab.set s.parties id p, nextId := s.nextId + 1 }
  let u := t.modCore core (fun c =>
    { c with
      running := some l.vi
      sliceStart := if c.running = some l.vi then c.sliceStart else s.cycle
      cbs := c.cbs.filter (fun e => !p.cbGrant.contains e.1)
      mx := if p.matrix then { MxEngine.reset with power := c.mx.power, lastHeld := c.mx.lastHeld } else c.mx })
  p.zoneGrant.foldl (fun v z => v.modZone core z (fun q => { q with granted := some id, vi := l.vi })) u

/-- The extra positions of a party are taken from its interface's pool (R379). -/
def takeWheel (s : State) (vi core id n : Nat) : State :=
  let ps := (s.wheelPool vi).take n
  let own := fun (w : Word) => BitVec.ofNat 64 (w.toNat % 2 ^ 62 / 2 ^ 56 * 2 ^ 56 + 2 ^ 63 + 2 ^ 62 + core)
  ({ s with wheelOwn := ps.foldl (fun t p => Tab.upd t p 0 own) s.wheelOwn }).modParty id (fun p => { p with wheel := ps })

/-- A party, or a twin pair, placed on its cores. -/
def placeOn (s : State) (launch : Nat) (cores : List Nat) : State :=
  match s.launch? launch with
  | none => s
  | some l =>
    match cores, s.freeWpSlot launch l with
    | [a], some k =>
      let id := s.nextId
      takeWheel (placeParty { s with nextId := id + 1 } launch l a id k true) l.vi a id l.wheelN
    | [a, b], some k =>
      let id := s.nextId
      let t := placeParty { s with nextId := id + 2 } launch l a id k true
      placeParty (takeWheel t l.vi a id l.wheelN) launch l b (id + 1) k false
    | _, _ => s

/-- The edition a launch binds: the one its packet names, or the newest (R285). -/
def State.bindEdition (s : State) (ws : List Word) : Option Edition :=
  if pktEdset ws then s.editions.find? (fun e => e.handle == pktCont ws && e.number == pktEdition ws)
  else s.editions.find? (fun e => e.handle == pktCont ws && e.newest)

/-- The launch of a queue's head packet, bound to its edition, with the data of its container and with fresh scratch text (R278, R285 to R287,
R344). DESIGN CHOICE (Log 133): where the container or the edition that the packet names is gone since the packet was checked, nothing is placed and the
packet stays at the head. -/
def makeLaunch (s : State) (vi q : Nat) : Option (Nat × State) :=
  let x := s.queue q
  match x.headPkt with
  | none => none
  | some ws =>
    match s.packetFunc vi ws, s.bindEdition ws with
    | some (c, f), some e =>
      let id := s.nextId
      let area := if f.scratchPages = 0 then (0, { s with nextId := id + 1 }) else { s with nextId := id + 1 }.pickArea
      let pages := area.2.placeUnits vi [] (List.replicate f.scratchPages [])
      let l : Launch :=
        { vi := vi, queue := q, index := x.head, words := ws, func := f, handle := c.handle, edition := e.number,
          textBase := e.base, dataBase := c.dataBase,
          level := x.headLevel, roles := rolesAfter f ws, stencil := pktStencil ws, xs := pktX ws, ys := pktY ws,
          maxParties := if pktParties ws = 0 then 2 ^ 24 else pktParties ws, twin := pktTwin ws, tvec := pktTvec ws, args := x.headArgs,
          lright := pktLright ws, wheelN := wheelOf f ws, wpkib := pktWpkib ws, tag := pktTag ws, released := [], retiring := [],
          timed := [], assigned := [],
          retired := [], routesT := [],
          scratch := area.1, s1root := bits x.headS1.toNat 51 12 * 4096,
          s1on := x.headS1.getLsbD 0, asid := x.headAsid, start := s.cycle, fault := none, cancelled := false, completed := false,
          seen := x.headSeen, dataBytes := (c.data.map (fun d => (d.length + 4095) / 4096 * 4096)).getD 0, dataUnits := c.dataUnits,
          scratchUnits := pages.1 }
      some (id, { pages.2 with launches := Tab.set s.launches id l.release })
    | _, _ => none

/-- The head packet of a queue leaves it, placed: HEAD advances and the counts rise (R341, R347). -/
def countPlaced (s : State) (vi q level : Nat) : State :=
  (s.modQueue q (fun x => { x.pop with running := x.running + 1 })).modVi vi
    (fun v => { v with running := v.running + 1, lastServed := Tab.set v.lastServed level q })

/-- An item placed on cores (R347). -/
def placeItem (s : State) (vi : Nat) (i : Item) (cores : List Nat) : State :=
  match i with
  | .further l => placeOn s l cores
  | .head q =>
    match makeLaunch s vi q with
    | some (l, t) => placeOn (countPlaced t vi q (s.queue q).headLevel) l cores
    | none => s

/-! The waves of a phase (R239, R344). -/

/-- Waves of roles in WAVE order: role and allocation (R294). -/
def waveList (rs : List Role) : List (Nat × Nat) := rs.flatMap (fun r => List.replicate r.waves (r.kind, r.regs))

/-- The place at which a phase starts: the label of its route, or the target, or the entry (R239). -/
def startPc (l : Launch) (p : Party) (w : Option Waypoint) : BitVec 56 :=
  match l.func.routes[p.route]? with
  | some b => BitVec.ofNat 56 (l.textBase + b)
  | none =>
    match w with
    | some x => BitVec.ofNat 56 (bits x.header.toNat 55 0)
    | none => BitVec.ofNat 56 (l.textBase + l.func.entry)

/-- s and a registers that a launch sets (R344). -/
def launchS (l : Launch) : List (Nat × Word) := (List.range 4).map (fun k => (k + 1, nth l.words (12 + k) 0))
def launchA (l : Launch) : List (Nat × Word) :=
  (List.range 4).map (fun k => (k + 1, nth l.words (8 + k) 0)) ++ [(5, BitVec.ofNat 64 l.scratch), (6, BitVec.ofNat 64 l.dataBase)]

/-- Entries that override those of a table. -/
def overlay {α : Type} (base top : List (Nat × α)) : List (Nat × α) := top.foldl (fun t e => Tab.set t e.1 e.2) base

/-- A wave at the start of a phase (Table 1.1, R239, R344, R348). -/
def startWave (s : State) (launch : Nat) (l : Launch) (id : Nat) (p : Party) (num role regs rslot : Nat) (wp : Option Waypoint) : Wave :=
  let width := if l.func.width = 0 then 32 else l.func.width
  let args := (l.args.filter (fun e => decide (e.1 < regs))).map (fun e => (e.1, List.replicate (if width = 64 then 64 else 32) e.2))
  let c : Waypoint := wp.getD { header := 0, v := [], s := [], a := [] }
  { core := p.core, rslot := rslot, launch := launch, party := id, num := num, role := role, width := width, alloc := regs,
    v := overlay args c.v, g := [], s := overlay (launchS l) c.s, a := overlay (launchA l) c.a, k := [], exm := lanesBelow width, exs := 0,
    rrb := 0, lc := 0, ec := 0, fpc := Config.fpcReset, ssig := 0, pc := startPc l p wp, xfer := none, table := none, bracket := false,
    io := WaveIo.start, count := 0, hmode := false, hcount := 0, issued := 0, trap := TrapSt.reset, parked := none, cmds := [], inSet := false,
    age := s.cycle, stalled := 0, pendSince := s.cycle, hold := .none, evcHold := none, exited := false, atPhase := none, carried := false, unpub := 0,
    segEntry := true, seg := 0,
    segBundles := 0, rerun := .none, recovering := false, drained := false, twin := none, twinFails := 0, compared := 0, fwd := [],
    folds := [], escapes := [], trapDue := [], walkBad := none, errSeq := 0 }

/-- A wave takes a resident slot under a new key, and a place of the active set where one is free (R14, R15). -/
def addWave (s : State) (w : Wave) : State :=
  let key := s.nextId
  let t := { s.setWave key w with nextId := s.nextId + 1 }
  if w.hw ≤ t.freePlaces w.core (some key) then t.modWave key (fun v => { v with inSet := true, pendSince := s.cycle }) else t

/-- The waves that take part in the next phase of a party: all of them at its first, then those that had not exited. -/
def phaseWaves (l : Launch) (p : Party) : List (Nat × (Nat × Nat)) :=
  (enum (waveList l.roles)).filter (fun e => p.phaseno == 0 || (Tab.get? p.waypoints e.1).isSome)

/-- The waves of a phase placed on a party's core; from gives the waypoint records. -/
def addWaves (s : State) (id : Nat) (from' : List (Nat × Waypoint)) : State :=
  match s.party? id with
  | none => s
  | some p =>
    match s.launch? p.launch with
    | none => s
    | some l =>
      let ws := phaseWaves l { p with waypoints := from' }
      (ws.zip (s.freeSlots p.core)).foldl (fun t e =>
        addWave t (startWave t p.launch l id p e.1.1 e.1.2.1 e.1.2.2 e.2 (Tab.get? from' e.1.1))) s

/-- The waves of a twin pair know each other (R319). -/
def pairWaves (s : State) (lead trail : Nat) : State :=
  (s.partyWaves lead).foldl (fun t e =>
    match (t.partyWaves trail).find? (fun x => x.2.num == e.2.num && !x.2.exited && !e.2.exited) with
    | some y => (t.modWave e.1 (fun w => { w with twin := some (y.1, true) })).modWave y.1 (fun w => { w with twin := some (e.1, false) })
    | none => t) s

/-- A party's next phase could be placed: it has a task, no waves, and its core has room (R11, R239). -/
def State.phaseReady (s : State) (id : Nat) (p : Party) : Bool :=
  match s.launch? p.launch with
  | none => false
  | some l =>
    l.active && p.resident && !p.ended && !p.waiting && p.firstBundle.isNone && !p.phaseOver &&
      (s.partyWaves id).all (fun e => e.2.exited) && (s.core p.core).haltAt.isNone &&
      (let ws := phaseWaves l p
       decide (s.regsUsed p.core + ws.foldl (fun n e => n + e.2.2 * hwPer l.func) 0 ≤ Config.waveRegs) &&
         decide (s.hwUsed p.core + ws.length * hwPer l.func ≤ Config.residentSlots))

/-! Waypoint records (R301). -/

/-- The bytes of a waypoint record (R301). -/
def Waypoint.bytes (x : Waypoint) : List Byte :=
  bytesOf 64 x.header.toNat ++ x.v.flatMap (fun e => e.2.flatMap (fun y => bytesOf 16 y.toNat)) ++ x.s.flatMap (fun e => bytesOf 8 e.2.toNat) ++
    x.a.flatMap (fun e => bytesOf 8 e.2.toNat)

/-- The registers a mask of a header names, each with the bytes of a body from a place on. -/
def carriedFrom (mask count size : Nat) (bs : List Byte) : List (Nat × List Byte) :=
  (enum ((List.range count).filter (fun n => mask.testBit n))).map (fun e => (e.2, (bs.drop (size * e.1)).take size))

/-- A waypoint record from its bytes; a lane register holds n lanes (R301, Table 10.5). -/
def Waypoint.ofBytes (n : Nat) (bs : List Byte) : Waypoint :=
  let h := Sys2Proof.Machine.ofBytes (bs.take 64)
  let body := bs.drop 64
  let v := carriedFrom (bits h 351 256) 96 (16 * n) body
  let s := carriedFrom (bits h 415 352) 64 8 (body.drop (16 * n * v.length))
  let a := carriedFrom (bits h 431 416) 16 8 (body.drop (16 * n * v.length + 8 * s.length))
  { header := BitVec.ofNat 512 h
    v := v.map (fun e => (e.1, (List.range n).map (fun L => BitVec.ofNat 128 (Sys2Proof.Machine.ofBytes ((e.2.drop (16 * L)).take 16)))))
    s := s.map (fun e => (e.1, BitVec.ofNat 64 (Sys2Proof.Machine.ofBytes e.2)))
    a := a.map (fun e => (e.1, BitVec.ofNat 64 (Sys2Proof.Machine.ofBytes e.2))) }

/-- The place of a wave's record within the waypoint area (R347). -/
def recordOffset (l : Launch) (p : Party) (num : Nat) : Nat := (p.wslot * slotKib l.func l.roles + 17 * hwPer l.func * num) * 1024

/-- The waypoint records of a party as they are read back from its launch's area; one that cannot be read keeps what was written (R301, Log 53). -/
def State.readBack (s : State) (l : Launch) (p : Party) : List (Nat × Waypoint) :=
  p.waypoints.map (fun e => (e.1, match s.readGpa l.vi (pktWpbase l.words + recordOffset l p e.1) e.2.bytes.length with
    | some bs => Waypoint.ofBytes (match e.2.v with
        | x :: _ => x.2.length
        | [] => 32) bs
    | none => e.2))

/-- What a core does before the first bundle of a phase of a party: it acquires at PACKAGE scope, takes what was applied before the doorbell
into its horizon, reads the waypoint records, charged to it (R397), and clears what R348 names. -/
def beginPhase (s : State) (id : Nat) : State :=
  match s.party? id with
  | none => s
  | some p =>
    match s.launch? p.launch with
    | none => s
    | some l =>
      let t := if p.spkeep then s else s.clearBanks p
      let a := t.takeStamp p.core
      let u := a.2.replay p.core 5 a.1 none
      let old := (u.hist.drop (u.hist.length - l.seen)).map (fun x => x.wid)
      let read := fun (v : State) (e : Nat × Waypoint) => v.chargeGpa l.vi p.core (pktWpbase l.words + recordOffset l p e.1) e.2.bytes.length 1
      addWaves (p.waypoints.foldl read (u.join p.core old)) id (u.readBack l p)

/-- The next phase of a party, or of a twin pair, starts (R239, R344). An acquire waits for the marks it replays to stand. -/
def startPhase (s : State) (id : Nat) : State :=
  match s.party? id with
  | none => s
  | some p =>
    let ready := fun (k : Nat) => match s.party? k with
      | some q => s.phaseReady k q && s.canStamp 5 && s.acquireReady q.core 5 (s.takeStamp q.core).1 none
      | none => false
    if !p.lead then s
    else
      match s.twinParty id with
      | none => if ready id then beginPhase s id else s
      | some k =>
        if ready id && ready k then
          let t := (s.modParty k (fun q => { q with waypoints := p.waypoints, phaseno := p.phaseno }))
          pairWaves (beginPhase (beginPhase t id) k) id k
        else s

end Sys2Proof.Machine
end

