-- ==== Sys2Proof/Machine/Halt.lean ====
section
/-!
DEFINITION. Halting a core, saving its context and resuming it (R41, R42, R325, R350, R355, R357 to R359), and which partition a core
runs next.
-/
namespace Sys2Proof.Machine

/-! Twins halt together (R325). -/

/-- The core of the other party of a twin pair. -/
def State.partnerCore (s : State) (id : Nat) (p : Party) : Option Nat :=
  match s.launch? p.launch with
  | some l => if l.twin then (s.party? (if p.lead then id + 1 else id - 1)).map (fun q => q.core) else none
  | none => none

/-- The cores that halt with some cores: those of the other twins, which lie on the same sheets. -/
def State.haltSet (s : State) : Nat → List Nat → List Nat
  | 0, cs => cs
  | n + 1, cs =>
    let more := cs.flatMap (fun c => (s.coreParties c).filterMap (fun e => s.partnerCore e.1 e.2))
    s.haltSet n (more.foldl (fun acc c => if acc.contains c then acc else acc ++ [c]) cs)

/-- The cores that halt with a core. -/
def State.haltsWith (s : State) (core : Nat) : List Nat := s.haltSet 8 [core]

/-- Bundle issue stops on a core, and on those of its twins (R41 step 1). -/
def startHalt (s : State) (core : Nat) : State :=
  (s.haltsWith core).foldl (fun t c => t.modCore c (fun k => { k with haltAt := match k.haltAt with
    | some x => some x
    | none => some s.cycle })) s

/-! When a core is halted (R41 steps 2 to 5, R358). -/

/-- A command of a twin that waits for the other one, which halts too, stays in its queue. -/
def twinWaits (w : Wave) (c : Cmd) : Bool := w.twin.isSome && (w.trails || c.releases || c.isLg)

/-- The streamer of a party has carried out what it has accepted. A copy behind one whose record waits for ring space has not been accepted
(R200, R358). -/
def State.sxQuiet (s : State) (p : Party) : Bool :=
  p.sxWait.all (fun c => c.op.entry) && (p.copyHeld ||
    (match p.sxq with
     | [] => true
     | c :: _ => match c.op with
       | .sx .copy2d _ => s.waitsSts c
       | .sx .copy2dw _ => c.st == .queued || s.waitsSts c
       | _ => true))

/-- The commands of a wave that R152 holds behind a BA wait still in its queue, directly or behind another such command. -/
def Wave.behindWaits (w : Wave) : List Nat :=
  w.cmds.foldl (fun ids c =>
    if !c.isBa && (w.before c.id).any (fun e => e.holds c && (e.baBeforeSpad || ids.contains e.id)) then ids ++ [c.id] else ids) []

/-- Every command that is carried through has been. DESIGN CHOICE (Log 108): a command that stands behind a BA wait not yet satisfied (R152), and an engine
command that must see what is written before that wait (R180, R297), stays in its queue with the wait that step 5 withdraws; step 3 alone would have the
core wait for it. -/
def State.coreQuiet (s : State) (core : Nat) : Bool :=
  let c := s.core core
  let waits := fun (q : List Cmd) => match q with
    | [] => true
    | d :: _ => s.waitsSts d
  (s.coreWaves core).all (fun e => e.2.cmds.all (fun d => d.isBa || twinWaits e.2 d || e.2.behindWaits.contains d.id)) && waits c.mxq &&
    waits c.gaq && c.sfq.isEmpty && c.sends.isEmpty && (s.coreParties core).all (fun p => s.sxQuiet p.2)

/-- A BA command not yet satisfied is withdrawn, to be evaluated afresh at resumption; a WAIT that is satisfied keeps its value (R41, R177). -/
def withdraw (c : Cmd) : Cmd := if c.isBa && c.st.stage.1 != 6 then { c with st := .queued } else c

/-- A party leaves its core. Its SX.WAITC commands that wait keep their order, and are evaluated afresh when it is resident again. -/
def Party.withdrawn (p : Party) : Party := { p with resident := false }

/-! Partitions of a core (R355). -/

/-- A party could be placed on a core if the core were empty; the zones of a party whose context is saved stay granted (R357). -/
def State.couldPlace (s : State) (vi core : Nat) (n : Need) : Bool :=
  (s.usableCores vi).contains core && fitsAlone s vi n.f && s.zonesFree core n.f && n.slot && decide (n.wheel ≤ (s.wheelPool vi).length)

/-- The items of an interface that could be placed on a core. -/
def State.placeable (s : State) (vi core : Nat) : List Need :=
  if (s.vi vi).enable then ((s.items vi).filterMap (fun i => s.need vi i)).filter (s.couldPlace vi core) else []

/-- A context of an interface is saved from a core, and some party of it has not ended. -/
def State.savedOf (s : State) (vi core : Nat) : Option SavedCtx :=
  s.saved.find? (fun x => x.core == core && x.vi == vi && x.parties.any (fun p => match s.party? p with
    | some q => !q.ended
    | none => false))

/-- An interface has a saved context or placeable work on a core. -/
def State.hasWork (s : State) (vi core : Nat) : Bool := (s.savedOf vi core).isSome || !(s.placeable vi core).isEmpty

/-- The next partition of a core that has work there, in increasing interface number, wrapping. -/
def State.nextVi (s : State) (vi core : Nat) : Option Nat :=
  ((List.range 64).map (fun k => (vi + 1 + k) % 64)).find? (fun v => v != vi && (s.vi v).cores.contains core && s.hasWork v core)

/-- The slice of the running partition of a core has ended. -/
def State.sliceEnded (s : State) (core : Nat) : Bool :=
  match (s.core core).running with
  | some v => (s.vi v).slice != 0 && decide ((s.core core).sliceStart + (s.vi v).slice * 100 * Config.cyclesPerUs ≤ s.cycle)
  | none => false

/-- The partition that a core runs after a halt: the next one, where the slice has ended and another has work. -/
def State.runsNext (s : State) (core : Nat) : Option Nat :=
  match (s.core core).running with
  | none => none
  | some v => if s.sliceEnded core then some ((s.nextVi v core).getD v) else some v

/-! Saving and resuming (R357). -/

/-- Two logs of one core as one, in the order of appending. -/
def mergeLogs (a b : List Rec) : List Rec :=
  b.foldl (fun l r => if l.any (fun x => x.wid == r.wid) then l else l.takeWhile (fun x => decide (x.wid < r.wid)) ++ [r] ++
    l.dropWhile (fun x => decide (x.wid < r.wid))) a

/-- What stays with a core, whoever runs on it: its zone controllers, its tags, its prefetches and its translations, the count of its records, its horizon, which
only grows, the marks it has replayed (R256, R262, R263), and what its log still holds of parties that have ended (R264). -/
def Core.swapIn (new live : Core) : Core :=
  { new with
    log := mergeLogs new.log live.log
    seq := max new.seq live.seq
    horizon := new.horizon ++ live.horizon.filter (fun x => !new.horizon.contains x)
    replayed := new.replayed ++ live.replayed.filter (fun x => !new.replayed.contains x)
    lastPub := max new.lastPub live.lastPub
    icache := live.icache
    zones := live.zones
    sends := live.sends
    clears := live.clears
    zcmd := live.zcmd
    zplot := live.zplot
    tags := live.tags
    prefs := live.prefs
    tlb := live.tlb
    lastStamp := max new.lastStamp live.lastStamp
    mx := { new.mx with power := live.mx.power, lastHeld := live.mx.lastHeld }
    running := live.running
    sliceStart := live.sliceStart
    haltAt := none }

/-- A context of a core leaves the shadow array for the context area of its partition, where its layout is free (R355, Log 90). -/
def State.spillCtx (s : State) (core : Nat) (out : SavedCtx → Bool) : State :=
  let off := s.saved.filter (fun y => y.core == core && y.inShadow && out y)
  let t := off.foldl (fun u y =>
    let a := u.ctxArea y.vi core
    { u with ctxBytes := (a, u.nextId) :: u.ctxBytes.filter (fun e => e.1 != a), nextId := u.nextId + 1 }) s
  { t with saved := t.saved.map (fun y => if y.core == core && y.inShadow && out y then { y with inShadow := false } else y) }

/-- A halted core's context is saved in the shadow array, which first spills what it held, unless that is the context the core takes next
(R355, R357). Matrix commands that are saved leave the engine, whose idle count starts anew; a wake on its way continues (R393, R394). -/
def saveContext (s : State) (core : Nat) : State :=
  let c := s.core core
  match c.running with
  | none => s.modCore core (fun k => { k with haltAt := none })
  | some vi =>
    let ps := (s.coreParties core).map (fun e => e.1)
    let ws := (s.coreWaves core).map (fun e => (e.1, { e.2 with cmds := e.2.cmds.map withdraw }))
    let next := s.runsNext core
    let cks := s.ckpts.filter (fun e => ws.any (fun w => w.1 == e.1))
    let x : SavedCtx := { core := core, vi := vi, coreSt := c, waves := ws, parties := ps, ckpts := cks, inShadow := true }
    let s1 := if ps.isEmpty then s else s.spillCtx core (fun y => !(next != some vi && some y.vi == next))
    let t := { s1 with saved := if ps.isEmpty then s1.saved else s1.saved ++ [x], waves := s1.waves.filter (fun e => e.2.core != core) }
    let u := ps.foldl (fun v p => v.modParty p Party.withdrawn) t
    u.modCore core (fun k =>
      let fresh := Core.reset.swapIn { k with log := [], mx := if k.mxq.isEmpty then k.mx else k.mx.stopped s.cycle }
      if ps.isEmpty then { k with haltAt := none, running := next }
      else { fresh with running := next, sliceStart := if next = some vi then k.sliceStart else s.cycle })

/-- PREEMPT_HALT_COMPLETE (R41, R325): a core and those of its twins are saved together, once every one of them has halted; until then a trailing twin
still takes what its leader forwards. -/
def completeHalt (s : State) (core : Nat) : State :=
  let all := s.haltsWith core
  if all.all (fun c => (s.core c).haltAt.isSome && s.coreQuiet c) then all.foldl saveContext s else s

/-- A context returns to its core; matrix commands that it brings to an idle engine raise a wake request (R393). -/
def restoreContext (s : State) (x : SavedCtx) : State :=
  let t := { s with saved := s.saved.filter (fun y => y != x), waves := overlay s.waves x.waves, ckpts := overlay s.ckpts x.ckpts }
  let u := x.parties.foldl (fun v p => v.modParty p (fun q => { q with resident := !q.ended })) t
  settleCore (u.modCore x.core (fun k =>
    let c := x.coreSt.swapIn k
    { c with running := some x.vi, mx := if c.mxq.isEmpty then c.mx else c.mx.request s.cycle })) x.core

/-- The highest level of the launches of some parties. -/
def State.levelOfParties (s : State) (ps : List Nat) : Nat :=
  ps.foldl (fun n p => match (s.party? p).bind (fun q => s.launch? q.launch) with
    | some l => max n l.level
    | none => n) 0

/-- A saved context may resume on its core: the core is empty and runs its partition, and nothing of a higher level could be placed there
(R350). -/
def State.mayResume (s : State) (x : SavedCtx) : Bool :=
  let c := s.core x.core
  c.haltAt.isNone && !s.zonesEnding x.core && (s.coreParties x.core).isEmpty && (c.running == none || c.running == some x.vi) &&
    (s.placeable x.vi x.core).all (fun n => decide (n.level ≤ s.levelOfParties x.parties))

/-- The other party of a twin pair. -/
def State.otherTwin (s : State) (id : Nat) : Option Nat :=
  (s.party? id).bind (fun p => (s.launch? p.launch).bind (fun l => if l.twin then some (if p.lead then id + 1 else id - 1) else none))

/-- Saved contexts with those that hold the other parties of their twin pairs. -/
def State.resumeSet (s : State) : Nat → List SavedCtx → List SavedCtx
  | 0, l => l
  | n + 1, l =>
    s.resumeSet n (l ++ s.saved.filter (fun y => !l.contains y && l.any (fun x => x.parties.any (fun p => (s.otherTwin p).any y.parties.contains))))

/-- The contexts that resume with a context: those of its twins. -/
def State.resumesWith (s : State) (x : SavedCtx) : List SavedCtx := s.resumeSet 8 [x]

/-- A party of a context has not ended. -/
def State.alive (s : State) (x : SavedCtx) : Bool := x.parties.any (fun p => match s.party? p with
  | some q => !q.ended
  | none => false)

/-- CONTEXT_RESUME (R42, R325, R350): a context resumes on its core, with those of its twins. One whose parties have ended is dropped
once its log is empty. DESIGN CHOICE (Log 123): where the condition of R350 holds for several contexts saved from a core, the one saved first resumes;
the rule gives them no order. -/
def resume (s : State) (core : Nat) : State :=
  let dead := fun (x : SavedCtx) => x.core == core && x.coreSt.log.isEmpty && x.parties.all (fun p => match s.party? p with
    | some q => q.ended
    | none => true)
  if s.saved.any dead then { s with saved := s.saved.filter (fun x => !dead x) }
  else
    match s.saved.find? (fun x => x.core == core && s.alive x && (s.resumesWith x).all s.mayResume) with
    | none => s
    | some x => (s.resumesWith x).foldl restoreContext s

/-! The placement scheduler (R347, R350). -/

/-- A core may be pre-empted for a level: every party on it, and on the cores that halt with it, is of a lower one (R350). -/
def State.preemptible (s : State) (vi level core : Nat) : Bool :=
  (s.haltsWith core).all (fun c => (s.core c).running == some vi && (s.core c).haltAt.isNone && !(s.coreParties c).isEmpty &&
    (s.coreParties c).all (fun e => match s.launch? e.2.launch with
      | some l => decide (l.level < level)
      | none => false))

/-- Of two cores, the first is pre-empted before the second: a lower level, then a later party, then a higher number (R350). -/
def preemptBefore (s : State) (a b : Nat) : Bool :=
  let lv : Nat → Nat := fun c => s.levelOfParties ((s.coreParties c).map (fun e => e.1))
  let late : Nat → Nat := fun c => (s.coreParties c).foldl (fun n e => max n e.2.placedAt) 0
  if lv a ≠ lv b then decide (lv a < lv b) else if late a ≠ late b then decide (late b < late a) else decide (b < a)

/-- The core that R350 chooses for an item. In twin mode its sheet has a second core with room or to pre-empt; a sheet where one has
room already comes first. -/
def State.preemptCore (s : State) (vi : Nat) (n : Need) : Option Nat :=
  let room := (s.usableCores vi).filter (fun c => s.hasRoom vi c n.of' n.f n.rs)
  let can := (s.usableCores vi).filter (fun c => s.couldPlace vi c n && s.preemptible vi n.level c)
  let first := fun (l : List Nat) => l.foldl (fun acc c => match acc with
    | none => some c
    | some b => if preemptBefore s c b then some c else some b) none
  if n.twin then
    match first (can.filter (fun c => room.any (fun b => b != c && b / 8 == c / 8))) with
    | some c => some c
    | none => first (can.filter (fun c => can.any (fun b => b != c && b / 8 == c / 8)))
  else first can

/-- A core of the partition is being halted for it. -/
def State.halting (s : State) (vi : Nat) : Bool := (s.usableCores vi).any (fun c => (s.core c).haltAt.isSome && (s.core c).running == some vi)

/-- The first item that can be placed, or for which a core is pre-empted. A head packet that can be placed nowhere keeps every lower level
from being placed (R347). -/
def tryItems (s : State) (vi : Nat) : List Item → Nat → State
  | [], _ => s
  | i :: rest, bound =>
    match s.need vi i with
    | none => tryItems s vi rest bound
    | some n =>
      if n.level < bound then s
      else
        match s.coresFor vi n with
        | some cs => placeItem s vi i cs
        | none =>
          match s.preemptCore vi n with
          | some c => startHalt s c
          | none => tryItems s vi rest (match i with
            | .head _ => n.level
            | .further _ => bound)

/-- SCHEDULE_PLACE (R347): one party is placed, or one core is pre-empted. -/
def schedule (s : State) (vi : Nat) : State :=
  if !(s.vi vi).enable || s.halting vi then s else tryItems s vi (sortItems s vi (s.items vi)) 0

/-- SLICE_SWITCH (R355): at the end of a slice, or when the running partition has nothing left and takes no slices, a core turns to the
next partition with work. -/
def sliceSwitch (s : State) (core : Nat) : State :=
  let c := s.core core
  let idle := (s.coreParties core).isEmpty
  match c.running with
  | none =>
    match s.nextVi 63 core, s.hasWork 63 core && (s.vi 63).cores.contains core with
    | some v, _ => s.modCore core (fun k => { k with running := some v, sliceStart := s.cycle })
    | none, true => s.modCore core (fun k => { k with running := some 63, sliceStart := s.cycle })
    | none, false => s
  | some v =>
    let ends := if (s.vi v).slice = 0 then idle && !s.hasWork v core else s.sliceEnded core
    if c.haltAt.isSome || !ends then s
    else
      match s.nextVi v core with
      | none => s.modCore core (fun k => { k with sliceStart := if (s.vi v).slice = 0 then k.sliceStart else s.cycle })
      | some u =>
        if idle then s.modCore core (fun k => { k with running := some u, sliceStart := s.cycle }) else startHalt s core

end Sys2Proof.Machine
end

