-- ==== Sys2Proof/Machine/Phase.lean ====
section
/-!
DEFINITION. The end of a phase and of a party (R238, R243, R305, R306), the end of a launch and its done record (R342, R349), and the
preserved copies of the field book (R403).
-/
namespace Sys2Proof.Machine

/-! Publication at the end of a phase or a party. -/

/-- The commands whose engine-log records on a core are not published. -/
def Core.engineCmds (c : Core) : List Nat :=
  (c.log.filter (fun r => r.engine && r.stamp.isNone)).foldl (fun acc r => if acc.contains r.cmd then acc else acc ++ [r.cmd]) []

/-- A core publishes its log tail and its engine log (R238, R243). -/
def publishTail (s : State) (core launch scope : Nat) : Option State :=
  match publish s core { scope := scope, launch := launch, engine := false, hor := (s.core core).horizon } 0 [] with
  | none => none
  | some (_, t) =>
    (t.core core).engineCmds.foldl (fun acc c => acc.bind (fun u =>
      (publish u core { scope := scope, launch := launch, engine := true, hor := (u.core core).horizon } c []).map (fun r => r.2))) (some t)

/-! Phase end. -/

/-- A wave has performed every command it has pushed; a running LOOPCOPY goes on (R238 step 1, R252). -/
def State.waveIdle (s : State) (key : Nat) (w : Wave) : Bool :=
  let c := s.core w.core
  let mine := fun (x : Cmd) => x.wave == key
  w.cmds.isEmpty && !c.mxq.any mine && !c.gaq.any mine && !c.sfq.any mine && w.escapes.isEmpty && w.folds.isEmpty && !s.waveHeld w key &&
    (match s.party? w.party with
     | some p => !p.sxq.any mine && !p.sxWait.any mine
     | none => true)

/-- A wave's waypoint record: carried lane registers, and s and a registers of its function (R238, R301). DESIGN CHOICE (Log 135): a 64-lane group writes one
record, with 1,024 bytes a lane register, where R301 gives 512 bytes for 32 lanes. -/
def waypointOf (f : Func) (p : Party) (w : Wave) (target : BitVec 56) (keep : Bool) : Waypoint :=
  let mask := fun (l : List Nat) => l.foldl (fun n k => n ||| 2 ^ k) 0
  let vs := (List.range 96).filter (fun n => f.carryV.contains n)
  let ss := (List.range 64).filter (fun n => f.carryS.contains n)
  let as' := (List.range 16).filter (fun n => f.carryA.contains n)
  { header := BitVec.ofNat 512 (target.toNat + keep.toNat * 2 ^ 193 + w.role % 4 * 2 ^ 194 + w.num % 16 * 2 ^ 196 +
      p.taskx % 2 ^ 12 * 2 ^ 200 + p.tasky % 2 ^ 12 * 2 ^ 212 + p.phaseno % 2 ^ 32 * 2 ^ 224 + mask vs * 2 ^ 256 + mask ss * 2 ^ 352 +
      mask as' * 2 ^ 416),
    v := vs.map (fun n => (n, (List.range w.phys).map (fun L => laneAt (w.readV n) L)))
    s := ss.map (fun n => (n, Tab.getD w.s n 0))
    a := as'.map (fun n => (n, w.readA n)) }

/-- A wave of a party stands at its boundary with every command performed, and its record is still to be written (R238 step 1). -/
def State.toCarry (s : State) (id : Nat) : List (Nat × Wave) :=
  (s.partyWaves id).filter (fun e => e.2.atPhase.isSome && !e.2.exited && !e.2.carried && s.waveIdle e.1 e.2)

/-- A wave's waypoint record, with SPKEEP as the wave gave it. -/
def Wave.waypoint (w : Wave) (f : Func) (p : Party) : Waypoint :=
  match w.atPhase with
  | some (t, k) => waypointOf f p w t k
  | none => waypointOf f p w 0 false

/-- A waypoint record written to its launch's area (R301), and charged to its core (R397). -/
def State.writeWaypoint (s : State) (l : Launch) (p : Party) (num : Nat) (x : Waypoint) : State :=
  let a := pktWpbase l.words + recordOffset l p num
  (s.writeGpa l.vi a x.bytes).chargeGpa l.vi p.core a x.bytes.length 2

/-- Step 2 of R238 for one wave: its record is written, its unpopped entries are discarded and its allocation is released. A record beyond the
waypoint area faults the launch (Table 14.6). -/
def carryWave (s : State) (id : Nat) (e : Nat × Wave) : State :=
  match s.party? id with
  | none => s
  | some p =>
    match s.launch? p.launch with
    | none => s
    | some l =>
      let x := e.2.waypoint l.func p
      if l.wpkib * 1024 < recordOffset l p e.2.num + x.bytes.length then s.faultLaunch p.launch codeWaypoint p.core
      else
        ((if p.lead then s.writeWaypoint l p e.2.num x else s).modWave e.1 (fun w => { w with carried := true, io := { w.io with res := [] } })).modParty
          id (fun q => { q with waypoints := Tab.set (if (s.partyWaves id).any (fun y => y.2.carried) then q.waypoints else []) e.2.num x })

/-- Every wave of a party that has not exited has completed step 2 (R238 step 3, R243). -/
def State.atBoundary (s : State) (id : Nat) : Bool :=
  let ws := (s.partyWaves id).filter (fun e => !e.2.exited)
  !ws.isEmpty && ws.all (fun e => e.2.carried)

/-- The waves of a party that stand at its boundary leave the core, and with them those that have exited and performed their commands. -/
def State.dropCarried (s : State) (id : Nat) : State :=
  ((s.partyWaves id).filter (fun e => e.2.carried || s.waveDone e.1 e.2)).foldl (fun t e =>
    { t.dropWave e.1 with ckpts := Tab.erase t.ckpts e.1 }) s

/-- The waves of a party leave the core. -/
def State.dropWaves (s : State) (id : Nat) : State :=
  (s.partyWaves id).foldl (fun t e => { t.dropWave e.1 with ckpts := Tab.erase t.ckpts e.1 }) s

/-- A task retires in this cycle; where a phase ran it, its route's time is measured (R240, R305). -/
def retireTask (s : State) (launch : Nat) (p : Party) (routed : Bool) : State :=
  s.modLaunch launch (fun l =>
    { l with
      retiring := l.retiring ++ [(p.taskx, p.tasky)]
      timed := if routed then l.timed ++ [(p.core, p.route, s.cycle - p.firstBundle.getD s.cycle)] else l.timed })

/-- SPKEEP of a boundary: 1 where its waves disagree (R238). It stands in every record of the boundary (R301). -/
def keepOf (ws : List (Nat × Waypoint)) : Bool := ws.any (fun e => e.2.header.getLsbD 193)
def Waypoint.withKeep (x : Waypoint) (keep : Bool) : Waypoint :=
  if keep then { x with header := x.header ||| 1#512 <<< 193 } else x

/-- The records of a boundary with its SPKEEP; those whose wave gave another are written again. -/
def State.agreeKeep (s : State) (id : Nat) (l : Launch) (p : Party) : State :=
  let keep := keepOf p.waypoints
  let late := p.waypoints.filter (fun e => keep && !e.2.header.getLsbD 193)
  (late.foldl (fun t e => t.writeWaypoint l p e.1 (e.2.withKeep keep)) s).modParty id (fun q =>
    { q with spkeep := keep, waypoints := q.waypoints.map (fun e => (e.1, e.2.withKeep keep)) })

/-- PHASE_END (R238): the waves at the boundary that are done write their records and release their allocations; when every wave has, the party
publishes at PACKAGE scope and its task retires. Its next phase is queued at the end of the cycle, when every phase that ends in it has
retired its task and updated its route's time (R307, R308). -/
def endPhase (s0 : State) (id : Nat) : State :=
  match s0.party? id with
  | none => s0
  | some p0 =>
    if !p0.lead || p0.ended || !p0.resident || p0.phaseOver || (s0.core p0.core).haltAt.isSome then s0
    else
      let tw := s0.twinParty id
      let carry := fun (u : State) (k : Nat) => (u.toCarry k).foldl (fun v e => carryWave v k e) u
      let s := match tw with
        | some k => carry (carry s0 id) k
        | none => carry s0 id
      let both := s.atBoundary id && (match tw with
        | some k => s.atBoundary k
        | none => true)
      match s.party? id with
      | none => s
      | some p =>
        match s.launch? p.launch with
        | none => s
        | some l =>
          if !both || p.ended then s
          else
            match publishTail s p.core p.launch 5 with
            | none => (s.noteWait 5 p.core (.tail id p.phaseno 5)).getD s
            | some t =>
              let t1 := retireTask (t.agreeKeep id l p) p.launch p true
              let ws := match t1.party? id with
                | some q => q.waypoints
                | none => []
              let go := fun (u : State) (k : Nat) => (u.dropCarried k).modParty k (fun q =>
                { q with phaseOver := true, waypoints := ws, spkeep := keepOf ws })
              match tw with
              | some k => go (go t1 id) k
              | none => go t1 id

/-! The end of a cycle: retirements, route times and the phases that follow (R307, R308). -/

/-- A list in increasing order of a key; equal keys keep their order. -/
def sortBy {α : Type} (key : α → Nat) (l : List α) : List α :=
  l.foldr (fun x acc => acc.takeWhile (fun y => decide (key y < key x)) ++ [x] ++ acc.dropWhile (fun y => decide (key y < key x))) []

/-- The retirements of a cycle in increasing (TASKY, TASKX), and the route times in increasing core number. -/
def Launch.closeCycle (l : Launch) : Launch :=
  let r := (sortBy (fun t => t.2 * 4096 + t.1) l.retiring).foldl (fun x t => x.retire t.1 t.2) l
  { r with
    routesT := (sortBy (fun (t : Nat × Nat × Nat) => t.1) l.timed).foldl (fun t e => Tab.set t e.2.1 e.2.2) l.routesT
    retiring := []
    timed := [] }

/-- The next phase of a party is queued: its route picked, and it waits for a task (R238 steps 4 and 5, R240). -/
def nextPhase (s : State) (id : Nat) : State :=
  s.modParty id (fun p =>
    { p with
      route := match s.launch? p.launch with
        | some l => selectRoute l p.routeReq
        | none => p.route
      routeReq := 4
      phaseno := (p.phaseno + 1) % 2 ^ 32
      waiting := true
      waitSince := s.cycle
      firstBundle := none
      phaseOver := false })

/-- What the phases and parties that ended in a cycle leave to its end. -/
def closePhases (s : State) : State :=
  let t := { s with launches := s.launches.map (fun e => (e.1, e.2.closeCycle)) }
  ((s.parties.filter (fun e => e.2.phaseOver && !e.2.ended)).map (fun e => e.1)).foldl nextPhase t

/-! Party end. -/

/-- Every wave of a party has exited with its commands performed (R243). -/
def State.allExited (s : State) (id : Nat) (p : Party) : Bool :=
  let ws := s.partyWaves id
  p.firstBundle.isSome && !p.phaseOver && !ws.isEmpty && ws.all (fun e => s.waveDone e.1 e.2 && e.2.escapes.isEmpty && e.2.folds.isEmpty && !s.waveHeld e.2 e.1)

/-- A party whose last publication stands: its task retires, and it ends, with its trailing party (R243, R305). -/
def closeParty (s : State) (id : Nat) (p : Party) (exits : Bool) : State :=
  let t := if exits then retireTask s p.launch p false else s
  let go := fun (u : State) (k : Nat) => (u.dropWaves k).endParty k
  match s.twinParty id with
  | some k => go (go t id) k
  | none => go t id

/-- PARTY_END (R243, R305, R306, R386): its waves have exited, or it waits and every task has been assigned. Its logs are published at SYSTEM scope; once
the marks of that stand, its task retires, and it ends. -/
def finishParty (s : State) (id : Nat) : State :=
  match s.party? id with
  | none => s
  | some p =>
    match s.launch? p.launch with
    | none => s
    | some l =>
      let tw := s.twinParty id
      let exits := s.allExited id p && (match tw with
        | some k => match s.party? k with
          | some q => s.allExited k q
          | none => false
        | none => true)
      let idle := p.waiting && decide (l.assigned.length = l.xs * l.ys)
      if !p.lead || p.ended || !p.resident || !(exits || idle) || (s.core p.core).haltAt.isSome then s
      else
        match p.ending with
        | some ids => if ids.all s.markStands then closeParty s id p exits else s
        | none =>
          match publishTail s p.core p.launch 6 with
          | none => (s.noteWait 6 p.core (.tail id p.phaseno 6)).getD s
          | some t =>
            let ids := (t.marks.filter (fun m => decide (s.nextId ≤ m.id))).map (fun m => m.id)
            let u := t.modParty id (fun q => { q with ending := some ids })
            if ids.all u.markStands then closeParty u id p exits else u

/-! Launch end. -/

/-- Every mark of a launch has been applied at home (R349). -/
def State.marksGone (s : State) (launch : Nat) : Bool := s.marks.all (fun m => m.launch != launch || m.gone || m.pkg != 0)

/-- LAUNCH_COMPLETE (R349). -/
def completeLaunch (s : State) (id : Nat) : State :=
  match s.launch? id with
  | none => s
  | some l =>
    let parties := s.parties.all (fun e => e.2.launch != id || e.2.ended)
    let done := decide (l.retired.length = l.xs * l.ys) && parties
    if l.completed || !(done || !l.active) || !parties || !s.marksGone id then s
    else
      let c := match l.cancelled, l.fault with
        | true, _ => (0, 0, 3)
        | false, some (cause, core) => (core, cause, 1)
        | false, none => (0, 0, 0)
      ((s.modLaunch id (fun x => { x with completed := true })).freeEditions).dueRecord l.queue (some id)
        (doneRecord s.cycle l.start l.index c.1 l.tag c.2.1 c.2.2)

/-- A launch that has been reported leaves the machine with its parties. -/
def State.forget (s : State) (id : Nat) : State :=
  { s with launches := Tab.erase s.launches id, parties := s.parties.filter (fun e => e.2.launch != id) }

/-- DONE_RECORD_WRITE (R342): the oldest due record of a queue is written, DHEAD advances, and the interrupt is raised. -/
def writeDone (s : State) (q : Nat) : State :=
  let x := s.queue q
  match x.due with
  | [] => s
  | d :: rest =>
    let n := ringLog x.done
    if (x.dhead + 2 ^ 32 - x.dtail) % 2 ^ 32 = 2 ^ n then s
    else
      let t := s.writeGpa x.vi (ringBase x.done + 32 * (x.dhead % 2 ^ n)) (bytesOf 32 d.record.toNat)
      let t1 := t.modQueue q (fun y => { y with due := rest, dhead := (y.dhead + 1) % 2 ^ 32, running := y.running - d.launch.toList.length })
      let iid := bits x.irq.toNat 11 0
      let t2 := if iid = 0 then t1 else { t1 with irqs := t1.irqs ++ [(bits x.irq.toNat 19 16, if x.irq.getLsbD 20 then some x.vi else none, iid)] }
      match d.launch with
      | some l => (t2.modVi (match s.launch? l with
          | some y => y.vi
          | none => x.vi) (fun v => { v with running := v.running - 1 })).forget l
      | none => t2

/-! Preserved copies (R403). -/

/-- The order of a preserved copy: TIME, then DIE, then SEQ. -/
def bookKey (r : BitVec 256) : Nat := bits r.toNat 255 192 * 2 ^ 24 + bits r.toNat 23 0

/-- The newest 2,048 records of the package, in that order. -/
def State.newestRecords (s : State) : List (BitVec 256) :=
  let all := s.fieldBook.flatMap (fun e => e.2.recs)
  let sorted := all.foldr (fun x acc => acc.takeWhile (fun y => decide (bookKey y < bookKey x)) ++ [x] ++
    acc.dropWhile (fun y => decide (bookKey y < bookKey x))) []
  sorted.drop (sorted.length - 2048)

/-- The slot that a new copy takes: an empty one, or the one whose copy is older. -/
def Mgmt.nextSlot (m : Mgmt) : Nat :=
  if (Tab.get? m.slots 0).isNone then 0 else if (Tab.get? m.slots 1).isNone then 1
  else if Tab.getD m.slotTime 0 0 ≤ Tab.getD m.slotTime 1 0 then 0 else 1

/-- A copy is in progress: begun less than 1 ms ago, in a slot not released since, and not complete yet, which the tape decides; 0, and an empty tape, say
that it is in progress (R403, Log 114). -/
def State.inCopy (s : State) : Option Nat × State :=
  match s.mgmt.copying with
  | some (k, at') =>
    if s.cycle < at' + 1000 * Config.cyclesPerUs ∧ (Tab.get? s.mgmt.slots k).isSome then
      let c := s.choose
      (if c.1 = 0 then some k else none, c.2)
    else (none, s)
  | none => (none, s)

/-- A preserving event: a copy into a slot, or into the copy in progress, which then includes its record. -/
def State.preserve (s0 : State) : State :=
  let x := s0.inCopy
  let s := x.2
  let m := s.mgmt
  let slot := x.1.getD m.nextSlot
  { s with
    nextId := s.nextId + 1
    mgmt := { m with
      slots := Tab.set m.slots slot s.newestRecords
      slotTime := Tab.set m.slotTime slot s.nextId
      copying := if x.1.isSome then m.copying else some (slot, s.cycle) } }

/-- HALT_TIMEOUT (R359, R403): a core not halted within HALTLIM microseconds has its launches terminated. -/
def timeoutHalt (s : State) (core : Nat) : State :=
  match (s.core core).haltAt, (s.core core).running with
  | some t, some v =>
    let lim := if (s.vi v).haltlim = 0 then 2000 else (s.vi v).haltlim
    if t + lim * Config.cyclesPerUs ≤ s.cycle ∧ !s.coreQuiet core then
      let ls := (s.coreParties core).map (fun e => e.2.launch)
      let u := (ls.foldl (fun x l => x.faultLaunch l codeHaltTimeout core) s).preserve
      saveContext u core
    else s
  | _, _ => s

/-- KILL (R351): waiting packets are cancelled in ring order, and running launches terminated. -/
def killQueue (s : State) (q : Nat) : State :=
  let x := s.queue q
  let tagOf := fun (k : Nat) => match x.headPkt, k with
    | some ws, 0 => pktTag ws
    | _, _ => pktTag (s.packetAt x (x.head + k))
  let recs := (List.range x.waiting).map (fun k => doneRecord s.cycle 0 (x.head + k) 0 (tagOf k) 0 3)
  let t := (recs.foldl (fun u r => u.dueRecord q none r) s).modQueue q (fun y =>
    { y with enable := false, head := y.tail, headPkt := none, headLevel := 0, peerRing := [], bells := [], acq := none })
  let ls := (s.launches.filter (fun e => e.2.queue == q && !e.2.completed)).map (fun e => e.1)
  ls.foldl (fun u l => (u.modLaunch l (fun y => { y with cancelled := true })).terminateLaunch l) t

/-- A ring index lies among the first packets of a queue up to a TAIL. -/
def WQueue.below (q : WQueue) (tail k : Nat) : Bool := decide ((k + 2 ^ 32 - q.head) % 2 ^ 32 < (tail + 2 ^ 32 - q.head) % 2 ^ 32)

/-- A doorbell (R339, R341): a lower TAIL takes packets back, and with them what is known of their submission. -/
def doorbell (s : State) (q tail : Nat) (view : Bool) : State :=
  s.modQueue q (fun x =>
    let t := tail % 2 ^ 32
    if 2 ^ ringLog x.ring < (t + 2 ^ 32 - x.head) % 2 ^ 32 then { x with ovf := true }
    else
      let n := (t + 2 ^ 32 - x.tail) % 2 ^ 32
      { x with
        tail := t
        headPkt := if t = x.head then none else x.headPkt
        acq := if t = x.head then none else x.acq
        headLevel := if t = x.head then 0 else x.headLevel
        bells := x.bells.filter (fun b => b.1 == t || x.below t b.1) ++ [(t, s.hist.length, true)]
        peerRing := (if view && decide (n ≤ 2 ^ 16) then (List.range n).map (fun k => 2 * ((x.tail + k) % 2 ^ 32) + 1) else []) ++
          x.peerRing.filter (fun k => x.below t (k / 2)) })

end Sys2Proof.Machine
end

