-- ==== Sys2Proof/Machine/Boot.lean ====
section
/-!
DEFINITION. Boot (R387 to R391): the check of an image, measurement, and what a stop, a module reset and a loss of power leave (R276, R390,
R391, R396, R403).
-/
namespace Sys2Proof.Machine

/-- The bytes of an image's header (Table 16.1). -/
def headerBytes (i : Image) : List Byte :=
  bytesOf 4 i.magic.toNat ++ bytesOf 1 i.kind.toNat ++ bytesOf 35 0 ++ bytesOf 4 i.version.toNat ++ bytesOf 4 i.size ++ bytesOf 8 i.load ++
    bytesOf 8 i.entry ++ bytesOf 64 i.pubkey.toNat

/-- Header, body and signature. -/
def imageBytes (i : Image) : List Byte := headerBytes i ++ i.body ++ i.sig

/-- The key digest of an image's signer. -/
def keyDigest (k : BitVec 512) : BitVec 256 := Config.shake256 (bytesOf 64 k.toNat)

/-- The fused minimum version of a KIND (R387). -/
def Mgmt.minVersion (m : Mgmt) (kind : Nat) : Nat := Tab.getD m.fused kind 0

/-- The stop code with which an image fails (R387, Table 16.3); none where it is accepted. -/
def imageFails (m : Mgmt) (i : Image) (kind : Nat) (digests : List (BitVec 256)) : Option Nat :=
  if i.magic ≠ 0x544F4F42#32 ∨ i.kind.toNat ≠ kind ∨ i.size < 1 ∨ 2 ^ 28 < i.size ∨ i.body.length ≠ i.size then some 1
  else if !digests.contains (keyDigest i.pubkey) then some 2
  else if i.sig.length ≠ Config.sigBytes ∨ !Config.slhVerify i.pubkey "KRBOOT1" (headerBytes i ++ i.body) i.sig then some 3
  else if i.version.toNat < m.minVersion kind then some 4
  else none

/-- A measurement register is extended by an image (R389). -/
def Mgmt.measure (m : Mgmt) (n : Nat) (i : Image) : Mgmt :=
  let old : BitVec 256 := Tab.getD m.meas n 0
  { m with meas := Tab.set m.meas n (Config.shake256 (bytesOf 32 old.toNat ++ bytesOf 32 (Config.shake256 (imageBytes i)).toNat)) }

/-- A boot stop (R391, R403): the code is kept for the management port, written to the field book, and the book preserved. -/
def bootStop (s : State) (code kind : Nat) : State :=
  ({ s with mgmt := { s.mgmt with stop := code } }.fb { cls := 9, code := code, addr := 0, detail := kind, vi := none, core := none }).preserve

/-- A stage may run: the one before it has completed and the boot has not stopped. -/
def Mgmt.atStage (m : Mgmt) (n : Nat) : Bool := m.stage == n && m.stop == 0

/-- What is in force after a module reset (R276): everything as at power-on, but home memory, and what the management controller keeps. -/
def moduleResetState (s : State) : State :=
  { State.reset with
    home := s.home
    undef := s.undef
    ctxBytes := s.ctxBytes
    mgmt := { Mgmt.reset with
      before := s.mgmt.before + s.cycle
      corrected := s.mgmt.corrected
      inbox := s.mgmt.inbox
      fused := s.mgmt.fused
      retmap := s.mgmt.retmap
      operators := s.mgmt.operators
      operatorVersion := s.mgmt.operatorVersion
      lastReq := s.mgmt.lastReq
      slots := s.mgmt.slots
      slotTime := s.mgmt.slotTime }
    replies := s.replies
    agenda := s.agenda
    tape := s.tape
    fresh := s.fresh
    nextId := s.nextId }

/-- What is left when standby power is lost: the preserved slots, RETMAP, the fused values (R403, R404), the operator list with the last
request numbers, which only LOADLIST and accepted commands change (R407), and the corrected errors reported, whose 24 hours go on (R405, Log 64). -/
def powerLossState (s : State) : State :=
  { State.reset with
    mgmt := { Mgmt.reset with
      before := s.mgmt.before + s.cycle
      corrected := s.mgmt.corrected
      fused := s.mgmt.fused
      retmap := s.mgmt.retmap
      operators := s.mgmt.operators
      operatorVersion := s.mgmt.operatorVersion
      lastReq := s.mgmt.lastReq
      slots := s.mgmt.slots
      slotTime := s.mgmt.slotTime }
    agenda := s.agenda
    tape := s.tape
    fresh := s.fresh
    nextId := s.nextId }

/-- The end of the power sequence (R390): every core is halted and belongs to no partition. -/
def powerUp (s : State) : State :=
  { s with
    cycle := 0
    fabric := { s.fabric with reached := [] }
    poison := []
    placeModes := []
    cores := []
    waves := []
    turn := []
    vis := s.vis.map (fun e => (e.1, { e.2 with cores := [] }))
    parties := []
    mgmt := { s.mgmt with powered := true, before := s.mgmt.before + s.cycle, copying := none } }

/-- The public keys of a trust list or operator list (R388). -/
def keysOf (body : List Byte) : List (BitVec 512) :=
  (List.range (body.length / 64)).map (fun k => BitVec.ofNat 512 (ofBytes ((body.drop (64 * k)).take 64)))

/-- A list of 1 to 32 keys. -/
def keyListOk (body : List Byte) : Bool := body.length % 64 == 0 && decide (1 ≤ body.length / 64) && decide (body.length / 64 ≤ 32)

/-- STANDBY_POWER_ON (R389): the ROM verifies and measures MCFW. -/
def standbyPowerOn (s : State) (img : Image) : State :=
  if !s.mgmt.atStage 0 then s
  else
    match imageFails s.mgmt img 1 [Config.rootDigest] with
    | some c => bootStop s c 1
    | none => { s with mgmt := { s.mgmt.measure 0 img with stage := 1 } }

/-- A body of an image lies in die 0's tract-0 HBM (R389, R390: every frame is in mode 0). -/
def inTract0 (i : Image) : Bool := decide (i.load + i.size ≤ Config.stackBytes)

/-- MCFW_START (R389, R390): the power sequence, then CCFW. DESIGN CHOICE (Log 94): an image whose LOAD lies outside die 0's tract-0 HBM, where R389
has it loaded, stops the boot with FORMAT; Table 16.3 names no code for it. -/
def mcfwStart (s : State) (railsOk trainOk : Bool) (img : Image) : State :=
  if !s.mgmt.atStage 1 then s
  else if !railsOk then bootStop s 5 2
  else if !trainOk then bootStop s 6 2
  else
    let t := powerUp s
    match imageFails t.mgmt img 2 [Config.rootDigest] with
    | some c => bootStop t c 2
    | none =>
      if inTract0 img then { t.writeHome img.load img.body with mgmt := { t.mgmt.measure 1 img with stage := 2, ccEntry := img.entry } }
      else bootStop t 1 2

/-- CC_CORE0_RELEASE (R389 stage 2): core 0 starts at CCFW's ENTRY, with its world bit 1. -/
def releaseCore0 (s : State) : State :=
  if s.mgmt.atStage 2 then
    { s with
      mgmt := { s.mgmt with stage := 3 }
      ccWorld := Tab.set s.ccWorld 0 true
      ccStart := Tab.set s.ccStart 0 s.mgmt.ccEntry }
  else s

/-- The firmware keeps the trust list's body in a secure region (R388), unless it lies in one already. DESIGN CHOICE (Log 94): region entry 0, which wins
over every other (R362), takes its 2 MiB blocks; the entries up to the first that is not valid move up by one, and of 256 valid ones the last is given
up. -/
def keepTrust (s : State) (i : Image) : State :=
  let t := s.writeHome i.load i.body
  let first := i.load / 2 ^ 21
  let last := (i.load + i.size - 1) / 2 ^ 21
  if (List.range (last + 1 - first)).all (fun k => t.securePa ((first + k) * 2 ^ 21)) then t
  else
    let at' := fun (e : Nat) => Tab.getD t.regions e (0, 0)
    let n := ((List.range 255).find? (fun e => !(at' e).1.getLsbD 0)).getD 255
    let moved := (List.range n).foldl (fun l e => Tab.set l (e + 1) (at' e)) t.regions
    { t with regions := Tab.set moved 0 (BitVec.ofNat 64 (first % 2 ^ 31 * 2 ^ 21 + 3), BitVec.ofNat 64 (last % 2 ^ 31 * 2 ^ 21)) }

/-- CCFW_STAGE3 (R388, R389): the trust list, the world bits, the other fifteen cores, the OS first stage, which core 0 enters. Which cores the firmware makes non-secure comes from the tape: bit
n of the choice stands for core n. -/
def ccfwStage3 (s : State) (trust os : Image) : State :=
  if !s.mgmt.atStage 3 then s
  else
    let bad := match imageFails s.mgmt trust 4 [Config.rootDigest] with
      | some c => some c
      | none => if keyListOk trust.body then none else some 1
    match bad with
    | some c => bootStop s c 4
    | none =>
      let t := { keepTrust s trust with mgmt := { s.mgmt.measure 2 trust with trust := keysOf trust.body } }
      let x := t.choose
      let u := { x.2 with ccWorld := (List.range 16).map (fun n => (n, !x.1.testBit n)) }
      match imageFails u.mgmt os 3 (u.mgmt.trust.map keyDigest) with
      | some c => bootStop u c 3
      | none => { u.writeHome os.load os.body with mgmt := { u.mgmt.measure 3 os with stage := 4 }, ccStart := Tab.set u.ccStart 0 os.entry }

/-! Power and temperature (R395, R396). -/

/-- LIMIT as it acts (Table 16.5). -/
def Mgmt.effLimit (m : Mgmt) : Nat := min 3000 (max 1000 m.limit)

/-- The temperature at which a die trips (R396). -/
def tripTemp : Nat := 115

/-- THERMAL_TRIP (R396, R403): a die has reached 115 degrees. The event is written, with a TMAX of at least that, and the book preserved; then the dies
lose power. -/
def thermalTrip (s : State) : State :=
  moduleResetState (s.fb { cls := 8, code := 3, addr := 0, detail := s.mgmt.duty % 32 + max tripTemp s.mgmt.tmax % 256 * 256, vi := none,
                           core := none }).preserve

/-- DUTY_UPDATE (R395, R396, Table 16.5): the power over the last 1 ms and the hottest die, as measured; at 115 degrees it trips. -/
def updateDuty (s : State) (power tmax : Nat) : State :=
  if tripTemp ≤ tmax then thermalTrip { s with mgmt := { s.mgmt with power := power, tmax := tmax } } else
  let m := s.mgmt
  let hot := decide (105 ≤ tmax)
  let above := decide (m.effLimit < power)
  let d := if above || hot then max 4 (m.duty - 1)
    else if power * 100 < m.effLimit * 95 ∧ tmax ≤ 100 then min 16 (m.duty + 1) else m.duty
  let fell := decide (d < m.duty)
  let n : Mgmt :=
    { m with
      power := power
      tmax := tmax
      duty := d
      lowers := if fell then min (2 ^ 32 - 1) (m.lowers + 1) else m.lowers
      rpower := if d = 16 then false else if fell then above else m.rpower
      rtherm := if d = 16 then false else if fell then hot else m.rtherm }
  let t := { s with mgmt := n }
  let note := fun (c : Nat) => t.fb { cls := 8, code := c, addr := 0, detail := d % 32 + tmax % 256 * 256, vi := none, core := none }
  if m.duty = 16 ∧ d ≠ 16 then note 1 else if m.duty ≠ 16 ∧ d = 16 then note 2 else t


end Sys2Proof.Machine
end

