-- ==== Sys2Proof/Machine/EvBoot.lean ====
section
/-!
DEFINITION. Events of boot, power, reset and errors (R276, R313, R327, R387 to R396, R403).
-/
namespace Sys2Proof.Machine

/-- STANDBY_POWER_ON (R389). -/
def execStandbyPowerOn (img : Image) (s : State) : Host.Outcome State Fault Refusal := .next (standbyPowerOn s img)

/-- MCFW_START (R389, R390). -/
def execMcfwStart (railsOk trainOk : Bool) (img : Image) (s : State) : Host.Outcome State Fault Refusal :=
  .next (mcfwStart s railsOk trainOk img)

/-- CC_CORE0_RELEASE (R389). -/
def execCcCore0Release (s : State) : Host.Outcome State Fault Refusal := .next (releaseCore0 s)

/-- CCFW_STAGE3 (R388, R389). -/
def execCcfwStage3 (trust os : Image) (s : State) : Host.Outcome State Fault Refusal := .next (ccfwStage3 s trust os)

/-- MODULE_RESET (R276). -/
def execModuleReset (s : State) : Host.Outcome State Fault Refusal := .next (moduleResetState s)

/-- POWER_LOSS (R403). -/
def execPowerLoss (s : State) : Host.Outcome State Fault Refusal := .next (powerLossState s)

/-- DUTY_UPDATE (R395). -/
def execDutyUpdate (power tmax : Nat) (s : State) : Host.Outcome State Fault Refusal := .next (updateDuty s power tmax)

/-- THERMAL_TRIP (R396). -/
def execThermalTrip (s : State) : Host.Outcome State Fault Refusal := .next (thermalTrip s)

/-- The die where a corrected error arises, if its site has one of its own (R400, Log 102): of HBM that of the stack, of fabric FEC that of the port,
of an L2 error that names no core that of the memory's tract. -/
def correctedDie (s : State) (site core addr : Nat) : Option Nat :=
  if site = 5 then some (addr / 12)
  else if site = 4 ∨ (site = 3 ∧ Config.numCores ≤ core) then some (s.tractOf addr / 4)
  else none

/-- CORRECTED_ERROR (R313, R400, R405): one record for each corrected error. A number that is no core's stands for none; the address of a fabric
FEC error names its port, and its record holds no address. Errors of a core are counted. -/
def execCorrectedError (site core addr : Nat) (s : State) : Host.Outcome State Fault Refusal :=
  let who := if core < Config.numCores then some core else none
  let t := s.fb { cls := 2, code := site, addr := if site = 5 then 0 else addr, detail := 1, vi := who.bind s.coreVi, core := who,
                  on := correctedDie s site core addr }
  .next (if core < Config.numCores then { t with mgmt := { t.mgmt with corrected := t.mgmt.corrected ++ [(core, s.mgmt.before + s.cycle)] } } else t)

/-- UNCORRECTABLE_HBM_ERROR (R327): the granule is marked poisoned. -/
def execUncorrectableHbmError (pa : Nat) (s : State) : Host.Outcome State Fault Refusal :=
  if isHbm pa then
    .next ((s.setPoison (pa / 4096) true).fb { cls := 3, code := 4, addr := pa, detail := 1, vi := none, core := none, on := some (s.tractOf pa / 4) })
  else .next s

end Sys2Proof.Machine
end

