-- ==== Sys2Proof/Machine/Loader.lean ====
section
/-!
DEFINITION. The loader, the patch engine and demand loading (R277 to R292): the checks of a container, its editions, and text pages.
-/
namespace Sys2Proof.Machine

/-! The byte image (R277, R279). -/

/-- A little-endian field of n bytes. -/
def fieldAt (im : List Byte) (off n : Nat) : Nat := ofBytes ((im.drop off).take n)

/-- Fields of the header (Table 9.1). -/
def boxMagic (c : Container) : Nat := fieldAt c.image 0 4
def boxFver (c : Container) : Nat := fieldAt c.image 4 2
def boxNsec (c : Container) : Nat := fieldAt c.image 6 2
def boxDirOff (c : Container) : Nat := fieldAt c.image 8 8
def boxTotal (c : Container) : Nat := fieldAt c.image 16 8

/-- Entry k of the directory (Table 9.2), with the bytes of its section. -/
def sectionAt (c : Container) (k : Nat) : Section :=
  let im := c.image.drop (boxDirOff c + 32 * k)
  let off := fieldAt im 8 8
  let size := fieldAt im 16 8
  { typ := fieldAt im 0 2, gensel := fieldAt im 2 2, offset := off, size := size, bytes := (c.image.drop off).take size,
    reservedZero := fieldAt im 4 4 == 0 && fieldAt im 24 8 == 0 }

/-- The directory. -/
def boxDir (c : Container) : List Section := (List.range (boxNsec c)).map (sectionAt c)

/-- The first section of a type. -/
def sectionOf (c : Container) (typ : Nat) : Option Section := (boxDir c).find? (fun e => e.typ == typ)

/-- The manifest. -/
def manifestOf (c : Container) : List Byte := ((sectionOf c 1).map (fun e => e.bytes)).getD []

/-- Fields of a manifest's header (Table 9.4). -/
def manMver (m : List Byte) : Nat := fieldAt m 0 2
def manBaseDig (m : List Byte) : Nat := fieldAt m 4 4
def manNsec (m : List Byte) : Nat := fieldAt m 8 2
def manNfunc (m : List Byte) : Nat := fieldAt m 10 2
def manNpages (m : List Byte) : Nat := fieldAt m 12 4
def manSigner (m : List Byte) : BitVec 128 := BitVec.ofNat 128 (fieldAt m 16 16)

/-- The next 64-byte boundary. -/
def upTo64 (n : Nat) : Nat := (n + 63) / 64 * 64

/-- Where the parts of a manifest begin (R279). -/
def manPages (m : List Byte) : Nat := 64 + upTo64 (32 * manNsec m)
def manSig (m : List Byte) : Nat := manPages m + upTo64 (32 * manNpages m)

/-- Section digest k and page digest k of a manifest. -/
def sectionDigest (m : List Byte) (k : Nat) : BitVec 256 := BitVec.ofNat 256 (fieldAt m (64 + 32 * k) 32)
def pageDigest (m : List Byte) (k : Nat) : BitVec 256 := BitVec.ofNat 256 (fieldAt m (manPages m + 32 * k) 32)

/-- The bytes of a manifest that are signed, and the signature. -/
def manSigned (m : List Byte) : List Byte := m.take (manSig m)
def manSignature (m : List Byte) : List Byte := m.drop (manSig m)

/-- The form of a manifest: version, reserved bits, NFUNC, and the length of the signature (R279). -/
def manifestForm (m : List Byte) : Bool :=
  manMver m == 1 && fieldAt m 2 2 == 0 && fieldAt m 32 32 == 0 && decide (1 ≤ manNfunc m ∧ manNfunc m ≤ 4096) && m.length == manSig m + Config.sigBytes

/-! The form of a container (R277, R278). -/

/-- Section types of Table 9.3. -/
def knownTypes : List Nat := [1, 2, 3, 4, 5, 6, 7, 8, 9, 10, 11, 0x10, 0x11, 0x12, 0x13, 0x20]

/-- One directory entry (Table 9.2). -/
def dirOk (total : Nat) (e : Section) : Bool :=
  e.reservedZero && knownTypes.contains e.typ && (e.typ == 2 || e.typ == 0x13 || e.gensel == 0) &&
    e.offset % (if e.typ = 2 then 65536 else 64) == 0 && (e.typ != 2 || e.size % 65536 == 0) && decide (e.offset + e.size ≤ total)

/-- Byte ranges that share no byte. -/
def apart (a b : Nat × Nat) : Bool := decide (a.1 + a.2 ≤ b.1) || decide (b.1 + b.2 ≤ a.1)

/-- Pairs of a list, each element with every later one. -/
def laterPairs {α : Type} : List α → List (α × α)
  | [] => []
  | x :: t => t.map (fun y => (x, y)) ++ laterPairs t

/-- Header and directory (R280 step 1): the limits of Tables 9.1 and 9.2, sections that do not overlap, and the section counts of Table 9.3. -/
def directoryOk (c : Container) : Bool :=
  let dir := boxDir c
  let ranges := (0, 64) :: (boxDirOff c, 32 * boxNsec c) :: dir.map (fun e => (e.offset, e.size))
  let count := fun (k : Nat) => (dir.filter (fun e => e.typ == k)).length
  decide (boxDirOff c + 32 * boxNsec c ≤ boxTotal c) && dir.all (dirOk (boxTotal c)) && (laterPairs ranges).all (fun p => apart p.1 p.2) &&
    count 1 == 1 && count 4 == 1 && count 0x20 == 1 && (laterPairs dir).all (fun p => p.1.typ != p.2.typ || p.1.gensel != p.2.gensel)

/-- Pages of a section of text. -/
def textPages (e : Section) : Nat := if e.typ = 2 then e.size / 65536 else 0

/-- Step 1 of R280, with the form of the manifest, which step 2 needs (Log 17). -/
def formatOk (c : Container) : Bool :=
  let m := manifestOf c
  boxMagic c == 0x534C5441 && boxFver c == 1 && decide (1 ≤ boxNsec c ∧ boxNsec c ≤ 64) && boxDirOff c % 64 == 0 && fieldAt c.image 24 40 == 0 &&
    boxTotal c == c.image.length && directoryOk c && manifestForm m && manNsec m == boxNsec c &&
    manNpages m == (boxDir c).foldl (fun n e => n + textPages e) 0

/-! The functions of a container (Tables 9.3 and 9.5). -/

/-- A field of an entry of a section whose layout the spec does not give (Log 17); 0 without the section. -/
def boxField (c : Container) (typ k j : Nat) : Nat :=
  match sectionOf c typ with
  | some e => Config.sectionField typ e.bytes k j
  | none => 0

/-- A plan entry from its 32 bytes (Table 9.5). -/
def planEntryAt (bs : List Byte) (n : Nat) : PlanEntry :=
  let x := fieldAt bs (32 * n) 32
  { kind := bits x 7 0, bank := bits x 15 8, unitno := bits x 31 24, offset := bits x 63 32, bytes := bits x 95 64, first := bits x 127 96,
    last := bits x 159 128, reservedZero := bits x 23 16 == 0 && bits x 255 160 == 0 }

/-- The entries of the PLAN section, each with the function whose it is: no field of the entry names it (Log 17). -/
def planEntries (c : Container) : List (Nat × PlanEntry) :=
  match sectionOf c 5 with
  | none => []
  | some e => (List.range (e.size / 32)).map (fun n => (Config.sectionField 5 e.bytes n 0, planEntryAt e.bytes n))

/-- The registers that a mask of a function's carry set names: n bits from a byte of its 32 (Table 9.3). -/
def carrySet (c : Container) (k off n : Nat) : List Nat :=
  match sectionOf c 9 with
  | none => []
  | some e =>
    let x := fieldAt e.bytes (32 * k + off) ((n + 7) / 8)
    (List.range n).filter (fun i => x.testBit i)

/-- A section holds a function at a portable level (R281, R283). -/
def atLevel (c : Container) (level k : Nat) : Bool :=
  match sectionOf c level with
  | some e => fieldAt e.bytes 0 2 == level && Config.sectionField level e.bytes k 0 != 0
  | none => false

/-- Function k of a container: its entries of FUNCS, ROLES, PLAN, WHEEL, ROUTES, CARRY, SEGTAB, BENCH and XREF. -/
def boxFunc (c : Container) (k : Nat) : Func :=
  let seq := fun (typ : Nat) => (List.range (boxField c typ k 0)).map (fun i => boxField c typ k (i + 1))
  { entry := boxField c 4 k 0
    edition := boxField c 4 k 1 % 2 ^ 32
    width := boxField c 4 k 2
    eager := (boxField c 4 k 3).testBit 0
    launchable := (boxField c 4 k 3).testBit 1
    scratchPages := boxField c 4 k 4
    roles := (List.range (boxField c 6 k 0)).map (fun i =>
      { kind := boxField c 6 k (3 * i + 1), regs := boxField c 6 k (3 * i + 2), waves := boxField c 6 k (3 * i + 3) })
    plan := ((planEntries c).filter (fun e => e.1 == k)).map (fun e => e.2)
    wheel := boxField c 7 k 0
    routes := seq 8
    carryV := carrySet c k 0 96
    carryS := carrySet c k 12 64
    carryA := carrySet c k 20 16
    segtab := seq 10
    bench := (List.range (boxField c 11 k 0)).map (fun i => (boxField c 11 k (2 * i + 1), boxField c 11 k (2 * i + 2)))
    calleeWidths := ((boxDir c).filter (fun e => e.typ == 0x13)).flatMap (fun e =>
      (List.range (Config.sectionField 0x13 e.bytes k 0)).map (fun i => boxField c 4 (Config.sectionField 0x13 e.bytes k (i + 1)) 2))
    translatable := [0x10, 0x11, 0x12].any (fun v => atLevel c v k) }

/-- The functions of a container, NFUNC of them. -/
def boxFuncs (c : Container) : List Func := (List.range (manNfunc (manifestOf c))).map (boxFunc c)

/-- One plan entry (Table 9.5, R290). -/
def planEntryOk (e : PlanEntry) : Bool :=
  e.reservedZero && decide (1 ≤ e.kind ∧ e.kind ≤ 3) && decide (e.bank ≤ 31) && decide (e.offset < 32768) && e.offset % 16 == 0 &&
    decide (16 ≤ e.bytes ∧ e.bytes ≤ 1048576) && e.bytes % 16 == 0 && decide (e.first ≤ e.last) &&
    decide (e.unitno ≤ (if e.kind = 1 then 0 else if e.kind = 2 then 15 else 7)) &&
    decide (e.bank * Config.bankBytes + e.offset + e.bytes ≤ 2 ^ 20)

/-- The entries of a function keep the limits of Table 9.3, and its carry set those of `.carry` and R238: DESIGN CHOICE (Log 132), the spec gives a larger one no
load status. -/
def funcFormOk (f : Func) : Bool :=
  (f.width == 0 || f.width == 16 || f.width == 64) && decide (f.scratchPages ≤ 64) && decide (f.roles.length ≤ 3) && decide (f.wheel ≤ 384) &&
    decide (f.routes.length ≤ 4) && decide (f.carryV.length ≤ 32) && decide (f.carryS.length + f.carryA.length ≤ 32)

/-- The sections of functions keep the limits of Table 9.3: the CARRY entries are 32 bytes each, padded with zeros, and PLAN holds whole entries. -/
def sectionsFormOk (c : Container) : Bool :=
  (match sectionOf c 9 with
   | some e => e.size == 32 * manNfunc (manifestOf c) &&
       (List.range (manNfunc (manifestOf c))).all (fun k => fieldAt e.bytes (32 * k + 22) 10 == 0)
   | none => true) &&
  (match sectionOf c 5 with
   | some e => e.size % 32 == 0 && (planEntries c).all (fun x => decide (x.1 < manNfunc (manifestOf c)))
   | none => true)

/-- The plan of a function keeps the limits of R290. -/
def planFormOk (f : Func) : Bool :=
  f.plan.all planEntryOk && (laterPairs f.plan).all (fun p => p.1.kind == 1 || p.1.kind != p.2.kind || p.1.unitno != p.2.unitno)

/-! The other checks (R280, R283, R288 to R292). -/

/-- The key that a SIGNER field names on the trust list (R388). -/
def Mgmt.signerKey (m : Mgmt) (signer : BitVec 128) : Option (BitVec 512) :=
  m.trust.find? (fun k => ((keyDigest k).truncate 128 : BitVec 128) == signer)

/-- A manifest is signed, over the bytes before its signature, by the key of the trust list that its SIGNER names (R279, R280 step 2). -/
def Mgmt.signedBy (m : Mgmt) (man : List Byte) : Bool :=
  match m.signerKey (manSigner man) with
  | some k => Config.slhVerify k "ATLAS1" (manSigned man) (manSignature man)
  | none => false

/-- Every section digest matches; the manifest's own is zero (R280 step 3). -/
def sectionsMatch (c : Container) : Bool :=
  (enum (boxDir c)).all (fun e =>
    if e.2.typ = 1 then sectionDigest (manifestOf c) e.1 == 0 else Config.shake256 e.2.bytes == sectionDigest (manifestOf c) e.1)

/-- The native text for the E4, with the number of its first page digest. -/
def nativeText (c : Container) : Option (Section × Nat) :=
  (enum (boxDir c)).findSome? (fun e => if e.2.typ = 2 ∧ e.2.gensel = 4 then
    some (e.2, ((boxDir c).take e.1).foldl (fun n x => n + textPages x) 0) else none)

/-- The text chosen for a function (R283): native, or translated from a level. -/
inductive TextChoice
  | native
  | translate (level : Nat)
  deriving DecidableEq, Repr

/-- The native text holds a function: its entry bundle lies in it (Log 17). -/
def holdsText (c : Container) (f : Func) : Bool :=
  match nativeText c with
  | some (e, _) => decide (32 * (f.entry + 1) ≤ e.size)
  | none => false

/-- ChooseText(f, E4) of R283. -/
def chooseText (c : Container) (x : Emdx) (k : Nat) : Option TextChoice :=
  let knows := fun (v : Nat) => atLevel c v k && x.nodes.contains (v, k) && (match sectionOf c v with
    | some e => x.vers.contains (v, fieldAt e.bytes 2 2)
    | none => false)
  if holdsText c (boxFunc c k) then some .native
  else ([0x10, 0x11, 0x12].find? knows).map TextChoice.translate

/-- The text of every function of a container is native. -/
def allNative (c : Container) : Bool := (boxFuncs c).all (holdsText c)

/-- A container derived from another keeps every section but the manifest and what the E4's text and XREF replace, adds those two, and names the manifest it
comes from (R283). Native text of the source, which ChooseText returns for the functions it holds, begins the text of the derived container unchanged. -/
def derivedFrom (c d : Container) : Bool :=
  let kept := fun (x : Container) => ((boxDir x).filter (fun e => e.typ != 1 && !((e.typ == 2 || e.typ == 0x13) && e.gensel == 4))).map
    (fun e => (e.typ, e.gensel, e.bytes))
  let has := fun (t : Nat) => (boxDir d).any (fun e => e.typ == t && e.gensel == 4)
  (kept c).all (kept d).contains && (kept d).all (kept c).contains && has 2 && has 0x13 &&
    (match nativeText c, nativeText d with
     | some (e, _), some (x, _) => x.bytes.take e.size == e.bytes
     | none, _ => true
     | some _, none => false) &&
    manBaseDig (manifestOf d) == (Config.shake256 (manifestOf c)).toNat % 2 ^ 32

/-- The roles of a function: within the limits of `.role`, and no kind twice, whether it can be launched or not (R107); those of a launchable function
besides as R288 has them. -/
def funcRolesOk (f : Func) : Bool :=
  f.roles.all (fun r => roleInLimits r && decide (r.kind ≤ 2)) && (laterPairs f.roles).all (fun p => p.1.kind != p.2.kind) &&
    (!f.launchable || rolesFit f f.roles)

/-- Two plan entries conflict (R290). -/
def planClash (a b : PlanEntry) : Bool :=
  let place := fun (e : PlanEntry) => (e.bank * Config.bankBytes + e.offset, e.bytes)
  let always := fun (e : PlanEntry) => e.kind != 1
  !apart (place a) (place b) && (always a || always b || (decide (a.first ≤ b.last) && decide (b.first ≤ a.last)))

/-- The pages of the native text: number, bytes, digest. -/
def pagesOf (c : Container) : List (Nat × List Byte × BitVec 256) :=
  match nativeText c with
  | none => []
  | some (e, d) => (List.range (e.size / 65536)).map (fun k => (k, (e.bytes.drop (65536 * k)).take 65536, pageDigest (manifestOf c) (d + k)))

/-- A page is one of an eager function: it lies from that of its entry bundle on, before the next that holds an entry bundle (DEDUCED, Log 38: a page
belongs to one function, R279). -/
def eagerPage (fs : List Func) (k : Nat) : Bool :=
  fs.any (fun f => f.eager && decide (f.entry / 2048 ≤ k) && !fs.any (fun g => decide (f.entry / 2048 < g.entry / 2048) && decide (g.entry / 2048 ≤ k)))

/-- The pages that are loaded at once: those of eager functions, and those that hold an entry bundle (R280). -/
def eagerPages (c : Container) : List Nat :=
  let fs := boxFuncs c
  (List.range (pagesOf c).length).filter (fun k => fs.any (fun f => f.entry / 2048 == k || f.routes.any (fun b => b / 2048 == k)) || eagerPage fs k)

/-- A page's bytes match its digest. -/
def pageMatches (p : Nat × List Byte × BitVec 256) : Bool := Config.shake256 p.2.1 == p.2.2

/-- Steps 1 to 3 of R280. -/
def formStatus (s : State) (c : Container) : Nat :=
  if !formatOk c then 1
  else if !s.mgmt.signedBy (manifestOf c) then 2
  else if !sectionsMatch c then 3
  else 0

/-- Step 4 of R280: the container whose text is loaded, the one that emdx derives where some function has to be translated (R283, Log 72). -/
def textStatus (s : State) (c : Container) (x : Emdx) : Nat × Container :=
  if allNative c then (0, c)
  else if !(List.range (manNfunc (manifestOf c))).all (fun k => (chooseText c x k).isSome) then (4, c)
  else
    match x.derived with
    | none => (4, c)
    | some d => if !derivedFrom c d then (4, c) else if formStatus s d ≠ 0 then (formStatus s d, d) else if allNative d then (0, d) else (4, d)

/-- Step 5 of R280, in the order of its rules, and the page digests that are checked at load. DESIGN CHOICE (Log 131): the limits of section contents
(Table 9.3, FORMAT), for which R280 names no step, are checked here, before the roles. -/
def fitStatus (s : State) (vi : Nat) (c : Container) : Nat :=
  let fs := boxFuncs c
  if !sectionsFormOk c || !fs.all funcFormOk then 1
  else if !fs.all funcRolesOk then 5
  else if !fs.all (fun f => f.calleeWidths.all (fun w => w == f.width)) then 6
  else if !fs.all planFormOk then 1
  else if fs.any (fun f => (laterPairs f.plan).any (fun p => planClash p.1 p.2)) then 7
  else if !fs.all (fun f => fitsAlone s vi f) then 8
  else if !((pagesOf c).filter (fun p => (eagerPages c).contains p.1)).all pageMatches then 3
  else 0

/-- The status of a load (R280, Table 9.6), and the container that is loaded. -/
def loadStatus (s : State) (vi : Nat) (c : Container) (x : Emdx) : Nat × Container :=
  if formStatus s c ≠ 0 then (formStatus s c, c)
  else
    let t := textStatus s c x
    if t.1 ≠ 0 then t else (fitStatus s vi t.2, t.2)

/-- A handle that no loaded container has (R278): the loader's choice, or the lowest free number where that one is taken. -/
def State.pickHandle (s : State) : BitVec 32 :=
  let free := fun (h : BitVec 32) => h != 0 && !s.containers.any (fun c => c.handle == h) && !s.editions.any (fun e => e.handle == h)
  let h := Config.handleOf s.nextId
  if free h then h
  else match (List.range (s.containers.length + s.editions.length + 1)).find? (fun n => free (BitVec.ofNat 32 (n + 1))) with
    | some n => BitVec.ofNat 32 (n + 1)
    | none => 0

/-- The number of the edition that a fresh container's text becomes (R284): that of function 0. DESIGN CHOICE (Log 130): FUNCS holds an edition for each
function (Table 9.3), and the rule gives the text one. -/
def firstEdition (c : Container) : Nat := boxField c 4 0 1 % 2 ^ 32

/-- CONTAINER_LOAD (R280): the loader's reply is the status and the handle. -/
def loadContainer (s : State) (vi : Nat) (c0 : Container) (x : Emdx) : State :=
  let st := loadStatus s vi c0 x
  if st.1 ≠ 0 then { s with replies := s.replies ++ [.load st.1 0] }
  else
    let h := s.pickHandle
    let c := st.2
    let data := (sectionOf c 3).map (fun e => e.bytes)
    let eager := (pagesOf c).filter (fun p => (eagerPages c).contains p.1)
    let text := { s with nextId := s.nextId + 1 }.pickArea
    let t1 := text.2.placeUnits vi [] (eager.map (fun p => p.2.1))
    let e : Edition :=
      { handle := h, number := firstEdition c, vi := vi, base := text.1 / 32, units := (eager.map (fun p => p.1)).zip t1.1, pages := pagesOf c,
        loaded := eagerPages c, failedPages := [], newest := true }
    let t2 : State := { t1.2 with editions := s.editions ++ [e] }
    let area := if data.isSome then t2.pickArea else (0, t2)
    let t3 := area.2.placeUnits vi [] (data.elim [] pagesFrom)
    { t3.2 with
      containers := s.containers ++ [{ handle := h, vi := vi, c := c, funcs := boxFuncs c, data := data, dataBase := area.1, dataUnits := t3.1 }]
      replies := s.replies ++ [.load 0 h] }

/-- CONTAINER_UNLOAD (R278): its handle may be given again; its editions are freed once no launch is bound to them. -/
def unloadContainer (s : State) (h : BitVec 32) : State :=
  let old := fun (e : Edition) => if e.handle = h then { e with newest := false } else e
  let t : State := { s with containers := s.containers.filter (fun c => c.handle != h), editions := s.editions.map old }
  t.freeEditions

/-- The replaced pages of a patch, each with its digest: the page digests of the manifest follow the pages in address order (R279, Log 17). -/
def patchPages (p : Patch) : List (Nat × List Byte × BitVec 256) := (enum p.pages).map (fun e => (e.2.1, e.2.2, pageDigest p.manifest e.1))

/-- The pages of a patch are whole pages in address order, as many as its manifest has digests (R279, R285). -/
def patchForm (p : Patch) : Bool :=
  manifestForm p.manifest && manNpages p.manifest == p.pages.length && p.pages.all (fun x => x.2.length == 65536) &&
    (laterPairs p.pages).all (fun x => decide (x.1.1 < x.2.1))

/-- PATCH_COMMIT (R285): the next edition, in one step; nothing of a patch that fails is committed. -/
def commitPatch (s : State) (p : Patch) : State :=
  match s.editions.find? (fun e => e.handle == p.handle && e.newest) with
  | none => s
  | some e =>
    let ps := patchPages p
    let ok := e.number == p.base && decide (p.base < 2 ^ 32 - 1) && patchForm p && s.mgmt.signedBy p.manifest && ps.all pageMatches &&
      ps.all (fun x => e.pages.any (fun y => y.1 == x.1)) && s.containers.any (fun c => c.handle == p.handle)
    if !ok then s
    else
      let replaced := fun (n : Nat) => ps.any (fun x => x.1 == n)
      let area := s.pickArea
      let t1 := area.2.placeUnits e.vi [] (ps.map (fun x => x.2.1))
      let new : Edition :=
        { handle := e.handle, number := e.number + 1, vi := e.vi, base := area.1 / 32,
          units := e.units.filter (fun x => !replaced x.1) ++ (ps.map (fun x => x.1)).zip t1.1, pages := e.pages.filter (fun x => !replaced x.1) ++ ps,
          loaded := e.loaded.filter (fun n => !replaced n) ++ ps.map (fun x => x.1), failedPages := [], newest := true }
      let old := fun (x : Edition) => if x = e then { x with newest := false } else x
      let t : State := { t1.2 with editions := s.editions.map old ++ [new] }
      t.freeEditions

/-- The field-book event of a page whose digest fails, in five parts (R286, Table 17.4 class 10). -/
def textEvents (vi : Option Nat) (number page : Nat) (want got : BitVec 256) : List FbEvent :=
  let part := fun (x : BitVec 256) (lo : Nat) => (bits x.toNat (lo + 127) (lo + 64), bits x.toNat (lo + 63) lo)
  ((page, number) :: [part want 0, part want 128, part got 0, part got 128]).map (fun x =>
    { cls := 10, code := causeText, addr := x.1, detail := x.2, vi := vi, core := none })

/-- Some wave of a launch that is bound to an edition fetches from a page of it that is not there (R286). -/
def State.fetching (s : State) (h : BitVec 32) (number page : Nat) : Bool :=
  s.waves.any (fun e => e.2.runs && (match s.launch? e.2.launch with
    | some l => l.handle == h && l.edition == number && s.wantsPage e.2 l == some page
    | none => false))

/-- DEMAND_PAGE_LOAD (R286): at a fetch from it, the bytes that the loader brings are checked; the page is there, or is marked failed in its edition. DESIGN
CHOICE (Log 134): the record of the digests is written once, at the check that fails, and not again for each launch that faults on the page. -/
def demandPage (s : State) (h : BitVec 32) (number page : Nat) (bytes : List Byte) : State :=
  match s.editions.find? (fun e => e.handle == h && e.number == number) with
  | none => s
  | some e =>
    match e.pages.find? (fun p => p.1 == page) with
    | none => s
    | some (_, _, want) =>
      if e.loaded.contains page || e.failedPages.any (fun x => x.1 == page) || !s.fetching h number page then s
      else
        let got := Config.shake256 bytes
        if got = want then
          let r := s.placeUnits e.vi [] [bytes]
          { r.2 with editions := s.editions.map (fun x => if x = e then
              { x with
                loaded := x.loaded ++ [page]
                units := x.units ++ r.1.map (fun u => (page, u))
                pages := x.pages.map (fun p => if p.1 = page then (page, bytes, want) else p) } else x) }
        else
          let vi := (s.containers.find? (fun c => c.handle == h)).map (fun c => c.vi)
          ({ s with editions := s.editions.map (fun x => if x = e then { x with failedPages := x.failedPages ++ [(page, got)] } else x) } : State).fbParts
            (textEvents vi number (32 * e.base + 65536 * page) want got)

end Sys2Proof.Machine
end

