-- ==== Sys2Proof/Machine/EvMgmt.lean ====
section
/-!
DEFINITION. Events of the loader and of the management port (R280, R285, R286, R403 to R407).
-/
namespace Sys2Proof.Machine

/-! The loader. -/

/-- CONTAINER_LOAD (R280). -/
def execContainerLoad (vi : Nat) (c : Container) (emdx : Emdx) (s : State) : Host.Outcome State Fault Refusal :=
  .next (loadContainer s vi c emdx)

/-- CONTAINER_UNLOAD (R278). -/
def execContainerUnload (handle : BitVec 32) (s : State) : Host.Outcome State Fault Refusal := .next (unloadContainer s handle)

/-- PATCH_COMMIT (R285). -/
def execPatchCommit (p : Patch) (s : State) : Host.Outcome State Fault Refusal := .next (commitPatch s p)

/-- DEMAND_PAGE_LOAD (R286). -/
def execDemandPageLoad (handle : BitVec 32) (edition page : Nat) (bytes : List Byte) (s : State) : Host.Outcome State Fault Refusal :=
  .next (demandPage s handle edition page bytes)

/-! The management port (R407). -/

/-- A reply to a request of the management port repeats its number. -/
def State.reply (s : State) (h : MgmtHdr) (r : MgmtReply) : State := { s with replies := s.replies ++ [.mgmt h.req r] }

/-- The bytes of a request that are signed: the header and the operands (R407). -/
def mgmtMsg (h : MgmtHdr) (operands : List Byte) : List Byte := bytesOf 4 h.len ++ bytesOf 2 h.code ++ bytesOf 2 h.zero ++ bytesOf 8 h.req ++ operands

/-- The MGMT record of a command (R407, Table 17.4 class 11). -/
def mgmtNote (s : State) (code first result : Nat) : State :=
  s.fb { cls := 11, code := code, addr := first, detail := result, vi := none, core := none }

/-- The MGMT record of a command, and its reply. -/
def mgmtDone (s : State) (h : MgmtHdr) (code first result : Nat) : State := (mgmtNote s code first result).reply h (.result result)

/-- The codes of Table 17.7. -/
def mgmtCodes : List Nat := [0x01, 0x02, 0x03, 0x04, 0x10, 0x11, 0x12, 0x13, 0x14, 0x15]

/-- A header has the form that R407 gives it, for the operands of its command and, of a signed one (0x10 and up), a signature: bytes 6 and 7 zero, and the
total length. -/
def MgmtHdr.formOk (h : MgmtHdr) (operands : List Byte) : Bool :=
  h.zero == 0 && h.len == 16 + operands.length + (if 0x10 ≤ h.code then Config.sigBytes else 0)

/-- A request of a row of Table 17.7, its header at the head of the inbox (R407, Log 66): performed if the header has the row's code, and refused with result 2
if it is malformed; a code that the table does not have gives result 1. A request of another row waits for its own. With no request received there is
nothing to perform. -/
def mgmtCmd (s : State) (code first : Nat) (operands : List Byte) (f : MgmtHdr → State → State) : State :=
  match s.mgmt.inbox with
  | [] => s
  | h :: rest =>
    let t := { s with mgmt := { s.mgmt with inbox := rest } }
    if !mgmtCodes.contains h.code then t.reply h (.result 1)
    else if h.code ≠ code then s
    else if h.formOk operands then f h t
    else if code ≤ 3 then t.reply h (.result 2)
    else mgmtDone t h code first 2

/-- The operator list in force: the one of manufacture until LOADLIST replaces it. -/
def Mgmt.operatorList (m : Mgmt) : List (BitVec 512) := if m.operatorVersion = 0 ∧ m.operators = [] then Config.factoryOperators else m.operators

/-- A signed command is accepted (R407): a key of the operator list has signed its header and operands, and its number is above the last one accepted under
that key. -/
def Mgmt.accepts (m : Mgmt) (h : MgmtHdr) (a : Signed) (operands : List Byte) : Bool :=
  m.operatorList.contains a.key && Config.slhVerify a.key "KRMGMT1" (mgmtMsg h operands) a.sig &&
    (match m.lastReq.find? (fun e => e.1 == a.key) with
     | some e => decide (e.2 < h.req)
     | none => true)

/-- The request number of an accepted command is the last one under its key. -/
def Mgmt.noteReq (m : Mgmt) (h : MgmtHdr) (a : Signed) : Mgmt := { m with lastReq := (a.key, h.req) :: m.lastReq.filter (fun e => e.1 != a.key) }

/-- A signed command: performed by f, which answers with its result, or refused with result 2. -/
def signedCmd (s : State) (code first : Nat) (a : Signed) (operands : List Byte) (f : State → State × Nat) : State :=
  mgmtCmd s code first operands (fun h t =>
    if t.mgmt.accepts h a operands then
      let r := f { t with mgmt := t.mgmt.noteReq h a }
      mgmtDone r.1 h code first r.2
    else mgmtDone t h code first 2)

/-- The body of a quote (Table 17.5). -/
def quoteBody (s : State) (nonce : BitVec 256) : List Byte :=
  let m := s.mgmt
  let pctl := (List.range 64).flatMap (fun v =>
    let x := s.vi v
    bytesOf 8 (x.maxprio * 2 ^ 40 + x.haltlim * 2 ^ 16 + x.slice * 2 ^ 8 + x.secure.toNat * 8 + x.spsize * 2 + x.enable.toNat))
  bytesOf 32 nonce.toNat ++ (List.range 4).flatMap (fun n => bytesOf 32 (Tab.getD m.meas n 0).toNat) ++
    (List.range 4).flatMap (fun k => bytesOf 4 (m.minVersion (k + 1))) ++
    bytesOf 80 (m.retmap.foldl (fun n c => n ||| 2 ^ c) 0) ++ bytesOf 16 Config.serial.toNat ++ bytesOf 2 s.fabric.pkgid ++ bytesOf 6 0 ++
    bytesOf 8 s.cycle ++ bytesOf 32 (Config.shake256 (bytesOf 8 m.limit ++ pctl)).toNat ++ bytesOf 48 0

/-- The bytes of a signature (R406). -/
def sigFrom (f : Nat → Byte) : List Byte := (List.range Config.sigBytes).map f

/-- The certificate: Krytavo's signature over the identity key and the serial number (R406). -/
def identityCert : List Byte := sigFrom (Config.krytavoSign "KRIDENT1" (bytesOf 64 Config.identityKey.toNat ++ bytesOf 16 Config.serial.toNat))

/-- QUOTE (R406): the body, and its signature of 29,792 bytes by the identity key. -/
def execQuote (nonce : BitVec 256) (s : State) : Host.Outcome State Fault Refusal :=
  .next (mgmtCmd s 0x01 0 (bytesOf 32 nonce.toNat) (fun h t =>
    let b := quoteBody t nonce
    t.reply h (.quote b (sigFrom (Config.identitySign "KRQUOTE1" b)) Config.identityKey identityCert)))

/-- Cycles of 24 hours. -/
def cyclesPerDay : Nat := 86400 * 1000000 * Config.cyclesPerUs

/-- A core with more than 64 corrected errors in some 24 hours (R405). -/
def Mgmt.overCore (m : Mgmt) (core : Nat) : Bool :=
  let ts := (m.corrected.filter (fun e => e.1 == core)).map (fun e => e.2)
  ts.any (fun t => decide (64 < (ts.filter (fun u => decide (t ≤ u) && decide (u < t + cyclesPerDay))).length))

/-- PWRSTAT as QUERY reports it (Table 16.5). -/
def queryPower (m : Mgmt) : Word :=
  BitVec.ofNat 64 (m.power % 2 ^ 16 * 2 ^ 48 + m.tmax % 256 * 2 ^ 40 + m.rtherm.toNat * 512 + m.rpower.toNat * 256 + m.duty % 32)

/-- QUERY (R407). -/
def execQuery (s : State) : Host.Outcome State Fault Refusal :=
  .next (mgmtCmd s 0x02 0 [] (fun h t =>
    let m := t.mgmt
    t.reply h (.query (queryPower m) m.stop m.retmap ((List.range Config.numCores).filter m.overCore)
      ((List.range 2).map (fun k => (Tab.get? m.slots k).isSome)))))

/-- A copy of 64 KiB: where the package had fewer records, zeros, as the rings hold there (R401, R403). -/
def wholeCopy (rs : List (BitVec 256)) : List (BitVec 256) := rs ++ List.replicate (2048 - rs.length) 0

/-- READBOOK (R407). -/
def execReadbook (slot : Nat) (s : State) : Host.Outcome State Fault Refusal :=
  .next (mgmtCmd s 0x03 slot (Config.mgmtOperands 0x03 [slot]) (fun h t =>
    if 1 < slot then t.reply h (.result 2)
    else
      match Tab.get? t.mgmt.slots slot with
      | some r => t.reply h (.book (wholeCopy r))
      | none => t.reply h (.result 3)))

/-- PRESERVE (R403): the copy holds the record of the command, also one that it is merged into. -/
def execPreserve (s : State) : Host.Outcome State Fault Refusal :=
  .next (mgmtCmd s 0x04 0 [] (fun h t => (mgmtNote t 0x04 0 0).preserve.reply h (.result 0)))

/-- RELEASE (R403). -/
def execRelease (slot : Nat) (auth : Signed) (s : State) : Host.Outcome State Fault Refusal :=
  .next (signedCmd s 0x10 slot auth (Config.mgmtOperands 0x10 [slot]) (fun t =>
    if 1 < slot then (t, 2)
    else ({ t with mgmt := { t.mgmt with slots := Tab.erase t.mgmt.slots slot, slotTime := Tab.erase t.mgmt.slotTime slot } }, 0)))

/-- RETIRE (R328, R404): the MGMT record of the command is the event that causes the retirement (Table 17.4). -/
def execRetire (core : Nat) (auth : Signed) (s : State) : Host.Outcome State Fault Refusal :=
  .next (mgmtCmd s 0x11 core (Config.mgmtOperands 0x11 [core]) (fun h r =>
    if !r.mgmt.accepts h auth (Config.mgmtOperands 0x11 [core]) then mgmtDone r h 0x11 core 2
    else
      let t := { r with mgmt := r.mgmt.noteReq h auth }
      if core < Config.numCores then
        let u := mgmtNote t 0x11 core 0
        (retireCore u core 0x80 none (u.lastSeq 0)).reply h (.result 0)
      else mgmtDone t h 0x11 core 2))

/-- RETURN (R404): the core may be placed from the next module reset on. -/
def execReturnCore (core : Nat) (auth : Signed) (s : State) : Host.Outcome State Fault Refusal :=
  .next (signedCmd s 0x12 core auth (Config.mgmtOperands 0x12 [core]) (fun t =>
    if Config.numCores ≤ core then (t, 2)
    else if t.mgmt.retmap.contains core then
      ({ t with mgmt := { t.mgmt with retmap := t.mgmt.retmap.filter (· != core), returned := core :: t.mgmt.returned } }, 0)
    else (t, 0)))

/-- RAISEMIN (R387, R407). -/
def execRaisemin (kind version : Nat) (auth : Signed) (s : State) : Host.Outcome State Fault Refusal :=
  .next (signedCmd s 0x13 kind auth (Config.mgmtOperands 0x13 [kind, version]) (fun t =>
    if kind < 1 ∨ 4 < kind ∨ 2 ^ 32 ≤ version ∨ version ≤ t.mgmt.minVersion kind then (t, 2)
    else ({ t with mgmt := { t.mgmt with fused := Tab.set t.mgmt.fused kind version } }, 0)))

/-- LOADLIST (R407): a newer signed KIND 4 image replaces the operator list. -/
def execLoadlist (img : Image) (auth : Signed) (s : State) : Host.Outcome State Fault Refusal :=
  .next (signedCmd s 0x14 0 auth (imageBytes img) (fun t =>
    if (imageFails t.mgmt img 4 [Config.rootDigest]).isSome || !keyListOk img.body || decide (img.version.toNat ≤ t.mgmt.operatorVersion) then (t, 2)
    else ({ t with mgmt := { t.mgmt with operators := keysOf img.body, operatorVersion := img.version.toNat } }, 0)))

/-- RESET (R276, R407): the reply is sent before the reset. -/
def execReset (auth : Signed) (s : State) : Host.Outcome State Fault Refusal :=
  .next (mgmtCmd s 0x15 0 [] (fun h t =>
    if t.mgmt.accepts h auth [] then moduleResetState (mgmtDone { t with mgmt := t.mgmt.noteReq h auth } h 0x15 0 0)
    else mgmtDone t h 0x15 0 2))

end Sys2Proof.Machine
end

