-- ==== Sys2Proof/Machine/EvWave.lean ====
section
/-!
DEFINITION. Events of the waves of a core: landing, exchange, translation walks, sleep, detected errors, re-runs and twin compares.
-/
namespace Sys2Proof.Machine

/-- What the queues of a wave's core can do after an event of that wave. -/
def settleAt (s : State) (key : Nat) : State := settleCore s (s.coreOf key)

/-- EXPOSED_RESULT_LAND (R29): every result due at the wave's bundle count stands in its port. -/
def execExposedResultLand (w : Nat) (s : State) : Host.Outcome State Fault Refusal :=
  .next (s.modWave w (fun v => { v with io := v.io.landDue v.phys v.clock }))

/-- WAVE_EXCHANGE (R14): an active wave stalled for 8 cycles gives its place to the longest-pending ready wave. -/
def execWaveExchange (w : Nat) (s : State) : Host.Outcome State Fault Refusal :=
  match s.wave? w with
  | some v => .next (if 8 ≤ v.stalled then exchange s w else s)
  | none => .next s

/-- A walk ends: its translation is cached, or the wave will trap when it would issue the bundle (R230, R368, R370, Tables 5.1 and 7.7). -/
def walkEnd (s : State) (key core : Nat) (l : Launch) (va : Nat) (t : Trap) : State :=
  match s.walkFill core l va with
  | some u => u
  | none => (s.noteWalk core l va).modWave key (fun w =>
      { w with walkBad := some { t with stage := some (s.walkStage l.vi l.s1root l.s1on va) } })

/-- A tract runs the walk a wave or a streamer waits for: it is one of the first 64 in order of arrival (R370). -/
def State.walkRuns (s : State) (w tract : Nat) : Bool :=
  decide (((s.tract tract).misses.takeWhile (· != w)).length < Config.tractWalks)

/-- The number under which the streamer misses of a core stand in the order of arrival of its tract, above every wave's. -/
def sxWaiter (core : Nat) : Nat := 2 ^ 64 + core

/-- TRANSLATION_WALK_DONE (R368, R370): the walk of a wave, or of the streamers of a core. -/
def execTranslationWalkDone (w : Nat) (s : State) : Host.Outcome State Fault Refusal :=
  match s.wave? w with
  | none =>
    if sxWaiter 0 ≤ w ∧ s.walkRuns w ((w - sxWaiter 0) / 40) then .next (sxWalkEnd s (w - sxWaiter 0)) else .next s
  | some v =>
    match s.launch? v.launch with
    | none => .next s
    | some l =>
      if !s.walkRuns w (v.core / 40) then .next s
      else
      match prepare s w with
      | .error (.walkFetch va) => .next (walkEnd s w v.core l va (fetchTrap causeFetch va))
      | .error (.walkLane slot lane va) =>
        .next (walkEnd s w v.core l va { cause := causeXlate, slot := slot, lane := lane, addr := va, code := 0 })
      | .error .hold => .next s
      | .error .endPoint => .next s
      | .error (.escape _) => .next s
      | .error (.trap _) => .next s
      | .ok _ => .next s

/-- SLEEP_EXPIRE (R241): the cycles of a SLEEP have passed. -/
def execSleepExpire (w : Nat) (s : State) : Host.Outcome State Fault Refusal :=
  match s.wave? w with
  | none => .next s
  | some v =>
    match v.hold with
    | .sleep t _ true => .next (if t ≤ s.cycle then s.modWave w (fun x => { x with hold := .none }) else s)
    | _ => .next s

/-- DETECTED_ERROR (R193, R313, R314, R323). The event does not name the check that found the error: one of the matrix engine, where a choice of the tape
other than 0 says so of a wave whose party owns it, is counted in QSTAT. -/
def execDetectedError (w : Nat) (s : State) : Host.Outcome State Fault Refusal :=
  let x := s.choose
  let owns := match (s.wave? w).bind (fun v => s.party? v.party) with
    | some p => p.matrix
    | none => false
  .next (detectError (if x.1 != 0 && owns then x.2.countMxErr (s.coreOf w) else x.2) w)

/-- SEG_RERUN_END (R315). -/
def execSegRerunEnd (w : Nat) (s : State) : Host.Outcome State Fault Refusal :=
  match prepare s w with
  | .error .endPoint => .next (endRun s w)
  | .error .hold => .next s
  | .error (.walkFetch _) => .next s
  | .error (.walkLane _ _ _) => .next s
  | .error (.escape _) => .next s
  | .error (.trap _) => .next s
  | .ok _ => .next s

/-- TWIN_RECORD_COMPARE (R320, R323): as well, where a twin has passed the bundle at which the other trapped (R325). -/
def execTwinRecordCompare (w : Nat) (s : State) : Host.Outcome State Fault Refusal := .next (settleAt (compareRecords s w) w)

/-- TWIN_ESCAPE_PERFORM (R321): the leading twin's escaping bundle is matched, and may issue; or the twins differ. -/
def execTwinEscapePerform (w : Nat) (s : State) : Host.Outcome State Fault Refusal := .next (settleAt (compareEscapes s w) w)

end Sys2Proof.Machine
end

