-- ==== Sys2Proof/Machine/EvMem.lean ====
section
/-!
DEFINITION. Events of loads, atomics, logs, marks, acquires, stage barriers and circular buffers.
-/
namespace Sys2Proof.Machine

/-! Loads (R145, R148). -/

/-- The n-th load of a wave. -/
def Wave.nthLoad (w : Wave) (n : Nat) : Option Cmd := (w.cmds.filter Cmd.isLd)[n]?

/-- The entry of a load, if the wave's orders let it be performed: a load of this package is performed; one whose home lies elsewhere is
first sent, and performed when its answer arrives. A choice other than 0 is an answer that reports poison (R148). -/
def loadArrive (s : State) (key : Nat) (w : Wave) (c : Cmd) : State :=
  match c.op with
  | .ld k sz sx =>
    match c.st with
    | .sent _ _ _ _ =>
      let x := s.choose
      if s.scWaits c k (szBytes sz) then s
      else if x.1 = 0 then performLd x.2 c k sz sx else (x.2.dropCmd key c.id).deliverFwd c .poisoned []
    | .queued =>
      if !w.canPerform c || k == .ldsc || (w.trails && k != .lds) || s.scWaits c k (szBytes sz) then s
      else startLd s c k sz sx
    | .begun _ _ => s
  | _ => s

/-- LD_ENTRY_ARRIVE (R145). -/
def execLdEntryArrive (w n : Nat) (s : State) : Host.Outcome State Fault Refusal :=
  match s.wave? w with
  | none => .next s
  | some v =>
    match v.nthLoad n with
    | some c => .next (settleAt (loadArrive s w v c) w)
    | none => .next s

/-- LOAD_NO_RESPONSE (R148): 2 ms after its first send the entry is marked failed. -/
def execLoadNoResponse (w n : Nat) (s : State) : Host.Outcome State Fault Refusal :=
  match s.wave? w with
  | none => .next s
  | some v =>
    match v.nthLoad n with
    | none => .next s
    | some c =>
      match c.st with
      | .sent _ _ at' _ =>
        .next (if at' + Config.cycles2ms ≤ s.cycle then settleAt ((s.dropCmd w c.id).deliverFwd c .failed []) w else s)
      | .queued => .next s
      | .begun _ _ => .next s

/-! Atomics (R156 to R159). -/

/-- AT_HOME_PERFORM (R156, R157, R159): the n-th request a wave's atomics can make, or a peer's. Requests of one trigger for different addresses come in
any order. -/
def execAtHomePerform (r : AtReq) (s : State) : Host.Outcome State Fault Refusal :=
  match r with
  | .own w n =>
    match s.wave? w with
    | none => .next s
    | some v =>
      match (s.atReady v)[n]? with
      | some x => .next (settleAt (atOwn s v x.1 x.2) w)
      | none => .next s
  | .peer p => .next (atPeer s s.cycle p)

/-- The n-th request of a wave's atomics that has been sent to another package, with its core. -/
def State.nthSent (s : State) (w n : Nat) : Option (Nat × AtSent) :=
  (((s.core (s.coreOf w)).reqs.filter (fun q => q.wave == w))[n]?).map (fun q => (s.coreOf w, q))

/-- Changes a request. -/
def State.modReq (s : State) (core : Nat) (q : AtSent) (f : AtSent → AtSent) : State :=
  s.modCore core (fun k => { k with reqs := k.reqs.map (fun x => if x = q then f x else x) })

/-- AT_RESEND (R159): after a failure notice the request goes again, under its tag, over another route. -/
def execAtResend (w n : Nat) (s : State) : Host.Outcome State Fault Refusal :=
  match s.nthSent w n with
  | some (k, q) =>
    if q.lost && s.reachable q.pkg && decide (s.cycle < q.time + Config.cycles2ms) then
      .next ((s.send q.pkg (q.pa / 64) (.atReq q.pkg q.tag q.wave q.cmd q.pa)).modReq k q (fun x => { x with lost := false }))
    else .next s
  | none => .next s

/-- AT_RESEND_TIMEOUT (R159): 2 ms after the first send the request ends with INDETERMINATE. -/
def execAtResendTimeout (w n : Nat) (s : State) : Host.Outcome State Fault Refusal :=
  match s.nthSent w n with
  | some (k, q) => .next (if q.time + Config.cycles2ms ≤ s.cycle then settleAt (atEnd s k q 2 []) w else s)
  | none => .next s

/-- AT_TAG_EXPIRE (R159, R384): a tag record of this home is gone 2 ms after the first receipt, and the requests that waited for its room are tried
again. -/
def execAtTagExpire (pkg core tag : Nat) (s : State) : Host.Outcome State Fault Refusal :=
  .next (retryPeers { s with tagStore := s.tagStore.filter (fun x =>
    !(x.pkg == pkg && x.core == core && x.tag == tag && decide (x.time + Config.cycles2ms ≤ s.cycle))) })

/-- AT_RESPONSE_ARRIVE (R158): the answer of a remote home, DONE, RECORDED or POISON. The tag names package, core and tag. -/
def execAtResponseArrive (tag status : Nat) (ret : List (Nat × Word)) (s : State) : Host.Outcome State Fault Refusal :=
  match s.sentTo tag with
  | some (k, q) => .next (settleAt (atEnd s k q status ret) q.wave)
  | none => .next s

/-! Logs (R257, R259). -/

/-- A store of the core waits for room in its logs. -/
def storeWaits (s : State) (core : Nat) : Bool :=
  (s.coreWaves core).any (fun e => !e.2.trails && e.2.cmds.any (fun c =>
    c.isSt && !c.isSts && c.st == .queued && e.2.canPerform c && !(s.core core).roomFor (storeRecs c).length))

/-- SPILL_MOVE (R257). -/
def execSpillMove (core : Nat) (s : State) : Host.Outcome State Fault Refusal :=
  let c := s.core core
  .next (if storeWaits s core && c.draining.isNone && canSpill c then settleCore (spill s core) core else s)

/-- LOG_FULL_DRAIN (R259). -/
def execLogFullDrain (core : Nat) (s : State) : Host.Outcome State Fault Refusal :=
  let c := s.core core
  .next (if c.draining.isSome || (storeWaits s core && !canSpill c) then settleCore (fullDrain s core) core else s)

/-! Marks, acquires, drains (R261 to R265). -/

/-- The PUB that waits for a mark produces its entry, the stamp (R162). -/
def pubEntry (s : State) (m : Mark) : State :=
  let waits := fun (c : Cmd) => c.isLg && c.st == stageSt 1 m.id
  match s.waves.find? (fun e => e.2.cmds.any waits) with
  | some (k, w) =>
    match w.cmds.find? waits with
    | some c => (s.dropCmd k c.id).deliverFwd c .ready (sameLanes w.phys (BitVec.ofNat 128 m.stamp))
    | none => s
  | none => s

/-- MARK_STAND (R261): a mark of this package enters its tables; one of SYSTEM scope once the count has passed its tick (R381). -/
def execMarkStand (mark : Nat) (s : State) : Host.Outcome State Fault Refusal :=
  match s.mark? mark with
  | some m =>
    .next (if !m.stands && m.pkg == 0 && (m.scope != 6 || s.tickPassed 6 m.stamp) then settleCore (pubEntry (s.standMark mark) m) m.core else s)
  | none => .next s

/-- The first command of a wave at a stage. -/
def Wave.atStage (w : Wave) (p : Cmd → Bool) : Option Cmd := w.cmds.find? p

/-- ACQUIRE_COMPLETE (R262, R263). -/
def execAcquireComplete (w : Nat) (s : State) : Host.Outcome State Fault Refusal :=
  match s.wave? w with
  | none => .next s
  | some v =>
    match v.atStage (fun c => c.st.stage.1 == 2 || c.st.stage.1 == 5) with
    | some c => .next (settleAt (completeAcq s v c) w)
    | none => .next s

/-- DRAIN_COMPLETE (R165). -/
def execDrainComplete (w : Nat) (s : State) : Host.Outcome State Fault Refusal :=
  match s.wave? w with
  | none => .next s
  | some v =>
    match v.atStage (fun c => c.st.stage.1 == 4) with
    | some c => .next (settleAt (completeDrain s v c) w)
    | none => .next s

/-- COMPACT_MARK (R264). -/
def execCompactMark (tract mark : Nat) (s : State) : Host.Outcome State Fault Refusal :=
  match s.mark? mark with
  | some m => .next (settleCore (compact s tract mark) m.core)
  | none => .next s

/-- SC_PERFORM (R153, R154). -/
def execScPerform (core : Nat) (s : State) : Host.Outcome State Fault Refusal := .next (settleCore (performSc s core) core)

/-- DOMAIN_COUNT_WARNING (R260). -/
def execDomainCountWarning (s : State) : Host.Outcome State Fault Refusal :=
  .next (if s.domCount ≥ 2 ^ 54 - 2 ^ 40 ∧ !s.fabric.warned then
    { s with fabric := { s.fabric with warned := true } }.fb { cls := 5, code := 4, addr := 0, detail := 0, vi := none, core := none }
  else s)

/-- STAMP_LIMIT_STOP (R260). -/
def execStampLimitStop (s : State) : Host.Outcome State Fault Refusal :=
  .next (if s.stampStop ∧ !s.fabric.stopped then
    { s with fabric := { s.fabric with stopped := true } }.fb
      { cls := 5, code := 5, addr := 0, detail := s.domCount, vi := none, core := none }
  else s)

/-! Records lost, and records of other packages (R264, R318). -/

/-- LOG_LOST (R318): record n of a core's logs cannot be read; it is discarded, its launch faults and the core is retired. -/
def execLogLost (core n : Nat) (s : State) : Host.Outcome State Fault Refusal :=
  match (s.core core).log[n]? with
  | none => .next s
  | some r =>
    let l := some r.launch
    let t := (s.unlog core r.wid).fb { cls := 3, code := 2, addr := 0, detail := 0, vi := l.bind s.launchVi, core := some core }
    .next (retireCore t core codeLogLost l (t.lastSeq (core / 160))).retireMarks

/-- The mark of a peer that published a record, if it is known here; its tail counts the records still to come. -/
def State.peerMark? (s : State) (pkg stamp : Nat) : Option Mark := s.marks.find? (fun m => m.pkg == pkg + 1 && m.stamp == stamp)

/-- A peer's mark as its first message announces it (R261, R262): it stands once every record of it that is homed here is applied. -/
def State.announce (s : State) (r : PeerRecord) (stamp : Nat) : State :=
  let t : State := { s with lastStamp := max s.lastStamp stamp }
  match t.peerMark? r.pkg stamp with
  | some m => t.modMark m.id (fun x => { x with tail := r.left, hor := joinIds x.hor r.hor })
  | none =>
    { t with
      nextId := t.nextId + 1
      marks := t.marks ++ [{ id := t.nextId, stamp := stamp, pkg := r.pkg + 1, core := r.core, scope := 6, tail := r.left, wids := [], hor := r.hor,
                             launch := 0, stands := false, gone := false, since := t.cycle, away := [] }] }

/-- A peer's mark stands when no record of it is still to come and none waits here. -/
def State.standPeers (s : State) : State :=
  let ready := fun (m : Mark) => m.pkg != 0 && !m.stands && m.tail == 0 && !s.recHeld.any (fun r => r.pkg + 1 == m.pkg && r.stamp == some m.stamp)
  { s with marks := s.marks.map (fun m => if ready m then { m with stands := true, gone := true, since := s.cycle } else m) }

/-- One granule of a peer's message is applied, as a write of the mark that covers it; or discarded, where it is poisoned, and recorded (R264, R276). -/
def peerWrite (s : State) (kind : Nat) (mark : Option Nat) (gran : Nat) (ben : BitVec 16) (data : Lane) : State :=
  let tract := s.tractOf (16 * gran)
  if s.poisoned (16 * gran) then s.fb { cls := 5, code := 2, addr := gran, detail := 1, vi := none, core := none, on := some (tract / 4) }
  else
    let wid := s.nextId
    let t : State := { s with nextId := wid + 1 }
    let u := match mark with
      | some m => t.modMark m (fun y => { y with wids := wid :: y.wids })
      | none => t
    let v := (u.applyHome wid gran ben data (kind == 3)).tally tract 11 1 none
    v.tally tract 8 (popcount (ben.zeroExtend 64)) none

/-- An earlier record of the same log of the peer waits here, homed in the same tract (R264). -/
def State.peerBehind (s : State) (r : PeerRecord) : Bool :=
  s.recHeld.any (fun x => x.pkg == r.pkg && x.core == r.core && peerEngine x == peerEngine r && s.tractOf (16 * x.gran) == s.tractOf (16 * r.gran))

/-- A peer's record is applied, and with it, as one step, that of its trigger in the same 32-byte block (R264): after the earlier ones of its log that
wait here, and, if a mark covers it, after the records of lower marks in its tract and what stands before them on its granules (R265). None while it
must wait. -/
def peerApply (s : State) (r : PeerRecord) : Option State :=
  if (peerParts r).isEmpty then some s
  else if s.peerBehind r then none
  else
    let m := r.stamp.bind (fun k => s.peerMark? r.pkg k)
    let before := match m with
      | some x => if s.lowerLeft x (s.tractOf (16 * r.gran)) then none
        else s.compactPend (fun p => (peerParts r).any (fun g => g.1 == p.r.gran) && p.r.pkg == 0 && s.stampLt 0 p.eff x.pkg x.stamp)
      | none => some s
    before.map (fun t => (peerParts r).foldl (fun u g => peerWrite u r.kind (m.map (fun x => x.id)) g.1 g.2.1 g.2.2) t)

/-- The records of peers that wait here are tried again, the oldest first. -/
def retryRecords (s : State) : State :=
  (s.recHeld.foldl (fun t r => match peerApply t r with
    | some u => u
    | none => { t with recHeld := t.recHeld ++ [r] }) { s with recHeld := [] }).standPeers

/-- A message announces a mark of which nothing was known here, with a stamp below that of an operation at SYSTEM scope that is complete. That operation
has waited for every such mark (R262), so no such message comes (Log 75). -/
def State.tooLate (s : State) (r : PeerRecord) : Bool :=
  match r.stamp with
  | some k => (s.peerMark? r.pkg k).isNone && s.stampLt (r.pkg + 1) k 0 s.fabric.acqTop
  | none => false

/-- REMOTE_RECORD_RECEIVE (R262, R264, R276): a record that a peer package sends to its home here, or the announcement of a mark alone. The stamp of
its mark raises the stamps taken later here (R260). -/
def execRemoteRecordReceive (r : PeerRecord) (s : State) : Host.Outcome State Fault Refusal :=
  if !isHbm (16 * r.gran) || s.tooLate r then .next s
  else
    let t := match r.stamp with
      | some k => s.announce r k
      | none => s
    .next (retryRecords { t with recHeld := t.recHeld ++ [r] })

/-- REMOTE_LOAD_REQUEST (R148): a peer's load is answered from home memory, or reported poisoned. -/
def execRemoteLoadRequest (pkg core pa size : Nat) (s : State) : Host.Outcome State Fault Refusal :=
  if !isHbm pa || !isHbm (pa + size) then .next s
  else if s.poisoned pa then .next (s.send pkg (pa / 64) (.ldAns pkg core [] true))
  else .next ((s.send pkg (pa / 64) (.ldAns pkg core (s.homeBytes pa size) false)).tally (s.tractOf pa) 8 size none)

/-! Stage barriers and circular buffers (R167 to R176). -/

/-- The BA command at the head of a wave's order that waits, if it is of a kind. -/
def Wave.baWaiting (w : Wave) (p : BaOp → Bool) : Option (Cmd × BaOp × Nat) :=
  match w.cmds.find? Cmd.isBa with
  | some c =>
    match c.op with
    | .ba o cb => if (c.st.stage.1 == 1 || c.st.stage.1 == 6) && p o then some (c, o, cb) else none
    | _ => none
  | none => none

/-- BA_WAIT_SATISFY (R171). -/
def execBaWaitSatisfy (w : Nat) (s : State) : Host.Outcome State Fault Refusal :=
  match (s.wave? w).bind (fun v => v.baWaiting (· == .wait)) with
  | some (c, o, cb) => .next (match performBa s c o cb with
    | some t => settleAt t w
    | none => s)
  | none => .next s

/-- BA_PBAR_COMPLETE (R173). -/
def execBaPbarComplete (party : Nat) (s : State) : Host.Outcome State Fault Refusal :=
  let ws := (s.partyWaves party).filter (fun e => !e.2.exited)
  let cs := ws.filterMap (fun e => (e.2.baWaiting (· == .pbar)).map (fun x => (e.2, x.1)))
  if ws.isEmpty || cs.length != ws.length then .next s
  else
    let t := cs.foldl (fun u x => (u.dropCmd x.2.wave x.2.id).deliver x.2 .ready (sameLanes x.1.phys 0)) s
    .next (match s.party? party with
      | some p => settleCore t p.core
      | none => t)

/-- The waiting operation of a buffer that goes next: the one pushed earliest (R167). -/
def nextOnBuffer (s : State) (core : Nat) (o : BaOp) (cb : Nat) : Option Cmd :=
  leastBy (fun (c : Cmd) => c.id) ((s.coreWaves core).filterMap (fun e => (e.2.baWaiting (· == o)).bind (fun x =>
    if x.2.2 = cb then some x.1 else none)))

/-- CB_SLOT_READY (R176): a waiting CBRESV finds a free slot, or a waiting CBTAKE a filled one. -/
def execCbSlotReady (core : Nat) (cb : BitVec 4) (s : State) : Host.Outcome State Fault Refusal :=
  let go := fun (o : BaOp) => (nextOnBuffer s core o cb.toNat).bind (fun c => performBa s c o cb.toNat)
  match go .cbresv with
  | some t => .next (settleCore t core)
  | none =>
    match go .cbtake with
    | some t => .next (settleCore t core)
    | none => .next s

end Sys2Proof.Machine
end

