-- ==== Sys2Proof/Machine/EvEngine.lean ====
section
/-!
DEFINITION. Events of the engines of a core: matrix, gather, special-function unit, streamer and its completion ring.
-/
namespace Sys2Proof.Machine

/-! MX (R188, R193, R393). -/

/-- A command of MX that starts passes (R188, R395). -/
def Cmd.startsPass (c : Cmd) : Bool := match c.op with
  | .mxMmq _ _ => true
  | .mxMmw _ _ => true
  | _ => false

/-- MX_COMMAND_PERFORM: an awake engine performs the submission at the head of its queue, once the earlier STSs of its wave are performed (R180);
matrix passes start only in cycles that DUTY allows (R395). A KAT mismatch is a detected error of the wave that pushed it (R313). -/
def execMxCommandPerform (core : Nat) (s : State) : Host.Outcome State Fault Refusal :=
  match (s.core core).mx.power, (s.core core).mxq with
  | .awake _, c :: _ =>
    if s.waitsSts c || (c.startsPass && !s.issuing) then .next s
    else
    match performMx s core c with
    | some (t, bad) =>
      let u := t.modMx core (fun e => { e with power := .awake s.cycle })
      .next (settleCore (if bad then detectError u c.wave else u) core)
    | none => .next s
  | _, _ => .next s

/-- MX_IDLE (R393): 8,192 cycles without a command. -/
def execMxIdle (core : Nat) (s : State) : Host.Outcome State Fault Refusal :=
  match (s.core core).mx.power, (s.core core).mxq with
  | .awake last, [] => .next (if last + 8192 ≤ s.cycle then s.modMx core (fun e => { e with power := .idle }) else s)
  | _, _ => .next s

/-- The wake request of a tract that is admitted next: in order of arrival, then of core number. -/
def nextWake (s : State) (t : Nat) : Option Nat :=
  (leastBy (fun (x : Nat × Nat) => x.1 * 1024 + x.2) (s.cores.filterMap (fun e => match e.2.mx.power with
    | .requested at' => if e.1 / 40 = t then some (at', e.1) else none
    | .idle => none
    | .admitted _ => none
    | .awake _ => none))).map (fun x => x.2)

/-- MX_WAKE_ADMIT (R393): at most 8 requests of a tract in a window of 64 cycles. -/
def execMxWakeAdmit (tract : Nat) (s : State) : Host.Outcome State Fault Refusal :=
  let win := s.cycle / 64
  let used := Tab.getD (s.tract tract).wakes win 0
  match nextWake s tract with
  | some core =>
    if used < 8 then
      .next ((s.modMx core (fun e => { e with power := .admitted s.cycle })).modTract tract (fun t => { t with wakes := [(win, used + 1)] }))
    else .next s
  | none => .next s

/-- MX_WAKE_START (R393, R395): 4,096 cycles after its admission, or in the next cycle that allows issue, the engine is awake. One whose commands are gone by
then has held none since they went. -/
def execMxWakeStart (core : Nat) (s : State) : Host.Outcome State Fault Refusal :=
  match (s.core core).mx.power with
  | .admitted at' => .next (if at' + 4096 ≤ s.cycle ∧ s.issuing then
      s.modMx core (fun e => { e with power := .awake (if (s.core core).mxq.isEmpty then e.lastHeld else s.cycle) }) else s)
  | .idle => .next s
  | .requested _ => .next s
  | .awake _ => .next s

/-! GA and SF (R195 to R198, R217). -/

/-- GA_COMPLETE: the command at the head of the gather queue, once the earlier STSs of its wave are performed (R180). -/
def execGaComplete (core : Nat) (s : State) : Host.Outcome State Fault Refusal :=
  match (s.core core).gaq with
  | c :: _ => .next (if s.waitsSts c then s else match performGa s core c with
    | some t => settleCore t core
    | none => s)
  | [] => .next s

/-- SF_RESULT. -/
def execSfResult (core : Nat) (s : State) : Host.Outcome State Fault Refusal :=
  match (s.core core).sfq with
  | c :: _ => .next (match performSf s core c with
    | some t => settleCore t core
    | none => s)
  | [] => .next s

/-! SX (R199 to R208). -/

/-- The command at the head of the streamer queue of a resident party; none while a copy before it waits for a place in the ring. -/
def sxHead (s : State) (party : Nat) : Option (Party × Cmd × SxOp) :=
  match s.party? party with
  | none => none
  | some p =>
    match p.resident && !p.copyHeld, p.sxq with
    | true, c :: _ => c.sx?.map (fun x => (p, c, x.1))
    | _, _ => none

/-- A started COPY2DW. -/
def copyBegun : CmdSt := stageSt 7 0

/-- COPY2DW_START (R205): the barrier named by WAITBAR satisfies phase WAITPH. -/
def execCopy2dwStart (party : Nat) (s : State) : Host.Outcome State Fault Refusal :=
  match sxHead s party with
  | some (p, c, .copy2dw) =>
    let k := SxCopy.ofLanes c.opA c.opB c.opC
    if c.st == .queued && s.barLive p (16 * k.waitbar) && decide (1 ≤ (s.bar p (16 * k.waitbar)).ahead k.waitph) then
      .next (s.modParty party (fun q => { q with sxq := q.sxq.map (fun d => if d.id = c.id then { d with st := copyBegun } else d) }))
    else .next s
  | _ => .next s

/-- SX_COPY_COMPLETE (R204, R206): a started copy is carried out to its end; one with a global destination then waits for its mark. -/
def execSxCopyComplete (party : Nat) (s : State) : Host.Outcome State Fault Refusal :=
  let go := fun (p : Party) (c : Cmd) => match performCopy s c with
    | some t => settleCore t p.core
    | none => s
  match sxHead s party with
  | some (p, c, .copy2d) => .next (if c.st == .queued || c.got.isSome then go p c else s)
  | some (p, c, .copy2dw) => .next (if c.st == copyBegun || c.got.isSome then go p c else s)
  | _ => .next s

/-- LOOPCOPY_ITERATION (R207, R208). -/
def execLoopcopyIteration (core ctx : Nat) (s : State) : Host.Outcome State Fault Refusal :=
  match loopStep s core ctx with
  | some t => .next (settleCore t core)
  | none => .next s

/-- COMPLETION_RECORD_WRITE (R200, R357). -/
def execCompletionRecordWrite (party : Nat) (s : State) : Host.Outcome State Fault Refusal :=
  match s.party? party with
  | some p => .next (if p.flushes then settleCore (s.flushRecord party) p.core else s)
  | none => .next s

/-- WAITC_SATISFY (R202). -/
def execWaitcSatisfy (party : Nat) (s : State) : Host.Outcome State Fault Refusal :=
  match s.party? party with
  | none => .next s
  | some p =>
    match if p.resident then p.sxWait.find? (fun c => c.op.entry) else none with
    | some c => .next (match takeRecord s c with
      | some t => settleCore t p.core
      | none => s)
    | none => .next s

end Sys2Proof.Machine
end

