-- ==== Sys2Proof/Machine/EvLand.lean ====
section
/-!
DEFINITION. Events of landfall (R209 to R215, R300, R383, R386).
-/
namespace Sys2Proof.Machine

/-- The package a message comes from. -/
def landSender : LandMsg → Nat
  | .resv p _ _ _ _ _ => p
  | .send p _ _ _ _ _ _ _ _ => p
  | .clr p _ _ _ _ _ _ => p

/-- Two sends of one sender to one plot. -/
def sameFlow (a b : LandMsg) : Bool :=
  match a, b with
  | .send p c _ core zone plot _ _ _, .send q d _ core' zone' plot' _ _ _ =>
    p == q && c == d && core == core' && zone == zone' && plot == plot'
  | _, _ => false

/-- A message arrives: one of this package is on its way here, one of a peer comes from outside. Sends of one queue to one plot come in the order in
which they were started, so that their bytes are written in it (R199). -/
def arriveLand (s : State) (m : LandMsg) : State :=
  if s.net.contains m then
    (if (s.net.takeWhile (fun x => x != m)).any (sameFlow m) then s else receiveLand { s with net := s.net.erase m } m)
  else if landSender m = s.fabric.pkgid then s
  else receiveLand s m

/-- LANDRESV_RECEIVE (R211, R299). -/
def execLandresvReceive (m : LandMsg) (s : State) : Host.Outcome State Fault Refusal :=
  match m with
  | .resv _ _ _ _ _ _ => .next (arriveLand s m)
  | .send _ _ _ _ _ _ _ _ _ => .next s
  | .clr _ _ _ _ _ _ _ => .next s

/-- LANDSEND_RECEIVE (R212). -/
def execLandsendReceive (m : LandMsg) (s : State) : Host.Outcome State Fault Refusal :=
  match m with
  | .send _ _ _ _ _ _ _ _ _ => .next (arriveLand s m)
  | .resv _ _ _ _ _ _ => .next s
  | .clr _ _ _ _ _ _ _ => .next s

/-- LANDCLR_REMOTE_RECEIVE (R214). -/
def execLandclrRemoteReceive (m : LandMsg) (s : State) : Host.Outcome State Fault Refusal :=
  match m with
  | .clr _ _ _ _ _ _ _ => .next (arriveLand s m)
  | .resv _ _ _ _ _ _ => .next s
  | .send _ _ _ _ _ _ _ _ _ => .next s

/-- Two accepted sends of one sender write one byte. -/
def SendIn.overlaps (x y : SendIn) : Bool :=
  x.sPkg == y.sPkg && x.sCore == y.sCore && x.zone == y.zone && x.plot == y.plot && decide (x.offset < y.offset + y.data.length) &&
    decide (y.offset < x.offset + x.data.length)

/-- LANDSEND_WRITE_COMPLETE (R199, R212, R213): the n-th accepted send of a core is written, once no earlier one of its sender has bytes of it left to
write. -/
def execLandsendWriteComplete (core n : Nat) (s : State) : Host.Outcome State Fault Refusal :=
  match (s.core core).sends[n]? with
  | some x => .next (if ((s.core core).sends.take n).any x.overlaps then s else finishSend s core x)
  | none => .next s

/-- PLOT_CLEAR_EFFECT (R300): the sends accepted before the n-th waiting clear are done, and it takes effect. -/
def execPlotClearEffect (core n : Nat) (s : State) : Host.Outcome State Fault Refusal :=
  match (s.core core).clears[n]? with
  | some r =>
    if (s.core core).sends.any (fun x => r.sends.contains x.id) then .next s
    else .next (settleCore (clearAct (s.modCore core (fun c => { c with clears := c.clears.eraseIdx n })) core r.op) core)
  | none => .next s

/-- Cycles of one millisecond. -/
def cyclesPerMs : Nat := 1000 * Config.cyclesPerUs

/-- PLOT_LEASE_EXPIRE (R215, R300): ARRIVED has not changed for LEASE milliseconds. -/
def execPlotLeaseExpire (core zone plot : Nat) (s : State) : Host.Outcome State Fault Refusal :=
  let z := (s.core core).zone zone
  let p := z.plot plot
  let o := ClearOp.lease zone plot
  let due := z.isOpen && z.lease != 0 && decide (plot ≤ z.plotsm1) && p.st == .reserved && decide (p.since + z.lease * cyclesPerMs ≤ s.cycle) &&
    !(s.core core).clears.any (fun r => r.op == o)
  .next (if due then startClear s core o else s)

/-- The started landfall command of a number. -/
def State.landCmd (s : State) (id : Nat) : Option Cmd :=
  (s.parties.flatMap (fun e => e.2.sxWait)).find? (fun c => c.id == id && !c.op.entry)

/-- The core of a party. -/
def State.partyCore (s : State) (p : Nat) : Nat :=
  match s.party? p with
  | some q => q.core
  | none => 0

/-- LANDFALL_RESPONSE (R201): an answer completes its command. -/
def execLandfallResponse (a : LandAns) (s : State) : Host.Outcome State Fault Refusal :=
  let t := { s with answers := s.answers.erase a }
  match t.landCmd a.cmd with
  | some c => .next (settleCore (finishLand t c a) (t.partyCore c.party))
  | none => .next t

/-- FAILURE_NOTICE_RECEIVE (R148, R159, R215, R383): a plot of this package is torn, a landfall command of this package ends, an atomic is to
be sent again, a load is sent again. A record that did not come is not waited for before its sender sends it again (R276). -/
def execFailureNoticeReceive (n : Notice) (s : State) : Host.Outcome State Fault Refusal :=
  match n with
  | .plot sPkg sCore core zone plot gen reason =>
    match coreLinear core with
    | some c => .next (s.tornSend sPkg sCore c zone plot gen reason)
    | none => .next s
  | .landCmd cmd acked =>
    match s.landCmd cmd with
    | some c => .next (settleCore (finishLand s c (landAns 0x16 0 0 acked)) (s.partyCore c.party))
    | none => .next s
  | .atomic w n =>
    match s.nthSent w n with
    | some (k, q) => .next (s.modReq k q (fun x => { x with lost := true }))
    | none => .next s
  | .load w n =>
    match (s.wave? w).bind (fun v => v.nthLoad n) with
    | some c =>
      match c.st with
      | .sent _ _ _ _ => .next (s.sendAll c.ldReqs)
      | .queued => .next s
      | .begun _ _ => .next s
    | none => .next s
  | .record _ _ _ => .next s
  | .packet _ => .next s

end Sys2Proof.Machine
end

