-- ==== Sys2Proof/Machine/Regs.lean ====
section
/-!
DEFINITION. What the device registers with a behaviour of their own do: invalidation (R371), poison and placement commands (R373, R375),
legends (R377), mark tables (R378), ports (R380, R383), the domain (R381), fabric submission (R385), zones (R386) and counters (R397 to R399).
-/
namespace Sys2Proof.Machine

/-- A register word with a field replaced. -/
def setField (w : Word) (hi lo x : Nat) : Word :=
  BitVec.ofNat 64 (w.toNat - bits w.toNat hi lo * 2 ^ lo + x % 2 ^ (hi + 1 - lo) * 2 ^ lo)

/-! Invalidation (R371). -/

/-- A write of TLBINV: ignored while DONE is 0; else DONE goes to 0, and what the KIND covers leaves every TLB of the package. -/
def invalidate (s : State) (vi kind asid page count : Nat) : State :=
  if !(s.vi vi).tlbinv.getLsbD 63 then s
  else
    let w := BitVec.ofNat 64 (asid % 2 ^ 16 * 2 ^ 32 + count % 2 ^ 20 * 2 ^ 12 + kind % 4)
    (s.tlbDrop (tlbCovers vi kind asid page count)).modVi vi (fun v =>
      { v with tlbinv := w, tlbinva := if kind ≤ 1 then v.tlbinva else page % 2 ^ 52, tlbPage := page % 2 ^ 52, tlbBusy := some s.nextId, tlbSince := [] })

/-- Commands of an interface that are not performed, of running or saved waves, and translated before a write number or, after it, by a translation that
the invalidation covers. -/
def State.oldAccess (s : State) (vi limit : Nat) : Bool :=
  let mine := fun (l : Nat) => s.launchVi l == some vi
  let since := (s.vi vi).tlbSince
  let used := fun (c : Cmd) => c.targets.any (fun t => since.any (fun e => e.pkgsel == tPkg t && e.ppage == tPa t / 4096))
  let waits := fun (e : Nat × Wave) => mine e.2.launch && e.2.cmds.any (fun c => c.isMem && (decide (c.id < limit) || used c))
  let gathers := fun (k : Core) => k.gaq.any (fun c => decide (c.id < limit) && (match s.party? c.party with
    | some p => mine p.launch
    | none => false))
  s.waves.any waits || s.cores.any (fun e => gathers e.2) || s.saved.any (fun x => x.waves.any waits || gathers x.coreSt)

/-- Records of an interface's cores appended before a write number. -/
def State.oldRecs (s : State) (vi limit : Nat) : List (Nat × Rec) :=
  (s.vi vi).cores.flatMap (fun k =>
    ((s.core k).log ++ (s.saved.filter (fun x => x.core == k && x.vi == vi)).flatMap (fun x => x.coreSt.log)).filterMap (fun r =>
      if r.wid < limit then some (k, r) else none))

/-- TLBINV_COMPLETE (R371): unpublished records are drained as relaxed writes; DONE returns to 1 once none of the earlier records is left, and no TLB
then holds a covered translation, walked since or not. -/
def finishInvalidate (s : State) (vi : Nat) : State :=
  match (s.vi vi).tlbBusy with
  | none => s
  | some limit =>
    if s.oldAccess vi limit then s
    else
      let loose := (s.oldRecs vi limit).filter (fun x => x.2.stamp.isNone && !x.2.held)
      let t := loose.foldl (fun u x => (u.applyOne x.2.wid).getD u) s
      if (t.oldRecs vi limit).isEmpty then
        (t.tlbDrop ((t.vi vi).covers vi)).modVi vi (fun v => { v with tlbinv := setField v.tlbinv 63 63 1, tlbBusy := none, tlbSince := [] })
      else t

/-! Poison (R372, R373). -/

/-- A write of POISONCMD: ignored while DONE is 0; SET marks a granule, CLEAR writes zeros to it and clears its bit. -/
def poisonWrite (s : State) (granule op : Nat) : State :=
  if !s.poisonCmd.getLsbD 63 then s
  else
    let t := { s with poisonCmd := BitVec.ofNat 64 (granule % 2 ^ 28 * 2 ^ 12 + op % 4) }
    let f := granule % 2 ^ 28
    if !isHbm (4096 * f) then t
    else if op = 1 then t.setPoison f true
    else if op = 2 then (t.writeHome (4096 * f) (List.replicate 4096 0)).setPoison f false
    else t

/-! Placement (R374, R375). -/

/-- The physical addresses of the frames that form the set of a frame under a mode. -/
def frameSet (frame m : Nat) : List Nat :=
  let pa := frame * 2 ^ 21
  let st := pa / Config.stackBytes
  let o := pa % Config.stackBytes
  if m = 1 then (List.range 4).map (fun k => (4 * (st / 4) + k) * Config.stackBytes + o)
  else if m = 2 then (List.range 16).map (fun k => k * Config.stackBytes + o)
  else [pa]

/-- PLACECMD with OP 1: the set of the frame takes the mode, the rest of the union mode 0, and the bytes of the union are undefined. -/
def placeWrite (s : State) (frame mode : Nat) : State :=
  let t := { s with placeCmd := BitVec.ofNat 64 (2 ^ 63 + frame % 2 ^ 19 * 2 ^ 21 + mode % 4 * 4 + 1) }
  let f := frame % 2 ^ 19
  if mode % 4 = 3 ∨ !isHbm (f * 2 ^ 21) then t
  else
    let new := frameSet f (mode % 4)
    let all := new ++ (frameSet f (s.placeMode (f * 2 ^ 21))).filter (fun a => !new.contains a)
    all.foldl (fun u a =>
      { u with
        placeModes := Tab.set u.placeModes (a / 2 ^ 21) (if new.contains a then mode % 4 else 0)
        home := Mem.zero u.home a (2 ^ 21)
        undef := Tab.set u.undef (a / 2 ^ 21) u.fresh
        fresh := u.fresh + 1 }) t

/-- PLACECMD with OP 2: MODE shows the frame's mode. -/
def placeRead (s : State) (frame : Nat) : State :=
  { s with placeCmd := BitVec.ofNat 64 (2 ^ 63 + frame % 2 ^ 19 * 2 ^ 21 + s.placeMode (frame % 2 ^ 19 * 2 ^ 21) * 4 + 2) }

/-! Legends (R361, R376, R377). -/

/-- Bytes of the window, of the storage and of the scale plane of a legend range. -/
def Legend.windowBytes (l : Legend) : Nat := l.count * l.tsize
def Legend.storeBytes (l : Legend) : Nat :=
  let ty := (ETy.ofCode l.stype).getD .k8a
  if ty.bfpM ≠ 0 then 4 * ty.bfpM * ((l.count + 31) / 32) else if ETy.width ty = 4 then (l.count + 1) / 2 else l.count
def Legend.scaleBytes (l : Legend) : Nat := if l.sc then 2 * ((l.count + 31) / 32) else 0

/-- A legend register may be committed (R377, Table 15.8). -/
def State.legendOk (s : State) (n : Nat) (l : Legend) : Bool :=
  let st := l.stype
  (decide (3 ≤ st ∧ st ≤ 7) || decide (0x12 ≤ st ∧ st ≤ 0x18)) && decide (l.ttype ≤ 2) && (l.sc || decide (st ≤ 7)) &&
    decide (1 ≤ l.count) && (!l.sc || l.count % 32 == 0) && isAperture l.wbase && isAperture (l.wbase + l.windowBytes - 1) &&
    s.legends.all (fun e => e.1 == n || !e.2.valid || decide (e.2.wbase + e.2.windowBytes ≤ l.wbase) ||
      decide (l.wbase + l.windowBytes ≤ e.2.wbase)) &&
    isHbm (l.sbase + l.storeBytes - 1) && (!l.sc || isHbm (l.scbase + l.scaleBytes - 1))

/-- Changes a legend register. -/
def State.modLegend (s : State) (n : Nat) (f : Legend → Legend) : State := { s with legends := Tab.upd s.legends n Legend.reset f }

/-- The address of a legend register. -/
def legendAddr (n : Nat) : Nat := 0x00F000500000 + 32 * n

/-- The bits of the top word that are not fixed at zero. -/
def legendTop (w : Word) : Word := w &&& 0xC01F1FFFFFFFFFFF#64

/-- A write of the top word with VALID 1 (R377). -/
def commitLegend (s : State) (n : Nat) (top : Word) (secure : Bool) : State :=
  if s.secureLegend n && !secure then s
  else
    let l := s.legend n
    let new := { l with top := legendTop top ||| 0x8000000000000000#64 }
    if l.clearing.isSome then s
    else if s.legendOk n new then s.modLegend n (fun _ => new)
    else s.fb { cls := 12, code := 1, addr := legendAddr n + 24, detail := top.toNat, vi := none, core := none, on := some (n / 64 / 4) }

/-- A write of the top word with VALID 0 (R377): a range in force is withdrawn; the write is complete, and its fields read back, once no decoded line
is left, and VALID reads 1 until then. -/
def clearLegend (s : State) (n : Nat) (top : Word) (secure : Bool) : State :=
  if s.secureLegend n && !secure then s
  else s.modLegend n (fun l =>
    let new := legendTop top &&& 0x7FFFFFFFFFFFFFFF#64
    if l.valid then { l with clearing := some new } else { l with top := new })

/-- An LDL pushed to the window of a legend has not been performed. A trailing twin's takes its leader's value. -/
def State.viewing (s : State) (n : Nat) : Bool :=
  s.waves.any (fun e => !e.2.trails && e.2.cmds.any (fun c => match c.op with
    | .ld .ldl _ _ => c.loadMask.any (fun L => !tBlocked (laneAt c.a L) && (s.legend n).covers (tPa (laneAt c.a L)))
    | _ => false))

/-- LEGEND_CLEAR_COMPLETE (R377): the withdrawal is complete once no load of the window is under way (Log 77). -/
def finishLegend (s : State) (n : Nat) : State :=
  match (s.legend n).clearing with
  | some top => if s.viewing n then s else s.modLegend n (fun l => { l with top := top, clearing := none })
  | none => s

/-! Mark tables (R378). -/

/-- A write of MTCAP. -/
def mtcap (s : State) (t : Nat) (v : Word) : State :=
  let w := bits v.toNat 35 24
  let tr := bits v.toNat 23 12
  let sh := bits v.toNat 11 0
  if 4096 < 5 * sh + tr + 3 * w ∨ w = 0 ∨ tr = 0 ∨ sh = 0 then s
  else s.modTract t (fun x => { x with widecap := w, tractcap := tr, sheetcap := sh })

/-! Ports (R380, R383). -/

/-- STATE of a port (Table 15.11). -/
def PortSt.code : PortSt → Nat
  | .down => 0
  | .train => 1
  | .up => 2
  | .failed => 3

/-- A port takes a state, which the field book of its die records (R380, R400, Table 17.4 class 7). -/
def portGo (s : State) (i : Nat) (st : PortSt) : State :=
  let t := s.modPort i (fun p =>
    { p with
      st := st
      since := s.cycle
      fails := if st = .failed then min 65535 (p.fails + 1) else p.fails })
  t.fb { cls := 7, code := st.code, addr := 0, detail := i % 256 * 256 + (t.port i).peerPkg % 2 ^ 16 * 2 ^ 16, vi := none, core := none, on := some (i / 12) }

/-- The package of a landfall command's receiver. -/
def landPkg (c : Cmd) : Nat :=
  match c.sx? with
  | some (.landsend, _) => bits c.opB.toNat 15 0
  | _ => bits c.opA.toNat 15 0

/-- A landfall command whose transaction failed with its port: a send ends with LINKFAIL, its acknowledged bytes coming from the tape, and its
plot's package gets a notice while a route leads there; another is sent again, or ends with UNREACH (R211, R215, R383). -/
def failLand (s : State) (c : Cmd) : State :=
  match c.sx?, s.party? c.party with
  | some (.landsend, z), _ =>
    let x := s.choose
    let t := finishLand x.2 c (landAns 0x16 0 0 (min x.1 (sendBytes c.opC)))
    t.send (landPkg c) c.landKey (.notice (landPkg c) (.plot s.fabric.pkgid (coreIdent (s.partyCore c.party)) (bits c.opB.toNat 25 16) z
      (bits c.opB.toNat 31 26) (bits c.opB.toNat 47 32) 1))
  | some _, some p =>
    if s.reachable (landPkg c) then
      match landMsg s p c with
      | some (pkg, m) => (s.send pkg c.landKey (.notice pkg (.landCmd c.id 0))).send pkg c.landKey (.land pkg m)
      | none => s
    else finishLand s c (landAns 0x13 0 0 0)
  | _, _ => s

/-- The number of the command that sent a landfall message. -/
def landNo : LandMsg → Nat
  | .resv _ _ t _ _ _ => t
  | .send _ _ t _ _ _ _ _ _ => t
  | .clr _ _ t _ _ _ _ => t

/-- The message of a landfall command is among messages. -/
def landAmong (ms : List Wire) (c : Cmd) : Bool :=
  ms.any (fun x => match x with
    | .land _ m => landNo m == c.id
    | .atReq _ _ _ _ _ | .atAns _ _ _ _ _ | .ldReq _ _ _ _ | .ldAns _ _ _ _ | .landAns _ _ _ | .logRec _ _ _ | .mark _ | .packet _ _ _
    | .pktAns _ _ | .notice _ _ | .fwd _ _ => false)

/-- The compaction records among messages, with their cores. -/
def recsAmong (ms : List Wire) : List (Nat × Rec) :=
  ms.filterMap (fun x => match x with
    | .logRec _ c r => some (c, r)
    | .atReq _ _ _ _ _ | .atAns _ _ _ _ _ | .ldReq _ _ _ _ | .ldAns _ _ _ _ | .land _ _ | .landAns _ _ _ | .mark _ | .packet _ _ _ | .pktAns _ _
    | .notice _ _ | .fwd _ _ => none)

/-- A message that submits a packet. -/
def Wire.isPacket : Wire → Bool
  | .packet _ _ _ => true
  | .atReq _ _ _ _ _ | .atAns _ _ _ _ _ | .ldReq _ _ _ _ | .ldAns _ _ _ _ | .land _ _ | .landAns _ _ _ | .logRec _ _ _ | .mark _ | .pktAns _ _
  | .notice _ _ | .fwd _ _ => false

/-- A message is the compaction record of a write number. -/
def Wire.isRec (w : Wire) (wid : Nat) : Bool := (recsAmong [w]).any (fun e => e.2.wid == wid)

/-- A record whose transaction failed is held in its log again, in its place in the order, and its mark in its tables (R276, R383). -/
def State.takeBack (s : State) (core : Nat) (r : Rec) : State :=
  let t := { s with
    wire := s.wire.filter (fun x => !x.1.isRec r.wid)
    marks := s.marks.map (fun (m : Mark) => if m.pkg == 0 && m.wids.contains r.wid then { m with gone := false, away := m.away.filter (· != r.wid) } else m) }
  let older := fun (q : Rec) => decide (q.wid < r.wid)
  t.modCore core (fun (c : Core) => { c with log := c.log.takeWhile older ++ [r] ++ c.log.dropWhile older })

/-- The submission ends with a result (R385). -/
def submitEnd (s : State) (r : Nat) : State :=
  if s.fabric.busy then { s with fabric := { s.fabric with busy := false, result := r } } else s

/-- The submission in progress left by a port: of the packets sent, the last is its own. -/
def State.packetBy (s : State) (port : Nat) : Bool :=
  s.fabric.busy && ((s.wire.filter (fun x => x.1.isPacket)).getLast?.bind (fun x => x.2)) == some port

/-- A failed submission: its destination has a notice while a route leads there, and the answer is awaited; without a route it ends with UNREACH
(R383, R385, Log 122). -/
def failPacket (s : State) : State :=
  let f := s.fabric
  if s.reachable f.fpkg then s.send f.fpkg (f.fsuba / 64) (.notice f.fpkg (.packet f.fqueue)) else submitEnd s 2

/-- The transactions that a port which leaves UP had carried fail (R383): landfall commands end, loads are sent again, atomics wait to be sent
again, records are held, a submission fails; and the other end of each has a notice. Each is known by the port by which its message left, whatever
the route table says since. The port is no longer UP; how many of the records sent last had not been acknowledged comes from the tape. -/
def failTransactions (s0 : State) (i : Nat) : State :=
  let ms := s0.sentBy i
  let s : State := { s0 with wire := s0.wire.map (fun x => if x.2 == some i then (x.1, none) else x) }
  let lands := (s.parties.flatMap (fun e => e.2.sxWait)).filter (fun c => !c.op.entry && landAmong ms c)
  let t := lands.foldl (fun u c => settleCore (failLand u c) (u.partyCore c.party)) s
  let again := fun (c : Cmd) => (c.ldReqs.filter (fun x => ms.contains x.2.2)).flatMap (fun x => [(x.1, x.2.1, Wire.notice x.1 (.load c.wave c.id)), x])
  let t1 := t.waves.foldl (fun u e => e.2.cmds.foldl (fun v c =>
    match c.st with
    | .sent _ _ _ _ => v.sendAll (again c)
    | .queued => v
    | .begun _ _ => v) u) t
  let hit := fun (q : AtSent) => ms.contains (.atReq q.pkg q.tag q.wave q.cmd q.pa)
  let reqs := t1.cores.flatMap (fun e => e.2.reqs.filter hit)
  let t2 := ({ t1 with
    cores := t1.cores.map (fun e => (e.1, { e.2 with reqs := e.2.reqs.map (fun q => if hit q then { q with lost := true } else q) })) } : State).sendAll
      (reqs.map (fun q => (q.pkg, q.pa / 64, Wire.notice q.pkg (.atomic q.wave q.tag))))
  let t3 := if s0.packetBy i then failPacket t2 else t2
  let recs := recsAmong ms
  let x := t3.choose
  (recs.drop (recs.length - min x.1 recs.length)).foldl (fun u e =>
    (u.takeBack e.1 e.2).send (e.2.pkg - 1) (e.2.gran / 4) (.notice (e.2.pkg - 1) (.record (coreIdent e.1) e.2.gran e.2.seq))) x.2

/-- Loss of lock or an uncorrectable burst: a port that is UP fails (R380, R383). -/
def failPort (s : State) (i : Nat) : State :=
  if (s.port i).st = .up then failTransactions (portGo s i .failed) i else s

/-- ENABLE written 1 (R380). -/
def enablePort (s : State) (i : Nat) : State :=
  let t := s.modPort i (fun p => { p with enable := true })
  if (s.port i).st = .down then portGo t i .train else t

/-- ENABLE written 0: the port returns to DOWN from any state (R380). -/
def disablePort (s : State) (i : Nat) : State :=
  let t := s.modPort i (fun p => { p with enable := false })
  if (s.port i).st = .down then t
  else
    let u := portGo t i .down
    if (s.port i).st = .up then failTransactions u i else u

/-- Cycles of 200 ms. -/
def trainLimit : Nat := 200 * 1000 * Config.cyclesPerUs

/-- The peer's identity arrives (R380): a port in training comes UP, unless the peer reports this package's number; a port that is UP fails
when the identity changes. -/
def trainUp (s : State) (i peerPkg peerPort : Nat) : State :=
  let p := s.port i
  let t := s.modPort i (fun q => { q with peerPkg := peerPkg % 2 ^ 16, peerPort := peerPort % 256 })
  match p.st with
  | .train =>
    if p.since + trainLimit < s.cycle then s
    else if peerPkg % 2 ^ 16 = s.fabric.pkgid then portGo t i .failed
    else portGo t i .up
  | .up => if p.peerPkg = peerPkg % 2 ^ 16 ∧ p.peerPort = peerPort % 256 then s else failPort s i
  | .down => s
  | .failed => s

/-- Training has taken 200 ms (R380). -/
def trainTimeout (s : State) (i : Nat) : State :=
  if (s.port i).st = .train ∧ (s.port i).since + trainLimit ≤ s.cycle then portGo s i .failed else s

/-! The domain (R381). -/

/-- A new domain count begins (R260, R381): where every mark table is empty, no stamp of the count before remains to be compared with. -/
def State.newDomain (s : State) (offset : Int) : State :=
  let t : State := { s with fabric := { s.fabric with sync := true, domOffset := offset, warned := false, stopped := false } }
  if s.marks.all (fun m => m.gone) then
    { t with marks := [], lastStamp := 0, cores := t.cores.map (fun e => (e.1, { e.2 with lastStamp := 0 })) }
  else t

/-- DOMUP written 1, or MASTER with DOMUP 1: the master starts the domain count at zero and sets SYNC (R381). -/
def domainUp (s : State) : State :=
  let t : State := { s with fabric := { s.fabric with domup := true } }
  if s.fabric.master && !s.fabric.sync then t.newDomain (-(s.cycle : Int)) else t

/-- A package with DOMUP 1 joins through a port that is UP to a package with SYNC, and takes its count. -/
def domainJoin (s : State) (i count : Nat) : State :=
  let f := s.fabric
  if f.domup && !f.sync && !f.master && (s.port i).st == .up then s.newDomain ((count : Int) - (s.cycle : Int)) else s

/-- DOMUP written 0. -/
def domainOff (s : State) : State := { s with fabric := { s.fabric with domup := false, sync := false } }

/-! Submission to a peer (R385). -/

/-- A write of FSUBCMD. -/
def fabricSubmit (s : State) (v : Word) : State :=
  let f := s.fabric
  if f.busy then s
  else
    let q := bits v.toNat 27 16
    let k := bits v.toNat 15 0
    if (s.usable k).isEmpty then { s with fabric := { f with fqueue := q, fpkg := k, busy := false, result := 2 } }
    else
      ({ s with fabric := { f with fqueue := q, fpkg := k, busy := true, fsince := s.cycle } } : State).send k (f.fsuba / 64)
        (.packet k q (packetWords (s.homeBytes f.fsuba 128)))

/-! Zones (R386). -/

/-- ZPLOT of a plot (Table 15.14). -/
def zplotWord (p : Plot) : Word :=
  let code := match p.st with
    | .free => 0
    | .reserved => 1
    | .landed => 2
    | .torn => 3
  BitVec.ofNat 64 (code * 2 ^ 62 + p.ownPkg % 2 ^ 16 * 2 ^ 46 + p.ownCore % 2 ^ 10 * 2 ^ 36 + p.gen % 2 ^ 16 * 2 ^ 20 + p.arrived % 2 ^ 19)

/-- ZCMD as it is written. -/
def zcmdWord (zone plot op : Nat) : Word := BitVec.ofNat 64 (plot % 64 * 16 + op % 2 * 8 + zone % 8)

/-- A close of a zone by ZCMD waits for sends accepted before it: ZPLOT.BUSY (R386). -/
def Core.zoneBusy (c : Core) : Bool := c.clears.any (fun r => match r.op with
  | .zoneClose _ _ => true
  | .localClr _ _ | .remoteClr _ _ _ _ _ _ | .lease _ _ | .zoneInit _ _ _ _ | .zoneEnd _ => false)

/-- ZCMD with OP 0: ZPLOT shows the plot as it stands. A write while BUSY is ignored. -/
def readPlot (s : State) (core zone plot : Nat) : State :=
  if (s.core core).zoneBusy then s
  else s.modCore core (fun c => { c with zcmd := zcmdWord zone plot 0, zplot := zplotWord ((c.zone (zone % 8)).plot (plot % 64)) })

/-- ZCMD with OP 1: the zone closes as by ZONEINIT with OPEN 0, once the sends accepted before are written; the TORN records go to the ring
of a resident party. A write while BUSY is ignored. -/
def closeByCmd (s : State) (core zone plot : Nat) : State :=
  let resident := match ((s.core core).zone (zone % 8)).granted.bind s.party? with
    | some p => p.resident
    | none => false
  if (s.core core).zoneBusy then s
  else startClear (s.modCore core (fun c => { c with zcmd := zcmdWord zone plot 1 })) core (.zoneClose (zone % 8) (!resident))

/-! Counters (R397 to R399). -/

/-- CLEAR of a tract. After a snapshot of the same cycle, what is counted later in it belongs to that snapshot alone (R397, R398). -/
def clearTract (s : State) (t : Nat) : State :=
  s.modTract t (fun x => { x with counters := [], clearAt := if x.snapAt = some s.cycle then some s.cycle else x.clearAt })

/-- SNAP of a tract: an event counted later in this cycle belongs to it (R398). -/
def snapTract (s : State) (t : Nat) : State :=
  s.modTract t (fun x => { x with snap := x.counters, snapCyc := BitVec.ofNat 64 s.cycle, snapAt := some s.cycle, clearAt := none })

/-- SNAPALL. -/
def snapAll (s : State) : State := (List.range 16).foldl snapTract s

/-- SNAP of an interface's page. -/
def snapVi (s : State) (vi : Nat) : State :=
  s.modVi vi (fun v => { v with snap := v.counters, snapCyc := BitVec.ofNat 64 s.cycle, snapAt := some s.cycle })

/-- ENABLE of a partition goes to 1: its counters are zeroed (R399). -/
def enablePartition (s : State) (vi : Nat) : State :=
  if (s.vi vi).enable then s else s.modVi vi (fun v => { v with enable := true, counters := [] })

end Sys2Proof.Machine
end

