-- ==== Sys2Proof/Machine/RegMap.lean ====
section
/-!
DEFINITION. The device register space (R338, Tables 14.1 and 15.1): which register an address names, and what a read and a write of it do.
-/
namespace Sys2Proof.Machine

/-- The first address of the register space. -/
def regBase : Nat := 0x00F000000000

/-- A register, by block, number and offset. -/
inductive Reg
  | queue (q off : Nat) (view : Bool)
  | part (v off : Nat)
  | worldleg (n : Nat)
  | region (e : Nat) (hi : Bool)
  | xlate (v off : Nat)
  | memory (off : Nat)
  | legend (n k : Nat)
  | tract (t off : Nat)
  | wheelown (p : Nat)
  | port (i off : Nat)
  | fabric (off : Nat)
  | route (k : Nat)
  | zone (c off : Nat)
  | power (off : Nat)
  | count (t off : Nat)
  | snapall
  | book (d off : Nat)
  | fbhead (d : Nat)
  | vpage (v off : Nat)
  deriving DecidableEq, Repr

/-- The interface a queue belongs to: the lowest-numbered that names it (R354). -/
def State.queueOwner (s : State) (q : Nat) : Option Nat :=
  (List.range 64).find? (fun v => let x := s.vi v; decide (x.qfirst ≤ q) && decide (q < x.qfirst + x.qcount) && decide (q < 4096))

/-- The register at an address; none where nothing is assigned, or the access is no aligned 8-byte access (R338). -/
def regAt (s : State) (addr : Nat) : Option Reg :=
  let o := addr - regBase
  let within := fun (base size : Nat) => decide (base ≤ o) && decide (o < base + size)
  if addr < regBase ∨ addr % 8 ≠ 0 ∨ 0x2000000 ≤ o then none
  else if within 0 0x40000 then some (.queue (o / 64) (o % 64) false)
  else if within 0x100000 0x40000 then some (.part ((o - 0x100000) / 4096) (o % 4096))
  else if within 0x200000 0x80 then some (.worldleg ((o - 0x200000) / 8))
  else if within 0x201000 0x1000 then some (.region ((o - 0x201000) / 16) (o % 16 == 8))
  else if within 0x300000 0x40000 then some (.xlate ((o - 0x300000) / 4096) (o % 4096))
  else if within 0x400000 0x18 then some (.memory (o - 0x400000))
  else if within 0x500000 0x8000 then some (.legend ((o - 0x500000) / 32) (o % 32 / 8))
  else if within 0x600000 0x400 then some (.tract ((o - 0x600000) / 64) (o % 64))
  else if within 0x610000 0xC00 then some (.wheelown ((o - 0x610000) / 8 + 640))
  else if within 0x700000 0xC00 then some (.port ((o - 0x700000) / 64) (o % 64))
  else if within 0x710000 0x28 then some (.fabric (o - 0x710000))
  else if within 0x800000 0x80000 then some (.route ((o - 0x800000) / 8))
  else if within 0x900000 0x14000 then some (.zone ((o - 0x900000) / 128) (o % 128))
  else if within 0xA00000 0x18 then some (.power (o - 0xA00000))
  else if within 0xB00000 0x1000 then some (.count ((o - 0xB00000) / 256) (o % 256))
  else if o = 0xB01000 then some .snapall
  else if within 0xC00000 0x80000 then some (.book ((o - 0xC00000) / 0x20000) (o % 0x20000))
  else if within 0xC80000 0x20 then some (.fbhead ((o - 0xC80000) / 8))
  else if within 0xD00000 0x80000 then some (.vpage ((o - 0xD00000) / 0x2000) (o % 0x2000))
  else if 0x1000000 ≤ o then
    let v := (o - 0x1000000) / 0x40000
    let q := o % 0x40000 / 64
    if q < (s.vi v).qcount ∧ s.queueOwner ((s.vi v).qfirst + q) = some v then some (.queue ((s.vi v).qfirst + q) (o % 64) true) else none
  else none

/-- A queue belongs to a secure partition (R361). -/
def State.secureQueue (s : State) (q : Nat) : Bool :=
  let v := s.vi (s.queue q).vi
  v.secure && decide (v.qfirst ≤ q) && decide (q < v.qfirst + v.qcount)

/-- The field-book record of a register access that the worlds forbid: 7 an access to a secure block, 8 a write to a secure register
(Table 17.4). -/
def State.noteReg (s : State) (code addr cc : Nat) (vi : Option Nat := none) : State :=
  s.fb { cls := 6, code := code, addr := addr, detail := cc, vi := vi, core := none, on := some (cc / 4) }

/-- The interface whose block a register belongs to: that of a queue (R361). -/
def State.blockVi (s : State) (r : Reg) : Option Nat :=
  match r with
  | .queue q _ _ => some (s.queue q).vi
  | _ => none

/-- What a control-complex core's access may not reach: the queue block of a secure partition (R363). -/
def regForbidden (s : State) (r : Reg) (secure : Bool) : Bool :=
  match r with
  | .queue q _ _ => !secure && s.secureQueue q
  | _ => false

/-! Reads. -/

/-- A word from fields: value, high bit, low bit. -/
def packFields (fs : List (Nat × Nat × Nat)) : Word :=
  BitVec.ofNat 64 (fs.foldl (fun n f => n + f.1 % 2 ^ (f.2.1 + 1 - f.2.2) * 2 ^ f.2.2) 0)

/-- One register of a queue block (Table 14.2). -/
def readQueue (x : WQueue) (off : Nat) (view : Bool) : Word :=
  match off with
  | 0x00 => x.ring
  | 0x08 => packFields [(x.tail, 31, 0)]
  | 0x10 => packFields [(x.head, 31, 0)]
  | 0x18 => packFields [(if view then 0 else x.vi, 21, 16), (x.serialBit.toNat, 9, 9), (x.ceil, 8, 4), (x.peers.toNat, 2, 2),
      (x.devlaunch.toNat, 1, 1), (x.enable.toNat, 0, 0)]
  | 0x20 => x.done
  | 0x28 => packFields [(x.dtail, 63, 32), (x.dhead, 31, 0)]
  | 0x30 => packFields [(x.ovf.toNat, 31, 31), (x.headLevel, 25, 21), (x.headPkt.isSome.toNat, 20, 20), (x.running, 15, 0)]
  | 0x38 => x.irq
  | _ => 0

/-- PCORESi of a partition. -/
def pcores (cores : List Nat) (i : Nat) : Word := maskOf (fun b => cores.contains (64 * i + b))

/-- One register of a partition block (Table 14.7). -/
def readPart (v : Vi) (off : Nat) (secure : Bool) : Word :=
  match off with
  | 0x000 => packFields [(v.maxprio, 44, 40), (v.haltlim, 31, 16), (v.slice, 15, 8), ((secure && v.secure).toNat, 3, 3), (v.spsize, 2, 1),
      (v.enable.toNat, 0, 0)]
  | 0x008 => packFields [(v.qcount, 28, 16), (v.qfirst, 11, 0)]
  | 0x060 => packFields [(v.ctxbase, 51, 0)]
  | 0x068 => packFields [(v.running, 15, 0)]
  | o => if 0x010 ≤ o ∧ o ≤ 0x058 then pcores v.cores ((o - 0x010) / 8) else 0

/-- One register of a translation block (Table 15.3). -/
def readXlate (v : Vi) (off : Nat) : Word :=
  match off with
  | 0x00 => packFields [(v.s2base / 4096, 51, 12), (v.s2valid.toNat, 0, 0)]
  | 0x08 => packFields [(v.astab / 4096, 51, 12)]
  | 0x10 => packFields [(v.pkgmap / 4096, 51, 12)]
  | 0x18 => packFields [(v.tlbinva, 63, 12)]
  | 0x20 => v.tlbinv
  | _ => 0

/-- The words of a legend register; VALID reads 1 while a withdrawal is in progress (R377). -/
def readLegend (l : Legend) (k : Nat) : Word :=
  match k with
  | 0 => l.w0
  | 1 => l.w1
  | 2 => l.w2
  | _ => l.top

/-- MTSTAT of a tract: standing marks in its sheets' tables, in its own, and in the wide ones (Table 15.9). -/
def readMtstat (s : State) (t : Nat) : Word :=
  let sheets := ((List.range 5).map (fun k => s.tableUse 2 (40 * t + 8 * k))).foldl (· + ·) 0
  let wide := ((List.range 3).map (fun k => s.tableUse (4 + k) (40 * t))).foldl (· + ·) 0
  packFields [((s.tract t).waits, 63, 48), (wide, 47, 32), (s.tableUse 3 (40 * t), 31, 16), (sheets, 15, 0)]

/-- One register of the fabric control block (Table 15.12). -/
def readFabric (s : State) (off : Nat) : Word :=
  let f := s.fabric
  match off with
  | 0x00 => packFields [(f.sync.toNat, 18, 18), (f.domup.toNat, 17, 17), (f.master.toNat, 16, 16), (f.pkgid, 15, 0)]
  | 0x08 => packFields [(s.domCount, 53, 0)]
  | 0x10 => packFields [(f.ratbase / 4096, 51, 12), (f.ratlog, 4, 0)]
  | 0x18 => packFields [(f.fsuba / 128, 51, 7)]
  | 0x20 => packFields [(f.busy.toNat, 63, 63), (f.result, 62, 60), (f.fqueue, 27, 16), (f.fpkg, 15, 0)]
  | _ => 0

/-- One register of a zone block (Table 15.14). -/
def readZone (c : Core) (off : Nat) : Word :=
  if off < 0x40 then
    let z := c.zone (off / 8)
    packFields [(z.granted.isSome.toNat, 63, 63), (z.isOpen.toNat, 62, 62), (z.psz, 58, 56), (z.plotsm1, 55, 50), (z.lease, 47, 40),
      (z.base, 39, 20), (if z.granted.isSome then z.vi else 0, 15, 10)]
  else if off = 0x40 then c.zcmd
  else if off = 0x48 then c.zplot ||| BitVec.ofNat 64 (c.zoneBusy.toNat * 2 ^ 19)
  else 0

/-- PWRSTAT (Table 16.5). -/
def pwrstat (m : Mgmt) : Word :=
  packFields [(m.power, 63, 48), (m.tmax, 47, 40), (m.rtherm.toNat, 9, 9), (m.rpower.toNat, 8, 8), (m.duty, 4, 0)]

/-- A counter as SHOW selects it. -/
def shown (live snap : List (Nat × Word)) (show' : Bool) (k : Nat) : Word := Tab.getD (if show' then snap else live) k 0

/-- A word of a record that may be absent. -/
def recWord (r : Option (BitVec 256)) (n : Nat) : Word := r.elim 0 (fun x => BitVec.ofNat 64 (x.toNat >>> (64 * n)))

/-- A word of a ring of records, kept newest first: next is the number of the next record, size the ring's records (R401, R402). Of the newest records
the last word writes are still to come: word 0 is written with CLASS 0, then words 1 to 3, then word 0 with the CLASS; until then a place holds what it
held before. -/
def ringWord (recs : List (BitVec 256)) (next size todo off : Nat) : Word :=
  let k := off / 32 % size
  let back := (next + size - 1 - k) % size
  let n := off % 32 / 8
  let left := min 5 (todo - 5 * back)
  if left = 0 then recWord recs[back]? n
  else if n = 0 then
    if left = 5 then recWord recs[back + size]? 0 else recWord recs[back]? 0 &&& ~~~ 0x0000F00000000000#64
  else if left + n ≤ 4 then recWord recs[back]? n
  else recWord recs[back + size]? n

/-- What a register reads as. -/
def readReg (s : State) (r : Reg) (secure : Bool) : Word :=
  match r with
  | .queue q off view => readQueue (s.queue q) off view
  | .part v off => readPart (s.vi v) off secure
  | .worldleg n => if secure then Tab.getD s.worldleg n 0 else 0
  | .region e hi => if secure then (if hi then (Tab.getD s.regions e (0, 0)).2 else (Tab.getD s.regions e (0, 0)).1) else 0
  | .xlate v off => readXlate (s.vi v) off
  | .memory off => if off = 0 then packFields [(s.poisonBase / 4096, 51, 12)] else if off = 8 then s.poisonCmd else s.placeCmd
  | .legend n k => readLegend (s.legend n) k
  | .tract t off =>
    let x := s.tract t
    if off = 0 then packFields [(x.widecap, 35, 24), (x.tractcap, 23, 12), (x.sheetcap, 11, 0)]
    else if off = 8 then packFields [(x.share, 7, 0)]
    else if off = 0x10 then readMtstat s t
    else 0
  | .wheelown p => Tab.getD s.wheelOwn p 0
  | .port i off =>
    let p := s.port i
    if off = 0 then packFields [(p.enable.toNat, 0, 0)]
    else if off = 8 then
      let up := decide (p.st = .up)
      packFields [(p.fails, 47, 32), (if up then p.peerPkg else 0, 31, 16), (if up then p.peerPort else 0, 15, 8), (p.st.code, 2, 0)]
    else 0
  | .fabric off => readFabric s off
  | .route k => Tab.getD s.routes k 0
  | .zone c off => readZone (s.core c) off
  | .power off =>
    if off = 0 then packFields [(s.mgmt.limit, 11, 0)] else if off = 8 then pwrstat s.mgmt else packFields [(s.mgmt.lowers, 31, 0)]
  | .count t off =>
    let x := s.tract t
    if off < 0x80 then shown x.counters x.snap x.showSnap (off / 8)
    else if off = 0x80 then packFields [(x.showSnap.toNat, 1, 1)]
    else if off = 0x88 then x.snapCyc
    else 0
  | .snapall => 0
  | .book d off => let b := Tab.getD s.fieldBook d FbRing.empty; ringWord b.recs b.seq 4096 b.todo off
  | .fbhead d => packFields [((Tab.getD s.fieldBook d FbRing.empty).seq, 21, 0)]
  | .vpage v off =>
    let x := s.vi v
    if off < 0x800 then shown x.counters x.snap x.showSnap (off / 8)
    else if off = 0x800 then packFields [(x.showSnap.toNat, 1, 1)]
    else if off = 0x808 then x.snapCyc
    else if off = 0x810 then BitVec.ofNat 64 (x.ringHead % 128)
    else if 0x1000 ≤ off then ringWord x.ring x.ringHead 128 x.ringTodo (off - 0x1000)
    else 0

/-! Writes. -/

/-- A ring register as it is kept: LOG2N outside 4 to 16 reads back 4 (Table 14.2). -/
def ringReg (d : Word) : Word := packFields [(bits d.toNat 51 12, 51, 12), (ringLog d, 4, 0)]

/-- A write to a queue block (Table 14.2, R341, R351, R356). -/
def writeQueue (s : State) (q off : Nat) (d : Word) (view : Bool) : State :=
  let n := d.toNat
  match off with
  | 0x00 => s.modQueue q (fun x => if x.enable then x else { x with ring := ringReg d })
  | 0x08 => doorbell s q (n % 2 ^ 32) view
  | 0x18 =>
    let t := s.modQueue q (fun x =>
      { x with
        vi := if view then x.vi else bits n 21 16
        serialBit := n.testBit 9
        ceil := bits n 8 4
        peers := if view then x.peers else n.testBit 2
        devlaunch := n.testBit 1
        enable := n.testBit 0 })
    if n.testBit 10 then killQueue t q else t
  | 0x20 => s.modQueue q (fun x => if x.enable then x else { x with done := ringReg d })
  | 0x28 => s.modQueue q (fun x => { x with dtail := bits n 63 32 })
  | 0x30 => s.modQueue q (fun x => { x with ovf := x.ovf && !n.testBit 31 })
  | 0x38 => s.modQueue q (fun x => { x with irq := d &&& 0x1F0FFF#64 })
  | _ => s

/-- The device writes WQCTL.VI of the queues of a range: the interface that each belongs to (R354). -/
def ownQueues (s : State) (first count : Nat) : State :=
  (List.range count).foldl (fun t k => match t.queueOwner (first + k) with
    | some v => t.modQueue (first + k) (fun x => { x with vi := v })
    | none => t) s

/-- A write to a partition block (Table 14.7, R354, R360, R404). DESIGN CHOICE (Log 93): a bit that would put a core into a fifth partition is not set,
since R355 allows it four and gives such a write no outcome. -/
def writePart (s : State) (v off : Nat) (d : Word) (secure : Bool) (cc : Nat) : State :=
  let n := d.toNat
  let x := s.vi v
  let idle := !x.enable && x.running == 0
  match off with
  | 0x000 =>
    let t := if n.testBit 0 then enablePartition s v else s.modVi v (fun y => { y with enable := false })
    let u := t.modVi v (fun y =>
      { y with
        maxprio := bits n 44 40
        haltlim := bits n 31 16
        slice := bits n 15 8
        secure := if secure then n.testBit 3 else y.secure
        spsize := bits n 2 1 })
    if !secure && n.testBit 3 != x.secure then u.noteReg 8 (regBase + 0x100000 + 4096 * v) cc else u
  | 0x008 =>
    if idle then
      let t := s.modVi v (fun y => { y with qcount := min 4096 (bits n 28 16), qfirst := bits n 11 0 })
      ownQueues (ownQueues t x.qfirst x.qcount) (bits n 11 0) (min 4096 (bits n 28 16))
    else s
  | 0x060 => s.modVi v (fun y => { y with ctxbase := bits n 51 12 * 4096 })
  | o =>
    if 0x010 ≤ o ∧ o ≤ 0x058 ∧ idle then
      let i := (o - 0x010) / 8
      let others := fun (c : Nat) => (s.vis.filter (fun e => e.1 != v && e.2.cores.contains c)).length
      let gone := fun (c : Nat) => s.mgmt.retmap.contains c || s.mgmt.returned.contains c || decide (4 ≤ others c)
      let new := ((List.range 64).filter (fun b => n.testBit b)).map (fun b => 64 * i + b)
      s.modVi v (fun y => { y with cores := y.cores.filter (fun c => c / 64 != i) ++ new.filter (fun c => !gone c) })
    else s

/-- A write to a translation block (Table 15.3, R366, R371). -/
def writeXlate (s : State) (v off : Nat) (d : Word) : State :=
  let n := d.toNat
  let idle := !(s.vi v).enable && (s.vi v).running == 0
  match off with
  | 0x00 => if idle then s.modVi v (fun y => { y with s2base := bits n 51 12 * 4096, s2valid := n.testBit 0 }) else s
  | 0x08 => if idle then s.modVi v (fun y => { y with astab := bits n 51 12 * 4096 }) else s
  | 0x10 => if idle then s.modVi v (fun y => { y with pkgmap := bits n 51 12 * 4096 }) else s
  | 0x18 => s.modVi v (fun y => { y with tlbinva := bits n 63 12 })
  | 0x20 => invalidate s v (bits n 1 0) (bits n 47 32) (s.vi v).tlbinva (bits n 31 12)
  | _ => s

/-- A write to the package memory block (Table 15.7). -/
def writeMemory (s : State) (off : Nat) (d : Word) (secure : Bool) (cc : Nat) : State :=
  let n := d.toNat
  match off with
  | 0x00 => if secure then { s with poisonBase := bits n 51 12 * 4096 } else s.noteReg 8 (regBase + 0x400000) cc
  | 0x08 => poisonWrite s (bits n 39 12) (bits n 1 0)
  | 0x10 =>
    if bits n 1 0 = 1 then placeWrite s (bits n 39 21) (bits n 3 2)
    else if bits n 1 0 = 2 then placeRead s (bits n 39 21)
    else { s with placeCmd := packFields [(1, 63, 63), (bits n 39 21, 39, 21), (bits n 3 2, 3, 2), (bits n 1 0, 1, 0)] }
  | _ => s

/-- A write to one of the four words of a legend register (R377). -/
def writeLegend (s : State) (n k : Nat) (d : Word) (secure : Bool) : State :=
  if s.secureLegend n && !secure then s
  else if k = 3 then (if d.getLsbD 63 then commitLegend s n d secure else clearLegend s n d secure)
  else if (s.legend n).valid then s
  else s.modLegend n (fun l =>
    match k with
    | 0 => { l with w0 := d &&& 0x000FFFFFFFFFF000#64 }
    | 1 => { l with w1 := d &&& 0x000FFFFFFFFFF000#64 }
    | _ => { l with w2 := d &&& 0x000FFFFFFFFFF000#64 })

/-- A write to the fabric control block (Table 15.12, R381, R385). -/
def writeFabric (s : State) (off : Nat) (d : Word) : State :=
  let n := d.toNat
  match off with
  | 0x00 =>
    let down := (List.range 48).all (fun i => (s.port i).st == .down)
    let t := { s with fabric := { s.fabric with pkgid := if down then bits n 15 0 else s.fabric.pkgid, master := n.testBit 16 } }
    if n.testBit 17 then domainUp t else domainOff t
  | 0x10 => { s with fabric := { s.fabric with ratbase := bits n 51 12 * 4096, ratlog := bits n 4 0 } }
  | 0x18 => { s with fabric := { s.fabric with fsuba := bits n 51 7 * 128 } }
  | 0x20 => fabricSubmit s d
  | _ => s

/-- What a write to a register does. cc is the number of the control-complex core that writes. -/
def writeReg (s : State) (r : Reg) (addr : Nat) (d : Word) (secure : Bool) (cc : Nat) : State :=
  let n := d.toNat
  match r with
  | .queue q off view => writeQueue s q off d view
  | .part v off => writePart s v off d secure cc
  | .worldleg k => if secure then { s with worldleg := Tab.set s.worldleg k d } else s.noteReg 8 addr cc
  | .region e hi =>
    if secure then
      let x := Tab.getD s.regions e (0, 0)
      { s with regions := Tab.set s.regions e (if hi then (x.1, d &&& 0x000FFFFFFFE00000#64) else (d &&& 0x000FFFFFFFE00003#64, x.2)) }
    else s.noteReg 8 addr cc
  | .xlate v off => writeXlate s v off d
  | .memory off => writeMemory s off d secure cc
  | .legend k w => writeLegend s k w d secure
  | .tract t off =>
    if off = 0 then mtcap s t d else if off = 8 then s.modTract t (fun x => { x with share := bits n 7 0 }) else s
  | .wheelown p =>
    { s with wheelOwn := Tab.upd s.wheelOwn p 0 (fun w => if w.getLsbD 62 then w else d &&& 0xBF00000000000000#64) }
  | .port i off => if off = 0 then (if n.testBit 0 then enablePort s i else disablePort s i) else s
  | .fabric off => writeFabric s off d
  | .route k => { s with routes := Tab.set s.routes k (d &&& 0xBFBFBFBF#64) }
  | .zone c off =>
    if off = 0x40 then (if n.testBit 3 then closeByCmd s c (bits n 2 0) (bits n 9 4) else readPlot s c (bits n 2 0) (bits n 9 4)) else s
  | .power off =>
    if off = 0 then
      (if secure then { s with mgmt := { s.mgmt with limit := bits n 11 0 } } else s.noteReg 8 addr cc)
    else s
  | .count t off =>
    if off = 0x80 then
      let a := if n.testBit 0 then snapTract s t else s
      let b := if n.testBit 2 then clearTract a t else a
      b.modTract t (fun x => { x with showSnap := n.testBit 1 })
    else s
  | .snapall => if n.testBit 0 then snapAll s else s
  | .book _ _ => s
  | .fbhead _ => s
  | .vpage v off =>
    if off = 0x800 then
      (if n.testBit 0 then snapVi s v else s).modVi v (fun x => { x with showSnap := n.testBit 1 })
    else s

/-- How far the word writes of the newest records of a ring have come when it is read (R401): the choice from the tape is how many of those still to
come have not been made; 0, and an empty tape, say that all have. -/
def State.ringReads (s : State) (r : Reg) : State :=
  match r with
  | .book d _ =>
    if (Tab.getD s.fieldBook d FbRing.empty).todo = 0 then s
    else
      let c := s.choose
      { c.2 with fieldBook := Tab.upd c.2.fieldBook d FbRing.empty (fun b => { b with todo := min b.todo c.1 }) }
  | .vpage v _ =>
    if (s.vi v).ringTodo = 0 then s
    else
      let c := s.choose
      c.2.modVi v (fun i => { i with ringTodo := min i.ringTodo c.1 })
  | _ => s

/-- A register access by a control-complex core (R338, R360, R363): what a load reads, and the state after it. -/
def regLoad (s : State) (addr : Nat) (secure : Bool) (cc : Nat) : Word × State :=
  match regAt s addr with
  | none => (0, s)
  | some r => if regForbidden s r secure then (0, s.noteReg 7 addr cc (s.blockVi r)) else let t := s.ringReads r; (readReg t r secure, t)

/-- A register store by a control-complex core. -/
def regStore (s : State) (addr : Nat) (d : Word) (secure : Bool) (cc : Nat) : State :=
  match regAt s addr with
  | none => s
  | some r => if regForbidden s r secure then s.noteReg 7 addr cc (s.blockVi r) else writeReg s r addr d secure cc

end Sys2Proof.Machine
end

