-- ==== Sys2Proof/Machine/EvRegs.lean ====
section
/-!
DEFINITION. Events of the device registers, of the fabric, and of the control complex (Chapters 14, 15 and 17).
-/
namespace Sys2Proof.Machine

/-! Registers (R338, R399). -/

/-- PARTITION_ENABLE (R399). -/
def execPartitionEnable (vi : Nat) (s : State) : Host.Outcome State Fault Refusal := .next (enablePartition s vi)

/-- REGISTER_WRITE (R338, R360, R363). The event does not name the control-complex core: the field book takes its number from the tape. No core can
write before the first is released (R389). -/
def execRegisterWrite (addr : Nat) (data : Word) (secure : Bool) (s : State) : Host.Outcome State Fault Refusal :=
  .next (if s.ccWorld.isEmpty then s else regStore s.choose.2 addr data secure (s.choose.1 % 16))

/-- CONTROL_COMPLEX_ACCESS (R338, R360, R363, R397): an access of a released core to home memory or to a register. -/
def execControlComplexAccess (cc addr : Nat) (store : Bool) (bytes : Nat) (data : Word) (s : State) : Host.Outcome State Fault Refusal :=
  let secure := Tab.getD s.ccWorld cc true
  let n := min bytes 8
  let give := fun (t : State) (x : Nat) => if store then t else { t with ccData := BitVec.ofNat 64 x }
  if n = 0 ∨ (Tab.get? s.ccWorld cc).isNone then .next s
  else if isHbm (addr + n - 1) then
    if (s.securePa addr || s.securePa (addr + n - 1)) && !secure then
      .next (give (s.fb { cls := 6, code := if store then 2 else 1, addr := addr, detail := cc, vi := none, core := none, on := some (cc / 4) }) 0)
    else
      let t := (List.range ((addr % 64 + n + 63) / 64)).foldl (fun u k =>
        let lo := max addr (64 * (addr / 64 + k))
        (u.tally (u.tractOf lo) (cc / 4 % 4) (min (addr + n) (64 * (addr / 64 + k) + 64) - lo) none).tally (u.tractOf lo) (4 + cc / 4 % 4) 1 none) s
      .next (if store then t.writeHome addr (bytesOf n data.toNat) else give t (t.homeNat addr n))
  else if bytes = 8 then
    let a := regLoad s addr secure cc
    .next (if store then regStore s addr data secure cc else give a.2 a.1.toNat)
  else .next (give s 0)

/-! Translation (R371). -/

/-- TLBINV_INTERFACE (R371). -/
def execTlbinvInterface (vi : Nat) (s : State) : Host.Outcome State Fault Refusal := .next (invalidate s vi 0 0 0 0)

/-- TLBINV_ASID (R371). -/
def execTlbinvAsid (vi asid : Nat) (s : State) : Host.Outcome State Fault Refusal := .next (invalidate s vi 1 asid 0 0)

/-- TLBINV_VA_RANGE (R371). -/
def execTlbinvVaRange (vi asid page count : Nat) (s : State) : Host.Outcome State Fault Refusal := .next (invalidate s vi 2 asid page count)

/-- TLBINV_GPA_RANGE (R371). -/
def execTlbinvGpaRange (vi page count : Nat) (s : State) : Host.Outcome State Fault Refusal := .next (invalidate s vi 3 0 page count)

/-- TLBINV_COMPLETE (R371). -/
def execTlbinvComplete (vi : Nat) (s : State) : Host.Outcome State Fault Refusal := .next (finishInvalidate s vi)

/-! Poison and placement (R373, R375). -/

/-- POISON_SET (R373). -/
def execPoisonSet (granule : Nat) (s : State) : Host.Outcome State Fault Refusal := .next (poisonWrite s granule 1)

/-- POISON_CLEAR (R373). -/
def execPoisonClear (granule : Nat) (s : State) : Host.Outcome State Fault Refusal := .next (poisonWrite s granule 2)

/-- POISON_CMD_COMPLETE (R373). -/
def execPoisonCmdComplete (s : State) : Host.Outcome State Fault Refusal :=
  .next { s with poisonCmd := s.poisonCmd ||| 0x8000000000000000#64 }

/-- PLACE_SET (R375). -/
def execPlaceSet (frame : Nat) (mode : BitVec 2) (s : State) : Host.Outcome State Fault Refusal := .next (placeWrite s frame mode.toNat)

/-- PLACE_QUERY (R375). -/
def execPlaceQuery (frame : Nat) (s : State) : Host.Outcome State Fault Refusal := .next (placeRead s frame)

/-! Legends and mark tables (R377, R378). -/

/-- LEGEND_COMMIT (R377). -/
def execLegendCommit (n : Nat) (top : Word) (secure : Bool) (s : State) : Host.Outcome State Fault Refusal := .next (commitLegend s n top secure)

/-- LEGEND_CLEAR (R377). -/
def execLegendClear (n : Nat) (top : Word) (secure : Bool) (s : State) : Host.Outcome State Fault Refusal := .next (clearLegend s n top secure)

/-- LEGEND_CLEAR_COMPLETE (R377). -/
def execLegendClearComplete (n : Nat) (s : State) : Host.Outcome State Fault Refusal := .next (finishLegend s n)

/-- MTCAP_WRITE (R378). -/
def execMtcapWrite (t : Nat) (v : Word) (s : State) : Host.Outcome State Fault Refusal := .next (mtcap s t v)

/-! Ports, the domain and the fabric (R380 to R383, R385). -/

/-- PORT_ENABLE (R380). -/
def execPortEnable (i : Nat) (s : State) : Host.Outcome State Fault Refusal := .next (enablePort s i)

/-- PORT_DISABLE (R380, R383). -/
def execPortDisable (i : Nat) (s : State) : Host.Outcome State Fault Refusal := .next (disablePort s i)

/-- PORT_TRAIN_UP (R380). -/
def execPortTrainUp (i peerPkg peerPort : Nat) (s : State) : Host.Outcome State Fault Refusal := .next (trainUp s i peerPkg peerPort)

/-- PORT_TRAIN_TIMEOUT (R380). -/
def execPortTrainTimeout (i : Nat) (s : State) : Host.Outcome State Fault Refusal := .next (trainTimeout s i)

/-- PORT_FAIL (R380, R383). -/
def execPortFail (i : Nat) (s : State) : Host.Outcome State Fault Refusal := .next (failPort s i)

/-- DOMAIN_BRING_UP (R381). -/
def execDomainBringUp (s : State) : Host.Outcome State Fault Refusal := .next (domainUp s)

/-- DOMAIN_JOIN (R381). -/
def execDomainJoin (i count : Nat) (s : State) : Host.Outcome State Fault Refusal := .next (domainJoin s i count)

/-- DOMAIN_DOWN (R381). -/
def execDomainDown (s : State) : Host.Outcome State Fault Refusal := .next (domainOff s)

/-- FABRIC_SUBMIT (R385). -/
def execFabricSubmit (v : Word) (s : State) : Host.Outcome State Fault Refusal := .next (fabricSubmit s v)

/-- FABRIC_SUBMIT_ANSWER (R385). -/
def execFabricSubmitAnswer (accepted : Bool) (s : State) : Host.Outcome State Fault Refusal := .next (submitEnd s (if accepted then 0 else 1))

/-- FABRIC_SUBMIT_TIMEOUT (R385): no answer within 2 ms. -/
def execFabricSubmitTimeout (s : State) : Host.Outcome State Fault Refusal :=
  .next (if s.fabric.fsince + Config.cycles2ms ≤ s.cycle then submitEnd s 2 else s)

/-- FABRIC_FORWARD (R382): a flit for another package goes on while hops are left and a route is usable, or is dropped. The event does not tell the
address by which it chooses its route: the key comes from the tape. -/
def execFabricForward (dst hop : Nat) (s : State) : Host.Outcome State Fault Refusal :=
  .next (if dst ≠ s.fabric.pkgid ∧ 0 < hop ∧ !(s.usable dst).isEmpty then s.choose.2.send dst s.choose.1 (.fwd dst (hop - 1)) else s)

/-! Zones and counters (R386, R397 to R399). -/

/-- ZONE_PLOT_READ (R386). -/
def execZonePlotRead (core zone plot : Nat) (s : State) : Host.Outcome State Fault Refusal := .next (readPlot s core zone plot)

/-- ZONE_CLOSE (R386). -/
def execZoneClose (core zone : Nat) (s : State) : Host.Outcome State Fault Refusal :=
  .next (closeByCmd s core zone (bits (s.core core).zcmd.toNat 9 4))

/-- COUNTER_CLEAR (R397). -/
def execCounterClear (t : Nat) (s : State) : Host.Outcome State Fault Refusal := .next (clearTract s t)

/-- COUNTER_SNAP (R398). -/
def execCounterSnap (t : Nat) (s : State) : Host.Outcome State Fault Refusal := .next (snapTract s t)

/-- SNAPALL (R398). -/
def execSnapall (s : State) : Host.Outcome State Fault Refusal := .next (snapAll s)

/-- VCOUNTER_SNAP (R399). -/
def execVcounterSnap (vi : Nat) (s : State) : Host.Outcome State Fault Refusal := .next (snapVi s vi)

end Sys2Proof.Machine
end

