-- ==== Sys2Proof/Machine/EvSched.lean ====
section
/-!
DEFINITION. Events of phases, parties, launches, queues and the scheduler.
-/
namespace Sys2Proof.Machine

/-! Phases, tasks and parties (R238, R239, R243, R306). -/

/-- PHASE_END (R238). -/
def execPhaseEnd (party : Nat) (s : State) : Host.Outcome State Fault Refusal := .next (endPhase s party)

/-- PHASE_START (R239, R344, R348). -/
def execPhaseStart (party : Nat) (s : State) : Host.Outcome State Fault Refusal := .next (startPhase s party)

/-- TASK_ASSIGN (R306). -/
def execTaskAssign (launch : Nat) (s : State) : Host.Outcome State Fault Refusal := .next (assignTask s launch)

/-- PARTY_END (R243, R306). -/
def execPartyEnd (party : Nat) (s : State) : Host.Outcome State Fault Refusal := .next (finishParty s party)

/-! Queues (R341, R345, R346, R351, R353). -/

/-- PACKET_HEAD (R341, R345). -/
def execPacketHead (q : Nat) (s : State) : Host.Outcome State Fault Refusal := .next (takeHead s q)

/-- PACKET_AGE (R346). -/
def execPacketAge (q : Nat) (s : State) : Host.Outcome State Fault Refusal :=
  .next (if (s.queue q).headLevel = levelOf (s.queue q) s.cycle then s else s.modQueue q (fun x => { x with headLevel := levelOf x s.cycle }))

/-- WQTAIL_WRITE (R339, R341): a doorbell through the host's block. -/
def execWqtailWrite (q : Nat) (tail : BitVec 32) (s : State) : Host.Outcome State Fault Refusal := .next (doorbell s q tail.toNat false)

/-- QUEUE_KILL (R351). -/
def execQueueKill (q : Nat) (s : State) : Host.Outcome State Fault Refusal := .next (killQueue s q)

/-- A peer's packet is accepted at a queue, with room for it and PEERS (R353, R385). -/
def State.takesPeer (s : State) (q : Nat) : Bool := decide (q < 4096) && (s.queue q).peers && (s.queue q).room

/-- PEER_PACKET_RECEIVE (R353, R385). The write carries its submitter's SYSTEM-scope publication: its mark, with the records of it that are still to
come here, is known from then on, so that the acquire for the argument block waits for it (R344). A packet without such a mark, or one that comes
too late, is none that a peer sends (Log 75). -/
def execPeerPacketReceive (pkg q : Nat) (words : PeerPacket) (s : State) : Host.Outcome State Fault Refusal :=
  let pub := words.pub
  match pub.stamp with
  | none => .next s
  | some k =>
    if pub.pkg ≠ pkg ∨ s.tooLate pub then .next s
    else
      let t := (s.announce pub k).standPeers
      let u := if t.takesPeer q then t.submit q 0 none (packetBytes words.words) else t
      .next (u.send pkg q (.pktAns pkg (t.takesPeer q)))

/-! The scheduler (R347, R350, R355, R359). -/

/-- SCHEDULE_PLACE (R347, R350). -/
def execSchedulePlace (vi : Nat) (s : State) : Host.Outcome State Fault Refusal := .next (schedule s vi)

/-- PREEMPT_HALT_COMPLETE (R41, R357, R358). -/
def execPreemptHaltComplete (core : Nat) (s : State) : Host.Outcome State Fault Refusal := .next (completeHalt s core)

/-- HALT_TIMEOUT (R359). -/
def execHaltTimeout (core : Nat) (s : State) : Host.Outcome State Fault Refusal := .next (timeoutHalt s core)

/-- CONTEXT_RESUME (R42, R350). -/
def execContextResume (core : Nat) (s : State) : Host.Outcome State Fault Refusal := .next (resume s core)

/-- SLICE_SWITCH (R355). -/
def execSliceSwitch (core : Nat) (s : State) : Host.Outcome State Fault Refusal := .next (sliceSwitch s core)

/-! Launches (R342, R349). -/

/-- LAUNCH_COMPLETE (R349). -/
def execLaunchComplete (launch : Nat) (s : State) : Host.Outcome State Fault Refusal := .next (completeLaunch s launch)

/-- DONE_RECORD_WRITE (R342). -/
def execDoneRecordWrite (q : Nat) (s : State) : Host.Outcome State Fault Refusal := .next (writeDone s q)

end Sys2Proof.Machine
end

