-- ==== Sys2Proof/Machine/Prefetch.lean ====
section
/-!
DEFINITION. The lines that a SY.PREF requests (R251): each is translated, and served at its home tract or asked of its package (R397).
-/
namespace Sys2Proof.Machine

/-- One line of a prefetch: the state after it, and whether the field book has the prefetch's record of a forbidden line; none where it waits for a
walk. A line that cannot be translated or is poisoned is skipped (R251), one of the compute view too (Log 119); one that the worlds forbid is not
read, and recorded once (R363). -/
def prefLine (s : State) (core : Nat) (l : Launch) (j : Prefetch) : Option (State × Bool) :=
  match sxAt s core j.id l j.va .read with
  | .miss => none
  | .fault _ => some (s, j.noted)
  | .ok pa pkg =>
    if s.worldBlocks l pa pkg then
      some (if j.noted then s else s.fb { cls := 6, code := 1, addr := pa, detail := core, vi := some l.vi, core := some core }, true)
    else if pkg ≠ 0 then some (s.send (pkg - 1) (pa / 64) (.ldReq (pkg - 1) j.wave j.id (pa / 64)), j.noted)
    else some (if isHbm pa then s.served (s.tractOf pa) core 64 else s, j.noted)

/-- The lines of a prefetch in increasing order, up to one that waits for a walk; the prefetch that is left then. -/
def prefLines (s : State) (core : Nat) (l : Launch) : Nat → Prefetch → State × Option Prefetch
  | 0, _ => (s, none)
  | n + 1, j =>
    match prefLine s core l j with
    | none => (s.noteSxMiss core j.id j.launch j.va, some j)
    | some (t, noted) => prefLines t core l n { j with va := (j.va + 64) % 2 ^ 64, left := n, noted := noted }

/-- A prefetch goes on; it ends with its launch. -/
def runPref (s : State) (core : Nat) (j : Prefetch) : State :=
  match s.launch? j.launch with
  | none => s
  | some l =>
    if l.active then
      let r := prefLines s core l j.left j
      match r.2 with
      | some k => r.1.modCore core (fun c => { c with prefs := c.prefs ++ [k] })
      | none => r.1
    else s

/-- The prefetches of a core go on. -/
def runPrefs (s : State) (core : Nat) : State :=
  (s.core core).prefs.foldl (fun t j => runPref t core j) (if (s.core core).prefs.isEmpty then s else s.modCore core (fun c => { c with prefs := [] }))

/-- The lines of a byte range from an address, a length of 0 standing for one line (R251). -/
def prefCount (a len : Nat) : Nat := if len = 0 then 1 else (a % 64 + len + 63) / 64

/-- SY.PREF: a prefetch of the lines from A to A + b[15:0] − 1. -/
def startPref (t : State) (w : Wave) (a : Word) : State :=
  let j : Prefetch := { id := t.nextId, wave := t.cur, launch := w.launch, va := a.toNat / 64 * 64, left := prefCount a.toNat (bits (slatchB t .sy).toNat 15 0),
                        noted := false }
  runPref { t with nextId := t.nextId + 1 } w.core j

end Sys2Proof.Machine
end

