-- ==== Sys2Proof/Machine/Auto.lean ====
section
/-!
DEFINITION. What the machine does by itself between bundles: the events that its state makes due, and the end of a cycle. Where the spec gives no
order between two due events, the order of these lists stands (Log 2); an agenda can bring any other.
-/
namespace Sys2Proof.Machine

/-- An event of the state, as its meaning. -/
abbrev Ev := State → Host.Outcome State Fault Refusal

/-- Events of a resident wave's memory commands, those of the n-th load, ready atomic or sent atomic. -/
def commandEvents (s : State) (k : Nat) (w : Wave) : List Ev :=
  (enum (w.cmds.filter Cmd.isLd)).map (fun (e : Nat × Cmd) => match e.2.st with
    | .queued => execLdEntryArrive k e.1
    | .begun _ _ => execLoadNoResponse k e.1
    | .sent _ _ _ _ => execLoadNoResponse k e.1) ++
  (List.range (s.atReady w).length).map (fun n => execAtHomePerform (.own k n)) ++
  (List.range ((s.core w.core).reqs.filter (fun q => q.wave == k)).length).flatMap (fun n => [execAtResend k n, execAtResendTimeout k n]) ++
  [execAcquireComplete k, execDrainComplete k, execBaWaitSatisfy k]

/-- A wave's first fetch from a page of its text brings the page in, with the bytes that the container holds (R286). -/
def pageEvents (s : State) (w : Wave) : List Ev :=
  match s.launch? w.launch with
  | none => []
  | some l =>
    match s.editionOf l, s.wantsPage w l with
    | some e, some k => ((e.pages.find? (fun p => p.1 == k)).map (fun p => execDemandPageLoad l.handle l.edition k p.2.1)).toList
    | _, _ => []

/-- Events of a resident wave. -/
def waveEvents (s : State) (e : Nat × Wave) : List Ev :=
  pageEvents s e.2 ++
  [execWaveExchange e.1, execTranslationWalkDone e.1, execSleepExpire e.1, execTwinRecordCompare e.1, execTwinEscapePerform e.1] ++
    commandEvents s e.1 e.2

/-- The reserved plots of a zone. -/
def Zone.reservedPlots (z : Zone) : List Nat := (z.plots.filter (fun p => p.2.st == .reserved)).map (fun p => p.1)

/-- Events of a core's engines, logs, buffers and zones. -/
def coreEvents (e : Nat × Core) : List Ev :=
  let k := e.1
  [execSpillMove k, execLogFullDrain k, execScPerform k, execMxCommandPerform k, execMxIdle k, execMxWakeStart k, execGaComplete k, execSfResult k] ++
    e.2.loops.map (fun (x : Nat × LoopCtx) => execLoopcopyIteration k x.1) ++
    e.2.cbs.map (fun (x : Nat × Cb) => execCbSlotReady k (BitVec.ofNat 4 x.1)) ++
    (List.range e.2.sends.length).map (fun n => execLandsendWriteComplete k n) ++
    (List.range e.2.clears.length).map (fun n => execPlotClearEffect k n) ++
    e.2.zones.flatMap (fun (z : Nat × Zone) => z.2.reservedPlots.map (fun p => execPlotLeaseExpire k z.1 p)) ++
    (if e.2.sxMiss.isEmpty then [] else [execTranslationWalkDone (sxWaiter k)]) ++
    [execPreemptHaltComplete k, execHaltTimeout k, execContextResume k, execSliceSwitch k]

/-- Events of a party. -/
def partyEvents (p : Nat) : List Ev :=
  [execBaPbarComplete p, execCopy2dwStart p, execSxCopyComplete p, execCompletionRecordWrite p, execWaitcSatisfy p, execPhaseEnd p, execPhaseStart p,
    execPartyEnd p]

/-- Events of a mark: it stands, and then each tract's compactor applies its records. -/
def markEvents (m : Mark) : List Ev :=
  if m.gone then [] else if m.stands then (List.range 16).map (fun t => execCompactMark t m.id) else [execMarkStand m.id]

/-- The landfall message that has been on its way longest arrives. -/
def landEvents (s : State) : List Ev :=
  (match s.net with
   | m :: _ => [execLandresvReceive m, execLandsendReceive m, execLandclrRemoteReceive m]
   | [] => []) ++
  (match s.answers with
   | a :: _ => [execLandfallResponse a]
   | [] => [])

/-- Events of a work queue. -/
def queueEvents (q : Nat) : List Ev := [execDoneRecordWrite q, execPacketHead q, execPacketAge q]

/-- Events of the devices. -/
def deviceEvents (s : State) : List Ev :=
  (s.vis.filter (fun (v : Nat × Vi) => v.2.tlbBusy.isSome)).map (fun (v : Nat × Vi) => execTlbinvComplete v.1) ++
    (s.legends.filter (fun (x : Nat × Legend) => x.2.clearing.isSome)).map (fun (x : Nat × Legend) => execLegendClearComplete x.1) ++
    (s.ports.filter (fun (x : Nat × FabPort) => x.2.st == .train)).map (fun (x : Nat × FabPort) => execPortTrainTimeout x.1) ++
    (if s.fabric.busy then [execFabricSubmitTimeout] else []) ++
    (List.range 16).map (fun t => execMxWakeAdmit t) ++
    s.tagStore.map (fun r => execAtTagExpire r.pkg r.core r.tag) ++
    [execPoisonCmdComplete, execDomainCountWarning, execStampLimitStop]

/-- The events that may be due, in the order in which they are tried. -/
def dueEvents (s : State) : List Ev :=
  s.waves.flatMap (waveEvents s) ++ s.cores.flatMap coreEvents ++ s.parties.flatMap (fun (p : Nat × Party) => partyEvents p.1) ++
    s.marks.flatMap markEvents ++ landEvents s ++ deviceEvents s ++
    s.launches.flatMap (fun (l : Nat × Launch) => [execTaskAssign l.1, execLaunchComplete l.1]) ++
    s.queues.flatMap (fun (q : Nat × WQueue) => queueEvents q.1) ++ s.vis.map (fun (v : Nat × Vi) => execSchedulePlace v.1)

/-- The first of the events that changes the state. -/
def firstDue (s : State) : List Ev → Option State
  | [] => none
  | f :: t =>
    match f s with
    | .next u => if u = s then firstDue s t else some u
    | .fault _ => firstDue s t
    | .refused _ => firstDue s t

/-- What waits for a free place, for an order, or for the end of the cycle is tried: reservations of the cycle (R299), phases and parties that ended in
it (R307, R308), peers' records and requests held here (R264, R384), the queues and prefetches of every core, and packets of SY.LAUNCH (R352). -/
def endCycle (s : State) : State :=
  let t := retryPeers (retryRecords (closePhases (judgeResvs (noteHeld (noteReached s)))))
  let u := t.cores.foldl (fun v (e : Nat × Core) => runPrefs (settleCore v e.1) e.1) t
  u.waves.foldl (fun v (e : Nat × Wave) => tryLaunch v e.1) u

/-- A wave's next bundle waits for a walk. -/
def walks (s : State) (key : Nat) : Bool :=
  match prepare s key with
  | .error (.walkFetch _) => true
  | .error (.walkLane _ _ _) => true
  | .error .hold => false
  | .error .endPoint => false
  | .error (.escape _) => false
  | .error (.trap _) => false
  | .ok _ => false

/-- The waves and streamers of each tract whose access waits for a walk, in order of arrival (R370). -/
def noteMisses (s : State) : State :=
  let new := (s.waves.filter (fun (e : Nat × Wave) => walks s e.1)).map (fun (e : Nat × Wave) => (e.2.core / 40, e.1)) ++
    (s.cores.filter (fun (e : Nat × Core) => !e.2.sxMiss.isEmpty)).map (fun (e : Nat × Core) => (e.1 / 40, sxWaiter e.1))
  (List.range 16).foldl (fun t n =>
    let here := (new.filter (fun e => e.1 == n)).map (fun e => e.2)
    if here.isEmpty && (t.tract n).misses.isEmpty then t
    else t.modTract n (fun x => { x with misses := x.misses.filter here.contains ++ here.filter (fun k => !x.misses.contains k) })) s

/-- What was walked for streamer commands and prefetches that have ended, and their misses, are dropped. -/
def State.dropWalks (s : State) : State :=
  if s.cores.all (fun (e : Nat × Core) => e.2.sxMiss.isEmpty && e.2.sxWalks.isEmpty) then s
  else
    let live := s.parties.flatMap (fun (e : Nat × Party) => e.2.sxq.map (fun c => c.id)) ++
      s.cores.flatMap (fun (e : Nat × Core) => e.2.loops.map (fun x => x.2.cmd.id) ++ e.2.prefs.map (fun j => j.id))
    { s with cores := s.cores.map (fun (e : Nat × Core) => (e.1,
      { e.2 with sxMiss := e.2.sxMiss.filter (fun x => live.contains x.1), sxWalks := e.2.sxWalks.filter (fun x => live.contains x.1) })) }

/-- Holds that have ended in the cycle are over (R237, R241, R252). -/
def letGoAll (s : State) : State := s.waves.foldl (fun t (e : Nat × Wave) => t.modWave e.1 (fun w => w.letGo s e.1)) s

/-- The end of a cycle: what waits is tried again, the sets of the cores are brought up to date, and the waves that issue in the next cycle are chosen
(R14, R15, R395). -/
def nextCycle (s : State) : State :=
  let t1 := noteMisses (letGoAll (endCycle s)).dropWalks
  let t2 := t1.cores.foldl (fun t (e : Nat × Core) => fillPlace (countStall t e.1) e.1) t1
  let t3 : State := { t2 with cycle := t2.cycle + 1 }
  { t3 with turn := if t3.issuing then t3.cores.flatMap (fun (e : Nat × Core) => chosen t3 e.1) else [] }

/-- Between bundles: the tape chooses which due event comes next. 0, and an empty tape, stand for the first; n + 1 passes over the first n events
of the list, so that any due event can come next, and a number past the end stands for none: the cycle ends (Log 2). -/
def settleOrTick (s : State) : State :=
  let x := s.choose
  match firstDue x.2 ((dueEvents x.2).drop (x.1 - 1)) with
  | some t => t
  | none => nextCycle x.2

end Sys2Proof.Machine
end

