-- ==== Sys2Proof/Machine/Boot0.lean ====
section
/-!
DEFINITION. The placement that State.withFetchWord stands for (Log 7): what the driver, the loader and the placement leave when a program
of one wave has been brought to core 0 and is about to issue its first bundle.
-/
namespace Sys2Proof.Machine

/-- A function whose plan grants everything a party of one copy and matrix wave can hold. -/
def bareFunc : Func :=
  { entry := 0, edition := 0, width := 0, eager := true, launchable := true, scratchPages := 0,
    roles := [{ kind := 0, regs := 96, waves := 1 }], plan := [], wheel := 0, routes := [], carryV := [], carryS := [], carryA := [],
    segtab := [], bench := [], calleeWidths := [], translatable := true }

/-- Its launch, on interface 0, with stage 1 off and without a handler. -/
def bareLaunch : Launch :=
  { vi := 0, queue := 0, index := 0, words := [], func := bareFunc, handle := 1, edition := 0, textBase := 0, dataBase := 0, level := 0,
    roles := bareFunc.roles, stencil := 0, xs := 1, ys := 1, maxParties := 1, twin := false, tvec := 0, args := [], lright := false,
    wheelN := 0, wpkib := 32, tag := 0, released := [], retiring := [], timed := [], assigned := [(0, 0)], retired := [], routesT := [], scratch := 0, s1root := 0,
    s1on := false, asid := 0, start := 0, fault := none, cancelled := false, completed := false, seen := 0, dataBytes := 0, dataUnits := [],
    scratchUnits := [] }

/-- Its party, with all 32 banks, 16 buffers and 8 zones. -/
def bareParty : Party :=
  { launch := 0, core := 0, banks := (List.range 32).map (fun b => (b, b)), cbGrant := List.range 16, zoneGrant := List.range 8,
    matrix := true, cring := 0, held := [], sxq := [], sxWait := [], evc := 0, route := 0, routeReq := 4, phaseno := 0, tscratch := 0,
    gaOut := 0, gaDone := 0, drains := 0, taskx := 0, tasky := 0, wheel := [], waitSince := 0, waiting := false, firstBundle := none,
    waypoints := [], spkeep := false, phaseOver := false, resident := true, ended := false, lead := true, placedAt := 0, wslot := 0 }

/-- A wave as placement leaves it (Table 1.1, R348). -/
def bareWave : Wave :=
  { core := 0, rslot := 0, launch := 0, party := 0, num := 0, role := 0, width := 32, alloc := 96, v := [], g := [], s := [], a := [], k := [],
    exm := lanesBelow 32, exs := 0, rrb := 0, lc := 0, ec := 0, fpc := Config.fpcReset, ssig := 0, pc := 0, xfer := none, table := none,
    bracket := false, io := WaveIo.start, count := 0, hmode := false, hcount := 0, issued := 0, trap := TrapSt.reset, parked := none, cmds := [],
    inSet := true, age := 0, stalled := 0, pendSince := 0, hold := .none, evcHold := none, exited := false,
    atPhase := none, carried := false, unpub := 0, segEntry := true, seg := 0,
    segBundles := 0, rerun := .none, recovering := false, drained := false, twin := none, twinFails := 0, compared := 0, fwd := [],
    folds := [], escapes := [], trapDue := [], walkBad := none, errSeq := 0 }

/-- The translation of the first page, cached by core 0: the identity, with every permission. -/
def bareTlb : TlbEntry :=
  { vi := 0, asid := 0, s1 := false, own := false, vpage := 0, gpage := 0, ppage := 0, pkgsel := 0, r := true, w := true, x := true, atm := true }

/-- A bundle at the bytes of its number in the first page of HBM. -/
def State.putBundle (s : State) (n : Nat) (b : Bundle) : State := { s with home := Mem.writeN s.home (32 * n) (bytesOf 32 b.toNat) }

/-- The program of one wave, whose first bundle is given and whose next bundles are zero, about to issue it. -/
def State.placeBare (s : State) (b : Bundle) : State :=
  let t : State :=
    { s with
      launches := [(0, bareLaunch)]
      parties := [(0, bareParty)]
      waves := [(0, bareWave)]
      cores := [(0, { Core.reset with tlb := [bareTlb], running := some 0 })]
      mgmt := { s.mgmt with powered := true, stage := 4 }
      turn := [0]
      agenda := []
      nextId := s.nextId + 1
      cur := 0 }
  (List.range 128).foldl (fun u n => u.putBundle n 0) t |>.putBundle 0 b

end Sys2Proof.Machine
end

