-- ==== Sys2Proof/Machine/At.lean ====
section
/-!
DEFINITION. The triggers of AT (R155 to R159). What the home does stands in Machine/AtHome.lean.
-/
namespace Sys2Proof.Machine

/-- A trigger of AT (R155): it pushes one command, which AT_HOME_PERFORM performs. -/
def atTrigger (o : AtOp) (m : Mv) (aw : AtW) (sc : Scope) (ord : AOrd) (t : State) (w : Wave) : State :=
  let t1 := queuedTrigger m (.atm o aw sc ord) (withTargets .atomic false false false (atBytes aw)) t w
  noteWorld 3 t t1 w

/-- AT.ADD (Table 5.5). -/
def execAtAdd (m : Mv) (aw : AtW) (sc : Scope) (ord : AOrd) (s : State) : Host.Outcome State Fault Refusal :=
  runMove (.atAdd m aw sc ord) s (atTrigger .add m aw sc ord)

/-- AT.SUB (Table 5.5). -/
def execAtSub (m : Mv) (aw : AtW) (sc : Scope) (ord : AOrd) (s : State) : Host.Outcome State Fault Refusal :=
  runMove (.atSub m aw sc ord) s (atTrigger .sub m aw sc ord)

/-- AT.MIN (Table 5.5). -/
def execAtMin (m : Mv) (aw : AtW) (sc : Scope) (ord : AOrd) (s : State) : Host.Outcome State Fault Refusal :=
  runMove (.atMin m aw sc ord) s (atTrigger .min m aw sc ord)

/-- AT.MAX (Table 5.5). -/
def execAtMax (m : Mv) (aw : AtW) (sc : Scope) (ord : AOrd) (s : State) : Host.Outcome State Fault Refusal :=
  runMove (.atMax m aw sc ord) s (atTrigger .max m aw sc ord)

/-- AT.MINU (Table 5.5). -/
def execAtMinu (m : Mv) (aw : AtW) (sc : Scope) (ord : AOrd) (s : State) : Host.Outcome State Fault Refusal :=
  runMove (.atMinu m aw sc ord) s (atTrigger .minu m aw sc ord)

/-- AT.MAXU (Table 5.5). -/
def execAtMaxu (m : Mv) (aw : AtW) (sc : Scope) (ord : AOrd) (s : State) : Host.Outcome State Fault Refusal :=
  runMove (.atMaxu m aw sc ord) s (atTrigger .maxu m aw sc ord)

/-- AT.AND (Table 5.5). -/
def execAtAnd (m : Mv) (aw : AtW) (sc : Scope) (ord : AOrd) (s : State) : Host.Outcome State Fault Refusal :=
  runMove (.atAnd m aw sc ord) s (atTrigger .and m aw sc ord)

/-- AT.OR (Table 5.5). -/
def execAtOr (m : Mv) (aw : AtW) (sc : Scope) (ord : AOrd) (s : State) : Host.Outcome State Fault Refusal :=
  runMove (.atOr m aw sc ord) s (atTrigger .or m aw sc ord)

/-- AT.XOR (Table 5.5). -/
def execAtXor (m : Mv) (aw : AtW) (sc : Scope) (ord : AOrd) (s : State) : Host.Outcome State Fault Refusal :=
  runMove (.atXor m aw sc ord) s (atTrigger .xor m aw sc ord)

/-- AT.XCHG (Table 5.5). -/
def execAtXchg (m : Mv) (aw : AtW) (sc : Scope) (ord : AOrd) (s : State) : Host.Outcome State Fault Refusal :=
  runMove (.atXchg m aw sc ord) s (atTrigger .xchg m aw sc ord)

/-- AT.CAS (Table 5.5). -/
def execAtCas (m : Mv) (aw : AtW) (sc : Scope) (ord : AOrd) (s : State) : Host.Outcome State Fault Refusal :=
  runMove (.atCas m aw sc ord) s (atTrigger .cas m aw sc ord)

/-- AT.INC (Table 5.5). -/
def execAtInc (m : Mv) (aw : AtW) (sc : Scope) (ord : AOrd) (s : State) : Host.Outcome State Fault Refusal :=
  runMove (.atInc m aw sc ord) s (atTrigger .inc m aw sc ord)

/-- AT.FADD (Table 5.5). -/
def execAtFadd (m : Mv) (aw : AtW) (sc : Scope) (ord : AOrd) (s : State) : Host.Outcome State Fault Refusal :=
  runMove (.atFadd m aw sc ord) s (atTrigger .fadd m aw sc ord)

end Sys2Proof.Machine
end

