-- ==== Sys2Proof/Machine/Ba.lean ====
section
/-!
DEFINITION. The triggers of BA (R167 to R177). What the commands do stands in Machine/Perform.lean.
-/
namespace Sys2Proof.Machine

/-- A trigger of BA (R167): one command for the wave. -/
def baTrigger (o : BaOp) (cb : Nat) (m : Mv) (t : State) (w : Wave) : State := queuedTrigger m (.ba o cb) asIs t w

/-- BA.BINIT (R169). -/
def execBaBinit (m : Mv) (s : State) : Host.Outcome State Fault Refusal :=
  runMove (.baBinit m) s (baTrigger .binit 0 m)

/-- BA.ARRIVE (R170). -/
def execBaArrive (m : Mv) (s : State) : Host.Outcome State Fault Refusal :=
  runMove (.baArrive m) s (baTrigger .arrive 0 m)

/-- BA.WAIT (R171). -/
def execBaWait (m : Mv) (s : State) : Host.Outcome State Fault Refusal :=
  runMove (.baWait m) s (baTrigger .wait 0 m)

/-- BA.TEST (R172). -/
def execBaTest (m : Mv) (s : State) : Host.Outcome State Fault Refusal :=
  runMove (.baTest m) s (baTrigger .test 0 m)

/-- BA.PBAR (R173). -/
def execBaPbar (m : Mv) (s : State) : Host.Outcome State Fault Refusal :=
  runMove (.baPbar m) s (baTrigger .pbar 0 m)

/-- BA.CBINIT (R175). -/
def execBaCbinit (m : Mv) (cb : BitVec 4) (s : State) : Host.Outcome State Fault Refusal :=
  runMove (.baCbinit m cb) s (baTrigger .cbinit cb.toNat m)

/-- BA.CBRESV (R176). -/
def execBaCbresv (m : Mv) (cb : BitVec 4) (s : State) : Host.Outcome State Fault Refusal :=
  runMove (.baCbresv m cb) s (baTrigger .cbresv cb.toNat m)

/-- BA.CBFILL (R176). -/
def execBaCbfill (m : Mv) (cb : BitVec 4) (s : State) : Host.Outcome State Fault Refusal :=
  runMove (.baCbfill m cb) s (baTrigger .cbfill cb.toNat m)

/-- BA.CBTAKE (R176). -/
def execBaCbtake (m : Mv) (cb : BitVec 4) (s : State) : Host.Outcome State Fault Refusal :=
  runMove (.baCbtake m cb) s (baTrigger .cbtake cb.toNat m)

/-- BA.CBFREE (R176). -/
def execBaCbfree (m : Mv) (cb : BitVec 4) (s : State) : Host.Outcome State Fault Refusal :=
  runMove (.baCbfree m cb) s (baTrigger .cbfree cb.toNat m)

end Sys2Proof.Machine
end

