-- ==== Sys2Proof/Machine/Fm.lean ====
section
/-!
DEFINITION. FM0 and FM1 (R122 to R128).
-/
namespace Sys2Proof.Machine

/-- The floating context of lane L of a trigger: its FPC, and where its draws are taken (R35, R67). -/
def laneCtx (t : State) (w : Wave) (L : Nat) : FpCtx := FpCtx.mk' w.fpc w.clock t.slot L

/-- A trigger of FM0 or FM1: g gives an element from its number and the codes of A, B and C (R122). -/
def fmTrigger (u : Bool) (ty : ETy) (g : FpCtx → Nat → Nat → Nat → Nat → Nat) (m : Mv) (t : State) (w : Wave) : State :=
  laneTrigger (if u then .fm1 else .fm0) m
    (fun t w _ a b c L => fmLane ty (g (laneCtx t w L)) (laneAt a L) (laneAt b L) (laneAt c L)) t w

/-- A rounding operation of FM (R123). -/
def fmRound (op : FmOp) (u : Bool) (rm : Rm) (ty : ETy) (m : Mv) (t : State) (w : Wave) : State :=
  fmTrigger u ty (fun x e a b c => fmElem op (fmtOf ty) (Rm.mode rm w.fpc) x e a b c) m t w

/-- FM.FADD: A + B (R123, R124). -/
def execFmFadd (m : Mv) (u : Bool) (rm : Rm) (ty : ETy) (s : State) : Host.Outcome State Fault Refusal :=
  runMove (.fmFadd m u rm ty) s (fmRound .fadd u rm ty m)

/-- FM.FSUB: A − B (R123, R124). -/
def execFmFsub (m : Mv) (u : Bool) (rm : Rm) (ty : ETy) (s : State) : Host.Outcome State Fault Refusal :=
  runMove (.fmFsub m u rm ty) s (fmRound .fsub u rm ty m)

/-- FM.FMUL: A × B (R123, R124). -/
def execFmFmul (m : Mv) (u : Bool) (rm : Rm) (ty : ETy) (s : State) : Host.Outcome State Fault Refusal :=
  runMove (.fmFmul m u rm ty) s (fmRound .fmul u rm ty m)

/-- FM.FMA: A × B + C (R123, R124). -/
def execFmFma (m : Mv) (u : Bool) (rm : Rm) (ty : ETy) (s : State) : Host.Outcome State Fault Refusal :=
  runMove (.fmFma m u rm ty) s (fmRound .fma u rm ty m)

/-- FM.FNMA: C − A × B (R123, R124). -/
def execFmFnma (m : Mv) (u : Bool) (rm : Rm) (ty : ETy) (s : State) : Host.Outcome State Fault Refusal :=
  runMove (.fmFnma m u rm ty) s (fmRound .fnma u rm ty m)

/-- FM.FRINT: A rounded to an integral value (R123, R124). -/
def execFmFrint (m : Mv) (u : Bool) (rm : Rm) (ty : ETy) (s : State) : Host.Outcome State Fault Refusal :=
  runMove (.fmFrint m u rm ty) s (fmRound .frint u rm ty m)

/-- FM.FSCALE: A × 2^B (R123, R124). -/
def execFmFscale (m : Mv) (u : Bool) (rm : Rm) (ty : ETy) (s : State) : Host.Outcome State Fault Refusal :=
  runMove (.fmFscale m u rm ty) s (fmRound .fscale u rm ty m)

/-- FM.FMIN, the number preferred (R125). -/
def execFmFmin (m : Mv) (u : Bool) (ty : ETy) (s : State) : Host.Outcome State Fault Refusal :=
  runMove (.fmFmin m u ty) s (fmTrigger u ty (fun x _ a b _ => fminmaxElem false false (fmtOf ty) x a b) m)

/-- FM.FMAX, the number preferred (R125). -/
def execFmFmax (m : Mv) (u : Bool) (ty : ETy) (s : State) : Host.Outcome State Fault Refusal :=
  runMove (.fmFmax m u ty) s (fmTrigger u ty (fun x _ a b _ => fminmaxElem true false (fmtOf ty) x a b) m)

/-- FM.FMINP, NaN propagated (R125). -/
def execFmFminp (m : Mv) (u : Bool) (ty : ETy) (s : State) : Host.Outcome State Fault Refusal :=
  runMove (.fmFminp m u ty) s (fmTrigger u ty (fun x _ a b _ => fminmaxElem false true (fmtOf ty) x a b) m)

/-- FM.FMAXP, NaN propagated (R125). -/
def execFmFmaxp (m : Mv) (u : Bool) (ty : ETy) (s : State) : Host.Outcome State Fault Refusal :=
  runMove (.fmFmaxp m u ty) s (fmTrigger u ty (fun x _ a b _ => fminmaxElem true true (fmtOf ty) x a b) m)

/-- FM.FCMP: 1 or 0 (R126). -/
def execFmFcmp (m : Mv) (u : Bool) (c : FCond) (ty : ETy) (s : State) : Host.Outcome State Fault Refusal :=
  runMove (.fmFcmp m u c ty) s (fmTrigger u ty (fun x _ a b _ => fcmpElem c (fmtOf ty) x a b) m)

/-- FM.FCLASS: the class word (R127). -/
def execFmFclass (m : Mv) (u : Bool) (ty : ETy) (s : State) : Host.Outcome State Fault Refusal :=
  runMove (.fmFclass m u ty) s (fmTrigger u ty (fun x _ a _ _ => classWord (fmtOf ty) (x.code (fmtOf ty) a)) m)

/-- FM.FSGN: the sign cleared, changed or set (R128). -/
def execFmFsgn (m : Mv) (u : Bool) (o : SgnOp) (ty : ETy) (s : State) : Host.Outcome State Fault Refusal :=
  runMove (.fmFsgn m u o ty) s (fmTrigger u ty (fun x _ a _ _ => fsgnElem o (fmtOf ty) x a) m)

end Sys2Proof.Machine
end

