-- ==== Sys2Proof/Machine/ChCv.lean ====
section
/-!
DEFINITION. CH (R129, R130) and CV (R131 to R139).
-/
namespace Sys2Proof.Machine

/-- CH.CHAIN: three stages on FP32 elements (R129, R130). -/
def execChChain (m : Mv) (s1 : Stage) (s2 : Stage) (s3 : Stage) (s : State) : Host.Outcome State Fault Refusal :=
  runMove (.chChain m s1 s2 s3) s (laneTrigger .ch m (fun t w _ a b c L =>
    fmLane .f32 (chainElem s1 s2 s3 (laneCtx t w L)) (laneAt a L) (laneAt b L) (laneAt c L)))

/-- CV.CVT: conversion of elements, packing and scale extraction (R131 to R139). -/
def execCvCvt (m : Mv) (res : ETy) (src : ETy) (rm : Rm) (s : State) : Host.Outcome State Fault Refusal :=
  runMove (.cvCvt m res src rm) s (laneTrigger .cv m (fun t w _ a b c L =>
    cvtLane res src (Rm.mode rm w.fpc) (laneCtx t w L) (laneAt a L) (laneAt b L) (laneAt c L)))

end Sys2Proof.Machine
end

