-- ==== Sys2Proof/Machine/GaSf.lean ====
section
/-!
DEFINITION. The triggers of GA (R195 to R198) and SF (R217). What the commands do stands in Machine/Engines.lean.
-/
namespace Sys2Proof.Machine

/-- A trigger of GA (R195). -/
def gaTrigger (op : QOp) (m : Mv) (t : State) (w : Wave) : State := queuedTrigger m op asIs t w

/-- GA.GIDX (R196). -/
def execGaGidx (m : Mv) (s : State) : Host.Outcome State Fault Refusal :=
  runMove (.gaGidx m) s (gaTrigger .gaGidx m)

/-- GA.GROWS (R197). -/
def execGaGrows (m : Mv) (s : State) : Host.Outcome State Fault Refusal :=
  runMove (.gaGrows m) s (gaTrigger .gaGrows m)

/-- GA.GSTAT (R198). -/
def execGaGstat (m : Mv) (s : State) : Host.Outcome State Fault Refusal :=
  runMove (.gaGstat m) s (gaTrigger .gaGstat m)

/-- A trigger of SF (R217). -/
def sfTrigger (f : SfFn) (ty : ETy) (m : Mv) (t : State) (w : Wave) : State := queuedTrigger m (.sf f ty) asIs t w

/-- SF.EX2 (Table 6.13). -/
def execSfEx2 (m : Mv) (ty : ETy) (s : State) : Host.Outcome State Fault Refusal :=
  runMove (.sfEx2 m ty) s (sfTrigger .ex2 ty m)

/-- SF.LG2 (Table 6.13). -/
def execSfLg2 (m : Mv) (ty : ETy) (s : State) : Host.Outcome State Fault Refusal :=
  runMove (.sfLg2 m ty) s (sfTrigger .lg2 ty m)

/-- SF.RCP (Table 6.13). -/
def execSfRcp (m : Mv) (ty : ETy) (s : State) : Host.Outcome State Fault Refusal :=
  runMove (.sfRcp m ty) s (sfTrigger .rcp ty m)

/-- SF.RSQ (Table 6.13). -/
def execSfRsq (m : Mv) (ty : ETy) (s : State) : Host.Outcome State Fault Refusal :=
  runMove (.sfRsq m ty) s (sfTrigger .rsq ty m)

/-- SF.SQRT (Table 6.13). -/
def execSfSqrt (m : Mv) (ty : ETy) (s : State) : Host.Outcome State Fault Refusal :=
  runMove (.sfSqrt m ty) s (sfTrigger .sqrt ty m)

/-- SF.SINPI (Table 6.13). -/
def execSfSinpi (m : Mv) (ty : ETy) (s : State) : Host.Outcome State Fault Refusal :=
  runMove (.sfSinpi m ty) s (sfTrigger .sinpi ty m)

/-- SF.COSPI (Table 6.13). -/
def execSfCospi (m : Mv) (ty : ETy) (s : State) : Host.Outcome State Fault Refusal :=
  runMove (.sfCospi m ty) s (sfTrigger .cospi ty m)

/-- SF.TANH (Table 6.13). -/
def execSfTanh (m : Mv) (ty : ETy) (s : State) : Host.Outcome State Fault Refusal :=
  runMove (.sfTanh m ty) s (sfTrigger .tanh ty m)

/-- SF.ERF (Table 6.13). -/
def execSfErf (m : Mv) (ty : ETy) (s : State) : Host.Outcome State Fault Refusal :=
  runMove (.sfErf m ty) s (sfTrigger .erf ty m)

end Sys2Proof.Machine
end

