-- ==== Sys2Proof/Machine/Ia.lean ====
section
/-!
DEFINITION. IA0 and IA1 (R109 to R115).
-/
namespace Sys2Proof.Machine

/-- A trigger of IA0 or IA1 (R109, Table 4.2). -/
def iaTrigger (op : IaOp) (u : Bool) (ty : ETy) (m : Mv) (t : State) (w : Wave) : State :=
  laneTrigger (if u then .ia1 else .ia0) m (fun _ _ _ a b c L => iaLane op ty (laneAt a L) (laneAt b L) (laneAt c L)) t w

/-- ADD: A + B modulo 2^w (R113). -/
def execIaAdd (m : Mv) (u : Bool) (ty : ETy) (s : State) : Host.Outcome State Fault Refusal :=
  runMove (.iaAdd m u ty) s (iaTrigger .add u ty m)

/-- SUB: A − B modulo 2^w (R113). -/
def execIaSub (m : Mv) (u : Bool) (ty : ETy) (s : State) : Host.Outcome State Fault Refusal :=
  runMove (.iaSub m u ty) s (iaTrigger .sub u ty m)

/-- IA.ADDS: the saturated sum (Table 4.2). -/
def execIaAdds (m : Mv) (u : Bool) (ty : ETy) (s : State) : Host.Outcome State Fault Refusal :=
  runMove (.iaAdds m u ty) s (iaTrigger .adds u ty m)

/-- IA.SUBS: the saturated difference (Table 4.2). -/
def execIaSubs (m : Mv) (u : Bool) (ty : ETy) (s : State) : Host.Outcome State Fault Refusal :=
  runMove (.iaSubs m u ty) s (iaTrigger .subs u ty m)

/-- IA.NEG: −A modulo 2^w (Table 4.2). -/
def execIaNeg (m : Mv) (u : Bool) (ty : ETy) (s : State) : Host.Outcome State Fault Refusal :=
  runMove (.iaNeg m u ty) s (iaTrigger .neg u ty m)

/-- IA.NEGS: −A saturated (Table 4.2). -/
def execIaNegs (m : Mv) (u : Bool) (ty : ETy) (s : State) : Host.Outcome State Fault Refusal :=
  runMove (.iaNegs m u ty) s (iaTrigger .negs u ty m)

/-- IA.ABS: the magnitude modulo 2^w (Table 4.2). -/
def execIaAbs (m : Mv) (u : Bool) (ty : ETy) (s : State) : Host.Outcome State Fault Refusal :=
  runMove (.iaAbs m u ty) s (iaTrigger .abs u ty m)

/-- IA.ABSS: the magnitude saturated (Table 4.2). -/
def execIaAbss (m : Mv) (u : Bool) (ty : ETy) (s : State) : Host.Outcome State Fault Refusal :=
  runMove (.iaAbss m u ty) s (iaTrigger .abss u ty m)

/-- IA.MIN by signedness (Table 4.2). -/
def execIaMin (m : Mv) (u : Bool) (ty : ETy) (s : State) : Host.Outcome State Fault Refusal :=
  runMove (.iaMin m u ty) s (iaTrigger .min u ty m)

/-- IA.MAX by signedness (Table 4.2). -/
def execIaMax (m : Mv) (u : Bool) (ty : ETy) (s : State) : Host.Outcome State Fault Refusal :=
  runMove (.iaMax m u ty) s (iaTrigger .max u ty m)

/-- IA.AND (Table 4.2). -/
def execIaAnd (m : Mv) (u : Bool) (ty : ETy) (s : State) : Host.Outcome State Fault Refusal :=
  runMove (.iaAnd m u ty) s (iaTrigger .and u ty m)

/-- IA.OR (Table 4.2). -/
def execIaOr (m : Mv) (u : Bool) (ty : ETy) (s : State) : Host.Outcome State Fault Refusal :=
  runMove (.iaOr m u ty) s (iaTrigger .or u ty m)

/-- IA.XOR (Table 4.2). -/
def execIaXor (m : Mv) (u : Bool) (ty : ETy) (s : State) : Host.Outcome State Fault Refusal :=
  runMove (.iaXor m u ty) s (iaTrigger .xor u ty m)

/-- IA.ANDN: A and not B (Table 4.2). -/
def execIaAndn (m : Mv) (u : Bool) (ty : ETy) (s : State) : Host.Outcome State Fault Refusal :=
  runMove (.iaAndn m u ty) s (iaTrigger .andn u ty m)

/-- IA.NOT (Table 4.2). -/
def execIaNot (m : Mv) (u : Bool) (ty : ETy) (s : State) : Host.Outcome State Fault Refusal :=
  runMove (.iaNot m u ty) s (iaTrigger .not u ty m)

/-- IA.CMPEQ: 1 or 0 (Table 4.2). -/
def execIaCmpeq (m : Mv) (u : Bool) (ty : ETy) (s : State) : Host.Outcome State Fault Refusal :=
  runMove (.iaCmpeq m u ty) s (iaTrigger (.cmp .eq) u ty m)

/-- IA.CMPNE (Table 4.2). -/
def execIaCmpne (m : Mv) (u : Bool) (ty : ETy) (s : State) : Host.Outcome State Fault Refusal :=
  runMove (.iaCmpne m u ty) s (iaTrigger (.cmp .ne) u ty m)

/-- IA.CMPLT by signedness (Table 4.2). -/
def execIaCmplt (m : Mv) (u : Bool) (ty : ETy) (s : State) : Host.Outcome State Fault Refusal :=
  runMove (.iaCmplt m u ty) s (iaTrigger (.cmp .lt) u ty m)

/-- IA.CMPLE by signedness (Table 4.2). -/
def execIaCmple (m : Mv) (u : Bool) (ty : ETy) (s : State) : Host.Outcome State Fault Refusal :=
  runMove (.iaCmple m u ty) s (iaTrigger (.cmp .le) u ty m)

/-- IA.CMPGT by signedness (Table 4.2). -/
def execIaCmpgt (m : Mv) (u : Bool) (ty : ETy) (s : State) : Host.Outcome State Fault Refusal :=
  runMove (.iaCmpgt m u ty) s (iaTrigger (.cmp .gt) u ty m)

/-- IA.CMPGE by signedness (Table 4.2). -/
def execIaCmpge (m : Mv) (u : Bool) (ty : ETy) (s : State) : Host.Outcome State Fault Refusal :=
  runMove (.iaCmpge m u ty) s (iaTrigger (.cmp .ge) u ty m)

/-- IA.SEL: A where C is not 0, else B (Table 4.2). -/
def execIaSel (m : Mv) (u : Bool) (ty : ETy) (s : State) : Host.Outcome State Fault Refusal :=
  runMove (.iaSel m u ty) s (iaTrigger .sel u ty m)

/-- IA.CLZ (Table 4.2). -/
def execIaClz (m : Mv) (u : Bool) (ty : ETy) (s : State) : Host.Outcome State Fault Refusal :=
  runMove (.iaClz m u ty) s (iaTrigger .clz u ty m)

/-- IA.POPC (Table 4.2). -/
def execIaPopc (m : Mv) (u : Bool) (ty : ETy) (s : State) : Host.Outcome State Fault Refusal :=
  runMove (.iaPopc m u ty) s (iaTrigger .popc u ty m)

/-- IA.BREV (Table 4.2). -/
def execIaBrev (m : Mv) (u : Bool) (ty : ETy) (s : State) : Host.Outcome State Fault Refusal :=
  runMove (.iaBrev m u ty) s (iaTrigger .brev u ty m)

/-- IA.AVG: the rounded-up mean (Table 4.2). -/
def execIaAvg (m : Mv) (u : Bool) (ty : ETy) (s : State) : Host.Outcome State Fault Refusal :=
  runMove (.iaAvg m u ty) s (iaTrigger .avg u ty m)

/-- IA.ADC: the sum with carry, or its carry out for a .s type (R115) (Table 4.2). -/
def execIaAdc (m : Mv) (u : Bool) (ty : ETy) (s : State) : Host.Outcome State Fault Refusal :=
  runMove (.iaAdc m u ty) s (iaTrigger .adc u ty m)

/-- IA.SBB: the difference with borrow, or its borrow out for a .s type (R115) (Table 4.2). -/
def execIaSbb (m : Mv) (u : Bool) (ty : ETy) (s : State) : Host.Outcome State Fault Refusal :=
  runMove (.iaSbb m u ty) s (iaTrigger .sbb u ty m)

end Sys2Proof.Machine
end

