-- ==== Sys2Proof/Machine/Lg.lean ====
section
/-!
DEFINITION. The triggers of LG (R160 to R166). What the commands do stands in Machine/Perform.lean.
-/
namespace Sys2Proof.Machine

/-- A trigger of LG (R160). LOGST is performed at its push (R166). -/
def lgTrigger (op : QOp) (m : Mv) (t : State) (w : Wave) : State :=
  let t1 := queuedTrigger m op asIs t w
  match op, t1.cur?.bind (fun v => v.cmds.getLast?) with
  | .logst, some c => if c.id = t.nextId && !w.trails then (performLg t1 c).getD t1 else t1
  | _, _ => t1

/-- LG.PUB (R162). -/
def execLgPub (m : Mv) (sc : Scope) (s : State) : Host.Outcome State Fault Refusal :=
  runMove (.lgPub m sc) s (lgTrigger (.pub sc) m)

/-- LG.ACQ (R163). -/
def execLgAcq (m : Mv) (sc : Scope) (s : State) : Host.Outcome State Fault Refusal :=
  runMove (.lgAcq m sc) s (lgTrigger (.acq sc) m)

/-- LG.ACQN (R164). -/
def execLgAcqn (m : Mv) (sc : Scope) (s : State) : Host.Outcome State Fault Refusal :=
  runMove (.lgAcqn m sc) s (lgTrigger (.acqn sc) m)

/-- LG.DRAIN (R165). -/
def execLgDrain (m : Mv) (s : State) : Host.Outcome State Fault Refusal :=
  runMove (.lgDrain m) s (lgTrigger .drain m)

/-- LG.LOGST (R166). -/
def execLgLogst (m : Mv) (s : State) : Host.Outcome State Fault Refusal :=
  runMove (.lgLogst m) s (lgTrigger .logst m)

end Sys2Proof.Machine
end

