-- ==== Sys2Proof/Machine/Ml.lean ====
section
/-!
DEFINITION. ML (R116 to R118).
-/
namespace Sys2Proof.Machine

/-- A trigger of ML (Table 4.3). -/
def mlTrigger (op : MlOp) (ty : ETy) (m : Mv) (t : State) (w : Wave) : State :=
  laneTrigger .ml m (fun _ _ _ a b c L => mlLane op ty (laneAt a L) (laneAt b L) (laneAt c L)) t w

/-- ML.MUL: the low half of the product (R116, R117). -/
def execMlMul (m : Mv) (ty : ETy) (s : State) : Host.Outcome State Fault Refusal :=
  runMove (.mlMul m ty) s (mlTrigger .mul ty m)

/-- ML.MULHI: the high half of the product (R116, R117). -/
def execMlMulhi (m : Mv) (ty : ETy) (s : State) : Host.Outcome State Fault Refusal :=
  runMove (.mlMulhi m ty) s (mlTrigger .mulhi ty m)

/-- ML.MAD: A × B + C (R116, R117). -/
def execMlMad (m : Mv) (ty : ETy) (s : State) : Host.Outcome State Fault Refusal :=
  runMove (.mlMad m ty) s (mlTrigger .mad ty m)

/-- ML.MADW: the product of the even elements plus a wide C (R116, R117). -/
def execMlMadw (m : Mv) (ty : ETy) (s : State) : Host.Outcome State Fault Refusal :=
  runMove (.mlMadw m ty) s (mlTrigger .madw ty m)

/-- ML.DOT4: four products added to a 32-bit C (R116, R117). -/
def execMlDot4 (m : Mv) (ty : ETy) (s : State) : Host.Outcome State Fault Refusal :=
  runMove (.mlDot4 m ty) s (mlTrigger .dot4 ty m)

end Sys2Proof.Machine
end

