-- ==== Sys2Proof/Machine/Mx.lean ====
section
/-!
DEFINITION. The triggers of MX (R182 to R194). What the commands do stands in Machine/Engines.lean.
-/
namespace Sys2Proof.Machine

/-- A trigger of MX (R183): one command of the core's queue. -/
def mxTrigger (op : QOp) (m : Mv) (t : State) (w : Wave) : State := queuedTrigger m op asIs t w

/-- MX.CFG (R184). -/
def execMxCfg (m : Mv) (s : State) : Host.Outcome State Fault Refusal :=
  runMove (.mxCfg m) s (mxTrigger .mxCfg m)

/-- MX.LDB (R186). -/
def execMxLdb (m : Mv) (bl : BitVec 2) (s : State) : Host.Outcome State Fault Refusal :=
  runMove (.mxLdb m bl) s (mxTrigger (.mxLdb bl.toNat) m)

/-- MX.MMQ (R188). -/
def execMxMmq (m : Mv) (bl : BitVec 2) (acc : BitVec 4) (s : State) : Host.Outcome State Fault Refusal :=
  runMove (.mxMmq m bl acc) s (mxTrigger (.mxMmq bl.toNat acc.toNat) m)

/-- MX.MMW (R188). -/
def execMxMmw (m : Mv) (bl : BitVec 2) (acc : BitVec 4) (s : State) : Host.Outcome State Fault Refusal :=
  runMove (.mxMmw m bl acc) s (mxTrigger (.mxMmw bl.toNat acc.toNat) m)

/-- MX.ZACC (R190). -/
def execMxZacc (m : Mv) (acc : BitVec 4) (s : State) : Host.Outcome State Fault Refusal :=
  runMove (.mxZacc m acc) s (mxTrigger (.mxZacc acc.toNat) m)

/-- MX.STACC (R191). -/
def execMxStacc (m : Mv) (acc : BitVec 4) (s : State) : Host.Outcome State Fault Refusal :=
  runMove (.mxStacc m acc) s (mxTrigger (.mxStacc acc.toNat) m)

/-- MX.RDACC (R192). -/
def execMxRdacc (m : Mv) (acc : BitVec 4) (s : State) : Host.Outcome State Fault Refusal :=
  runMove (.mxRdacc m acc) s (mxTrigger (.mxRdacc acc.toNat) m)

/-- MX.KAT (R193). -/
def execMxKat (m : Mv) (s : State) : Host.Outcome State Fault Refusal :=
  runMove (.mxKat m) s (mxTrigger .mxKat m)

/-- MX.QSTAT (R194). -/
def execMxQstat (m : Mv) (s : State) : Host.Outcome State Fault Refusal :=
  runMove (.mxQstat m) s (mxTrigger .mxQstat m)

end Sys2Proof.Machine
end

