-- ==== Sys2Proof/Machine/Sa.lean ====
section
/-!
DEFINITION. SA, the wave-scalar ALU (R221 to R226).
-/
namespace Sys2Proof.Machine

/-- A higher slot of the bundle triggers the same scalar unit (R222). -/
def scalarLater (t : State) (w : Wave) (u : PortUnit) : Bool :=
  (enum t.ib.moves).any (fun e => decide (t.slot < e.1) && (match e.2 with
    | some i => unitOf i == some u && (match moveOf i with
      | some m => (scalarOp t w e.1 m).isSome
      | none => false)
    | none => false))

/-- A value enters SA.r or SY.r: every lane of the port shows it after the unit's bound (R29). -/
def landScalar (t : State) (w : Wave) (u : PortUnit) (x : Word) : State :=
  landResult t w u (lanesBelow w.phys) (sameLanes w.phys (x.zeroExtend 128))

/-- A trigger of SA (R221 to R224): operand A, which the move also leaves in latch a, and the b latch. -/
def saTrigger (op : SaOp) (m : Mv) (t : State) (w : Wave) : State :=
  let t1 := popSrc t w m
  match scalarOp t w t.slot m with
  | none => t1
  | some a =>
    if scalarLater t w .sa then t1
    else landScalar (t1.modWave t1.cur (fun v => { v with io := v.io.setSlatch .sa .a a })) w .sa (saResult op a (slatchB t1 .sa))

/-- SA.ADD (Table 7.1). -/
def execSaAdd (m : Mv) (s : State) : Host.Outcome State Fault Refusal :=
  runMove (.saAdd m) s (saTrigger .add m)

/-- SA.SUB (Table 7.1). -/
def execSaSub (m : Mv) (s : State) : Host.Outcome State Fault Refusal :=
  runMove (.saSub m) s (saTrigger .sub m)

/-- SA.AND (Table 7.1). -/
def execSaAnd (m : Mv) (s : State) : Host.Outcome State Fault Refusal :=
  runMove (.saAnd m) s (saTrigger .and m)

/-- SA.OR (Table 7.1). -/
def execSaOr (m : Mv) (s : State) : Host.Outcome State Fault Refusal :=
  runMove (.saOr m) s (saTrigger .or m)

/-- SA.XOR (Table 7.1). -/
def execSaXor (m : Mv) (s : State) : Host.Outcome State Fault Refusal :=
  runMove (.saXor m) s (saTrigger .xor m)

/-- SA.SHL (Table 7.1). -/
def execSaShl (m : Mv) (s : State) : Host.Outcome State Fault Refusal :=
  runMove (.saShl m) s (saTrigger .shl m)

/-- SA.SHR (Table 7.1). -/
def execSaShr (m : Mv) (s : State) : Host.Outcome State Fault Refusal :=
  runMove (.saShr m) s (saTrigger .shr m)

/-- SA.SAR (Table 7.1). -/
def execSaSar (m : Mv) (s : State) : Host.Outcome State Fault Refusal :=
  runMove (.saSar m) s (saTrigger .sar m)

/-- SA.MUL (Table 7.1). -/
def execSaMul (m : Mv) (s : State) : Host.Outcome State Fault Refusal :=
  runMove (.saMul m) s (saTrigger .mul m)

/-- SA.CMP: 1 or 0 (R224). -/
def execSaCmp (m : Mv) (uns : Bool) (c : SCond) (s : State) : Host.Outcome State Fault Refusal :=
  runMove (.saCmp m uns c) s (saTrigger (.cmp uns c) m)

/-- SA.MOV (Table 7.1). -/
def execSaMov (m : Mv) (s : State) : Host.Outcome State Fault Refusal :=
  runMove (.saMov m) s (saTrigger .mov m)

/-- SA.LI: bits 63:24 from A, 23:0 from B (R225). -/
def execSaLi (m : Mv) (s : State) : Host.Outcome State Fault Refusal :=
  runMove (.saLi m) s (saTrigger .li m)

/-- SA.MIN (Table 7.1). -/
def execSaMin (m : Mv) (uns : Bool) (s : State) : Host.Outcome State Fault Refusal :=
  runMove (.saMin m uns) s (saTrigger (.min uns) m)

/-- SA.MAX (Table 7.1). -/
def execSaMax (m : Mv) (uns : Bool) (s : State) : Host.Outcome State Fault Refusal :=
  runMove (.saMax m uns) s (saTrigger (.max uns) m)

end Sys2Proof.Machine
end

