-- ==== Sys2Proof/Machine/Sh.lean ====
section
/-!
DEFINITION. SH (R119 to R121).
-/
namespace Sys2Proof.Machine

/-- A trigger of SH (Table 4.5). -/
def shTrigger (op : ShOp) (ty : ETy) (m : Mv) (t : State) (w : Wave) : State :=
  laneTrigger .sh m (fun _ _ _ a b c L => shLane op ty (laneAt a L) (laneAt b L) (laneAt c L)) t w

/-- SH.SHL (R119 to R121). -/
def execShShl (m : Mv) (ty : ETy) (s : State) : Host.Outcome State Fault Refusal :=
  runMove (.shShl m ty) s (shTrigger .shl ty m)

/-- SH.SHR, zeros entering (R119 to R121). -/
def execShShr (m : Mv) (ty : ETy) (s : State) : Host.Outcome State Fault Refusal :=
  runMove (.shShr m ty) s (shTrigger .shr ty m)

/-- SH.SAR, the sign entering (R119 to R121). -/
def execShSar (m : Mv) (ty : ETy) (s : State) : Host.Outcome State Fault Refusal :=
  runMove (.shSar m ty) s (shTrigger .sar ty m)

/-- SH.ROL (R119 to R121). -/
def execShRol (m : Mv) (ty : ETy) (s : State) : Host.Outcome State Fault Refusal :=
  runMove (.shRol m ty) s (shTrigger .rol ty m)

/-- SH.ROR (R119 to R121). -/
def execShRor (m : Mv) (ty : ETy) (s : State) : Host.Outcome State Fault Refusal :=
  runMove (.shRor m ty) s (shTrigger .ror ty m)

/-- SH.BFE: a field taken out (R119 to R121). -/
def execShBfe (m : Mv) (ty : ETy) (s : State) : Host.Outcome State Fault Refusal :=
  runMove (.shBfe m ty) s (shTrigger .bfe ty m)

/-- SH.BFI: a field put in (R119 to R121). -/
def execShBfi (m : Mv) (ty : ETy) (s : State) : Host.Outcome State Fault Refusal :=
  runMove (.shBfi m ty) s (shTrigger .bfi ty m)

/-- SH.FUNL: a funnel shift (R119 to R121). -/
def execShFunl (m : Mv) (ty : ETy) (s : State) : Host.Outcome State Fault Refusal :=
  runMove (.shFunl m ty) s (shTrigger .funl ty m)

/-- SH.PERM: bytes chosen by C (R119 to R121). -/
def execShPerm (m : Mv) (ty : ETy) (s : State) : Host.Outcome State Fault Refusal :=
  runMove (.shPerm m ty) s (shTrigger .perm ty m)

end Sys2Proof.Machine
end

