-- ==== Sys2Proof/Machine/Sy.lean ====
section
/-!
DEFINITION. SY, machine state (R244 to R254, R237, R241).
-/
namespace Sys2Proof.Machine

/-! Traps (R245, R246). -/

/-- SY.TRAP: its bundle ends, and SW_TRAP is raised (R244, R245). -/
def swTrap (t : State) (_ : Wave) (a : Word) : State :=
  let u := advance t
  takeTrap u u.cur { cause := causeSw, slot := t.slot, lane := 0, addr := 0, code := bits a.toNat 31 0 }

/-- SY.TRAP (R245). -/
def execSyTrap (m : Mv) (s : State) : Host.Outcome State Fault Refusal := runMove (.syTrap m) s (scalarTrigger .sy m swTrap)

/-- SY.RETT (R246). -/
def execSyRett (m : Mv) (s : State) : Host.Outcome State Fault Refusal :=
  runMove (.syRett m) s (scalarTrigger .sy m (fun t _ _ => (advance t).modCur Wave.rett))

/-! Control and status registers (Table 7.4). -/

/-- Bits of ECAUSE and EPEND that are not RO (Tables 7.5 and 7.6). -/
def ecauseMask : Word := 0xFFFFFFFF003F07FF#64
def ependMask : Word := 0xFFFFFFFFFFFFFF07#64

/-- SPBANKS: the party's logical banks. -/
def Party.spbanks (p : Party) : Word :=
  BitVec.ofNat 64 ((List.range 32).foldl (fun acc b => if (Tab.get? p.banks b).isSome then acc + 2 ^ b else acc) 0)

/-- The value of a CSR. -/
def csrRead (s : State) (w : Wave) (n : Nat) : Word :=
  let party := fun (f : Party → Word) => match s.party? w.party with
    | some p => f p
    | none => 0
  let launch := fun (f : Launch → Word) => match s.launch? w.launch with
    | some l => f l
    | none => 0
  if n = 0x000 then launch (fun l => l.tvec.zeroExtend 64)
  else if n = 0x001 then (if w.hmode then 1 else 0)
  else if n = 0x002 then party (fun p => p.tscratch)
  else if n = 0x010 then w.trap.epc.zeroExtend 64
  else if n = 0x011 then w.trap.ecause
  else if n = 0x012 then w.trap.eaddr
  else if n = 0x013 then w.trap.epend
  else if n = 0x014 then w.trap.eexm
  else if n = 0x015 then w.trap.eexs
  else if n = 0x016 then (if w.trap.eflag then 1 else 0)
  else if n = 0x017 then w.trap.errb.zeroExtend 64
  else if n = 0x018 then w.trap.elc
  else if n = 0x019 then w.trap.eec
  else if n = 0x01A then w.trap.efpc
  else if n = 0x01B then w.trap.essig
  else if n = 0x020 then party (fun p => p.cring)
  else if n = 0x021 then party (fun p => p.evc.zeroExtend 64)
  else if n = 0x022 then
    party (fun p => BitVec.ofNat 64 (p.route % 4)) ||| launch (fun l => if l.func.routes.isEmpty then 0 else 4)
  else if n = 0x023 then party Party.spbanks
  else if n = 0x024 then party (fun p => BitVec.ofNat 64 p.phaseno)
  else if n = 0x030 then BitVec.ofNat 64 s.cycle
  else 0

/-- What a write of CRING leaves (R200): HEAD and TAIL zero; a ring that is not one, or lies outside the party's banks, has LOG2N 0. DESIGN CHOICE
(Log 117): so has a ring whose BASE is not a multiple of 32, for which the rule gives no outcome. -/
def cringWrite (p : Party) (x : Word) : Word :=
  let n := cringLog x
  let b := cringBase x
  let ok := decide (2 ≤ n) && decide (n ≤ 8) && b % 32 == 0 && p.spadOk b (32 * 2 ^ n)
  cringPack 0 0 (if ok then n else 0) b

/-- A CSR written (Table 7.4); a register that is RO keeps its value. -/
def csrWrite (s : State) (key : Nat) (n : Nat) (x : Word) : State :=
  let trap := fun (f : TrapSt → TrapSt) => s.modWave key (fun w => { w with trap := f w.trap })
  let party := fun (f : Party → Party) => match s.wave? key with
    | some w => s.modParty w.party f
    | none => s
  if n = 0x002 then party (fun p => { p with tscratch := x })
  else if n = 0x010 then trap (fun t => { t with epc := x.truncate 56 })
  else if n = 0x011 then trap (fun t => { t with ecause := x &&& ecauseMask })
  else if n = 0x012 then trap (fun t => { t with eaddr := x })
  else if n = 0x013 then trap (fun t => { t with epend := x &&& ependMask })
  else if n = 0x014 then trap (fun t => { t with eexm := x })
  else if n = 0x015 then trap (fun t => { t with eexs := x })
  else if n = 0x016 then trap (fun t => { t with eflag := x.getLsbD 0 })
  else if n = 0x017 then trap (fun t => { t with errb := x.truncate 5 })
  else if n = 0x018 then trap (fun t => { t with elc := x })
  else if n = 0x019 then trap (fun t => { t with eec := x })
  else if n = 0x01A then trap (fun t => { t with efpc := fpcWrite t.efpc x })
  else if n = 0x01B then trap (fun t => { t with essig := x })
  else if n = 0x020 then party (fun p => { p with cring := cringWrite p x })
  else s

/-- A value that depends on the core or on time: a trailing twin takes its leader's, a leader forwards it (R319). -/
def twinValue (t : State) (w : Wave) (x : Word) : Word × State :=
  let kind := fwdKind PortUnit.sy.code w.issued t.slot 0
  if w.trails then
    match w.fwd.find? (fun f => f.kind == kind) with
    | some f => ((laneAt f.vals 0).truncate 64, t.modCur (fun v => { v with fwd := v.fwd.filter (fun y => y.kind != kind) }))
    | none => (x, t)
  else (x, t.forward t.cur kind w.seg (lanesBelow w.phys) [x.zeroExtend 128])

/-- CSRs whose reads a trailing twin takes from its leader (R319). -/
def csrTimed (n : Nat) : Bool := n == 0x030 || n == 0x021 || n == 0x024

/-- A CSR operation (R247): what it writes, if it does, from the old value and the b latch; SY.r takes the old value. -/
def csrTrigger (f : Word → Word → Option Word) (t : State) (w : Wave) (a : Word) : State :=
  let n := bits a.toNat 11 0
  let old := csrRead t w n
  let b := slatchB t .sy
  let r := if csrTimed n && (f old b).isNone then twinValue t w old else (old, t)
  let t1 := match f old b with
    | some x => csrWrite r.2 r.2.cur n x
    | none => r.2
  landScalar t1 w .sy r.1

/-- SY.CSRR (R247). -/
def execSyCsrr (m : Mv) (s : State) : Host.Outcome State Fault Refusal :=
  runMove (.syCsrr m) s (scalarTrigger .sy m (csrTrigger (fun _ _ => none)))

/-- SY.CSRW (R247). -/
def execSyCsrw (m : Mv) (s : State) : Host.Outcome State Fault Refusal :=
  runMove (.syCsrw m) s (scalarTrigger .sy m (csrTrigger (fun _ b => some b)))

/-- SY.CSRS (R247). -/
def execSyCsrs (m : Mv) (s : State) : Host.Outcome State Fault Refusal :=
  runMove (.syCsrs m) s (scalarTrigger .sy m (csrTrigger (fun old b => some (old ||| b))))

/-- SY.CSRC (R247). -/
def execSyCsrc (m : Mv) (s : State) : Host.Outcome State Fault Refusal :=
  runMove (.syCsrc m) s (scalarTrigger .sy m (csrTrigger (fun old b => some (old &&& ~~~ b))))

/-! Code and prefetch (R250, R251). -/

/-- The cached bundle of a tag lies in a byte range of an address space. -/
def cacheHit (l : Launch) (from' len key : Nat) : Bool :=
  let va := 32 * (key % 2 ^ 56)
  key / 2 ^ 56 % 2 ^ 24 == l.vi * 2 ^ 16 + l.asid && decide (va < from' + len) && decide (from' < va + 32)

/-- SY.ICINV: the bundles of a range leave the core's code cache. -/
def invalidateCode (t : State) (w : Wave) (a : Word) : State :=
  let len := bits (slatchB t .sy).toNat 31 0
  match t.launch? w.launch with
  | none => t
  | some l =>
    if len = 0 then t
    else t.modCore w.core (fun c => { c with icache := c.icache.filter (fun e => !cacheHit l a.toNat len e.1) })

/-- SY.ICINV (R250). -/
def execSyIcinv (m : Mv) (s : State) : Host.Outcome State Fault Refusal := runMove (.syIcinv m) s (scalarTrigger .sy m invalidateCode)

/-- SY.FBAR: the model fetches no bundle before it issues, so none is discarded (R250). -/
def execSyFbar (m : Mv) (s : State) : Host.Outcome State Fault Refusal := runMove (.syFbar m) s (scalarTrigger .sy m (fun t _ _ => t))

/-- SY.PREF (R251): the lines are requested, with what that shows in the counters (R397), the TLBs (R370) and the field book (R363); no value that a load
observes changes, and no fault is raised. DESIGN CHOICE (Log 119): which lines a cache holds is not modelled, so both levels do the same. -/
def execSyPref (m : Mv) (l2 : Bool) (s : State) : Host.Outcome State Fault Refusal := runMove (.syPref m l2) s (scalarTrigger .sy m startPref)

/-! Launches (R253). -/

/-- SY.LAUNCH: the wave is held until its packet is accepted or refused; a trailing twin takes its leader's answer. -/
def launchTrigger (t : State) (w : Wave) (a : Word) : State :=
  let q := bits (slatchB t .sy).toNat 11 0
  let t1 := t.modCur (fun v => { v with hold := .launch a.toNat q t.slot w.clock w.issued false })
  tryLaunch t1 t1.cur

/-- SY.LAUNCH (R253). -/
def execSyLaunch (m : Mv) (s : State) : Host.Outcome State Fault Refusal := runMove (.syLaunch m) s (scalarTrigger .sy m launchTrigger)

/-! Waits (R237, R241, R252). -/

/-- SY.SLEEP: the wave leaves the active set until its hold ends. -/
def sleepTrigger (t : State) (w : Wave) (a : Word) : State :=
  let n := bits a.toNat 31 0
  let ev := a.getLsbD 32
  if n = 0 ∧ !ev then t
  else
    let evc := match t.party? w.party with
      | some p => p.evc
      | none => 0
    let h := Hold.sleep (t.cycle + n) (if ev then some evc else none) (n != 0)
    (t.modCur (fun v => { v with hold := h })).leaveSet t.cur

/-- SY.SLEEP (R241). -/
def execSySleep (m : Mv) (s : State) : Host.Outcome State Fault Refusal := runMove (.sySleep m) s (scalarTrigger .sy m sleepTrigger)

/-- SY.QFENCE (R252): the commands pushed so far, those of its own bundle among them, hold the next bundle. -/
def execSyQfence (m : Mv) (s : State) : Host.Outcome State Fault Refusal :=
  runMove (.syQfence m) s (scalarTrigger .sy m (fun t _ a => t.modCur (fun v => { v with hold := .qfence (bits a.toNat 8 0) t.nextId })))

/-- SY.RDV: a hold while a named partner is in recovery; without one it has no effect. -/
def rdvTrigger (t : State) (w : Wave) (a : Word) : State :=
  let mask := bits a.toNat 15 0
  if t.partnersRecover w t.cur mask then t.modCur (fun v => { v with hold := .rdv mask }) else t

/-- SY.RDV (R237). -/
def execSyRdv (m : Mv) (s : State) : Host.Outcome State Fault Refusal := runMove (.syRdv m) s (scalarTrigger .sy m rdvTrigger)

/-! The wheel (R254). -/

/-- SY.WHEELQ (R254). -/
def wheelTrigger (t : State) (w : Wave) (a : Word) : State :=
  let x := wheelWord (if a.getLsbD 0 then t.cycle + t.toNextPos w.core else t.cycle)
  let r := twinValue t w x
  landScalar r.2 w .sy r.1

/-- SY.WHEELQ (R254). -/
def execSyWheelq (m : Mv) (s : State) : Host.Outcome State Fault Refusal := runMove (.syWheelq m) s (scalarTrigger .sy m wheelTrigger)

end Sys2Proof.Machine
end

