-- ==== Sys2Proof/Machine/Cross.lean ====
section
/-!
DEFINITION. What XS computes across the lanes of a wave (R72, R73, R218 to R220).
-/
namespace Sys2Proof.Machine

/-- The node of the tree of R72 that covers 2^k lanes from base: leaf gives the present lanes, comb combines a left and a
right value, told the lowest lane the right one covers. -/
def treeNode (leaf : Nat → Option Nat) (comb : Nat → Nat → Nat → Nat) : Nat → Nat → Option Nat
  | 0, base => leaf base
  | k + 1, base =>
    match treeNode leaf comb k base, treeNode leaf comb k (base + 2 ^ k) with
    | some l, some r => some (comb (base + 2 ^ k) l r)
    | some l, none => some l
    | none, r => r

/-- The blocks of a prefix of n lanes, largest first, from level k down: level and first lane (R73). -/
def prefixBlocks : Nat → Nat → Nat → List (Nat × Nat)
  | 0, n, base => if n % 2 = 1 then [(0, base)] else []
  | k + 1, n, base =>
    if n.testBit (k + 1) then (k + 1, base) :: prefixBlocks k n (base + 2 ^ (k + 1)) else prefixBlocks k n base

/-- The value of lane L of a scan (R73). -/
def scanAt (leaf : Nat → Option Nat) (comb : Nat → Nat → Nat → Nat) (L : Nat) : Option Nat :=
  (prefixBlocks 6 (L + 1) 0).foldl (fun acc b =>
    match acc, treeNode leaf comb b.1 b.2 with
    | some l, some r => some (comb b.2 l r)
    | some l, none => some l
    | none, r => r) none

/-- Reductions and scans of XS. -/
inductive XsRed
  | add | max | min
  deriving DecidableEq, Repr

/-- One combination of a reduction on codes of a type (R220). -/
def xsComb (red : XsRed) (ty : ETy) (fpc : Word) (t slot e lane l r : Nat) : Nat :=
  let f := fmtOf ty
  let x := FpCtx.mk' fpc t slot lane
  if ty.inF then
    match red with
    | .add => x.round f ((f.value l).add (f.value r) (fpcRm fpc)) (fpcRm fpc) e
    | .max => x.flush f (minmaxCode f true false l r)
    | .min => x.flush f (minmaxCode f false false l r)
  else
    match red with
    | .add => (l + r) % 2 ^ ETy.width ty
    | .max => if ETy.read ty l ≤ ETy.read ty r then r else l
    | .min => if ETy.read ty l ≤ ETy.read ty r then l else r

/-- Element e of a lane as a reduction reads it: present when active, after FIN for a floating type. -/
def xsLeaf (ty : ETy) (fpc : Word) (act : BitVec 64) (a : List Lane) (e L : Nat) : Option Nat :=
  if act.getLsbD L then
    let c := elem (ETy.width ty) (laneAt a L) e
    some (if ty.inF then (fmtOf ty).afterFin (fpcFin fpc) c else c)
  else none

/-- A floating NaN is written canonical (R51). -/
def canonNan (ty : ETy) (c : Nat) : Nat :=
  if ty.inF && ((fmtOf ty).value c).isNan then (fmtOf ty).nan else c

/-- Levels of the tree over the width. -/
def treeDepth (width : Nat) : Nat := width.log2

/-- A reduction over the active lanes: the value every active lane receives. -/
def xsReduce (red : XsRed) (ty : ETy) (fpc : Word) (t slot width : Nat) (act : BitVec 64) (a : List Lane) : Lane :=
  mapElems (ETy.width ty) (fun e => canonNan ty
    ((treeNode (xsLeaf ty fpc act a e) (xsComb red ty fpc t slot e) (treeDepth width) 0).getD 0))

/-- A scan: the value lane L receives. -/
def xsScan (ty : ETy) (fpc : Word) (t slot : Nat) (act : BitVec 64) (a : List Lane) (L : Nat) : Lane :=
  mapElems (ETy.width ty) (fun e => canonNan ty
    ((scanAt (xsLeaf ty fpc act a e) (xsComb .add ty fpc t slot e) L).getD 0))

/-- Operations of XS (Table 6.14). -/
inductive XsOp
  | shfl | shflup | shfldn | shflx | bcast | voteany | voteall | ballot
  | red (r : XsRed)
  | scanadd
  | matchOp
  deriving DecidableEq, Repr

/-- The result of lane L (Table 6.14): a and b are the source and the b latch of every lane, act the active lanes. -/
def xsLane (op : XsOp) (ty : ETy) (fpc : Word) (t slot width : Nat) (act : BitVec 64) (a b : List Lane) (L : Nat) : Lane :=
  let j := bits (laneAt b L).toNat 5 0
  let own := laneAt a L
  let p := fun K => (laneAt a K).getLsbD 0
  match op with
  | .shfl => if j < width then laneAt a j else own
  | .shflup => if j ≤ L then laneAt a (L - j) else own
  | .shfldn => if L + j < width then laneAt a (L + j) else own
  | .shflx => if L ^^^ j < width then laneAt a (L ^^^ j) else own
  | .bcast =>
    let j0 := bits (laneAt b ((lowest act).getD 0)).toNat 5 0
    if j0 < width then laneAt a j0 else own
  | .voteany => if (lanesOf act).any p then 1 else 0
  | .voteall => if (lanesOf act).all p then 1 else 0
  | .ballot => (maskOf (fun J => act.getLsbD J && p J)).zeroExtend 128
  | .red r => xsReduce r ty fpc t slot width act a
  | .scanadd => xsScan ty fpc t slot act a L
  | .matchOp =>
    (maskOf (fun J => act.getLsbD J && elem (ETy.width ty) (laneAt a J) 0 == elem (ETy.width ty) own 0)).zeroExtend 128

end Sys2Proof.Machine
end

