-- ==== Sys2Proof/Machine/Xs.lean ====
section
/-!
DEFINITION. XS, the cross-lane unit (R218 to R220).
-/
namespace Sys2Proof.Machine

/-- A trigger of XS (R218, Table 6.14): it reads the source in every lane of the width, and writes the active ones. Its votes, reductions,
scans and matches range over Active(L, guard) (R72), also where another trigger of the bundle takes some of those lanes' results. -/
def xsTrigger (op : XsOp) (ty : ETy) (m : Mv) (t : State) (w : Wave) : State :=
  laneTrigger .xs m (fun t w _ a b _ L => xsLane op ty w.fpc w.clock t.slot w.width (w.active m) a b L) t w

/-- XS.SHFL (R219, R220). -/
def execXsShfl (m : Mv) (ty : ETy) (s : State) : Host.Outcome State Fault Refusal :=
  runMove (.xsShfl m ty) s (xsTrigger .shfl ty m)

/-- XS.SHFLUP (R219, R220). -/
def execXsShflup (m : Mv) (ty : ETy) (s : State) : Host.Outcome State Fault Refusal :=
  runMove (.xsShflup m ty) s (xsTrigger .shflup ty m)

/-- XS.SHFLDN (R219, R220). -/
def execXsShfldn (m : Mv) (ty : ETy) (s : State) : Host.Outcome State Fault Refusal :=
  runMove (.xsShfldn m ty) s (xsTrigger .shfldn ty m)

/-- XS.SHFLX (R219, R220). -/
def execXsShflx (m : Mv) (ty : ETy) (s : State) : Host.Outcome State Fault Refusal :=
  runMove (.xsShflx m ty) s (xsTrigger .shflx ty m)

/-- XS.BCAST (R219, R220). -/
def execXsBcast (m : Mv) (ty : ETy) (s : State) : Host.Outcome State Fault Refusal :=
  runMove (.xsBcast m ty) s (xsTrigger .bcast ty m)

/-- XS.VOTEANY (R219, R220). -/
def execXsVoteany (m : Mv) (ty : ETy) (s : State) : Host.Outcome State Fault Refusal :=
  runMove (.xsVoteany m ty) s (xsTrigger .voteany ty m)

/-- XS.VOTEALL (R219, R220). -/
def execXsVoteall (m : Mv) (ty : ETy) (s : State) : Host.Outcome State Fault Refusal :=
  runMove (.xsVoteall m ty) s (xsTrigger .voteall ty m)

/-- XS.BALLOT (R219, R220). -/
def execXsBallot (m : Mv) (ty : ETy) (s : State) : Host.Outcome State Fault Refusal :=
  runMove (.xsBallot m ty) s (xsTrigger .ballot ty m)

/-- XS.REDADD (R219, R220). -/
def execXsRedadd (m : Mv) (ty : ETy) (s : State) : Host.Outcome State Fault Refusal :=
  runMove (.xsRedadd m ty) s (xsTrigger (.red .add) ty m)

/-- XS.REDMAX (R219, R220). -/
def execXsRedmax (m : Mv) (ty : ETy) (s : State) : Host.Outcome State Fault Refusal :=
  runMove (.xsRedmax m ty) s (xsTrigger (.red .max) ty m)

/-- XS.REDMIN (R219, R220). -/
def execXsRedmin (m : Mv) (ty : ETy) (s : State) : Host.Outcome State Fault Refusal :=
  runMove (.xsRedmin m ty) s (xsTrigger (.red .min) ty m)

/-- XS.SCANADD (R219, R220). -/
def execXsScanadd (m : Mv) (ty : ETy) (s : State) : Host.Outcome State Fault Refusal :=
  runMove (.xsScanadd m ty) s (xsTrigger .scanadd ty m)

/-- XS.MATCH (R219, R220). -/
def execXsMatch (m : Mv) (ty : ETy) (s : State) : Host.Outcome State Fault Refusal :=
  runMove (.xsMatch m ty) s (xsTrigger .matchOp ty m)

end Sys2Proof.Machine
end

