-- ==== Sys2Proof/Machine/Dispatch.lean ====
section
/-! DEFINITION. One arm per instruction and event: which meaning it has. -/
namespace Sys2Proof.Machine

/-- What an instruction of the acting wave, or an event, does. -/
def exec (i : Instr) (s : State) : Host.Outcome State Fault Refusal :=
  match i with
  | .registerMove m d fill => Sys2Proof.Machine.execRegisterMove m d fill s
  | .operandPortWrite m u p fill => Sys2Proof.Machine.execOperandPortWrite m u p fill s
  | .nullSinkMove m => Sys2Proof.Machine.execNullSinkMove m s
  | .iaAdd m u ty => Sys2Proof.Machine.execIaAdd m u ty s
  | .iaSub m u ty => Sys2Proof.Machine.execIaSub m u ty s
  | .iaAdds m u ty => Sys2Proof.Machine.execIaAdds m u ty s
  | .iaSubs m u ty => Sys2Proof.Machine.execIaSubs m u ty s
  | .iaNeg m u ty => Sys2Proof.Machine.execIaNeg m u ty s
  | .iaNegs m u ty => Sys2Proof.Machine.execIaNegs m u ty s
  | .iaAbs m u ty => Sys2Proof.Machine.execIaAbs m u ty s
  | .iaAbss m u ty => Sys2Proof.Machine.execIaAbss m u ty s
  | .iaMin m u ty => Sys2Proof.Machine.execIaMin m u ty s
  | .iaMax m u ty => Sys2Proof.Machine.execIaMax m u ty s
  | .iaAnd m u ty => Sys2Proof.Machine.execIaAnd m u ty s
  | .iaOr m u ty => Sys2Proof.Machine.execIaOr m u ty s
  | .iaXor m u ty => Sys2Proof.Machine.execIaXor m u ty s
  | .iaAndn m u ty => Sys2Proof.Machine.execIaAndn m u ty s
  | .iaNot m u ty => Sys2Proof.Machine.execIaNot m u ty s
  | .iaCmpeq m u ty => Sys2Proof.Machine.execIaCmpeq m u ty s
  | .iaCmpne m u ty => Sys2Proof.Machine.execIaCmpne m u ty s
  | .iaCmplt m u ty => Sys2Proof.Machine.execIaCmplt m u ty s
  | .iaCmple m u ty => Sys2Proof.Machine.execIaCmple m u ty s
  | .iaCmpgt m u ty => Sys2Proof.Machine.execIaCmpgt m u ty s
  | .iaCmpge m u ty => Sys2Proof.Machine.execIaCmpge m u ty s
  | .iaSel m u ty => Sys2Proof.Machine.execIaSel m u ty s
  | .iaClz m u ty => Sys2Proof.Machine.execIaClz m u ty s
  | .iaPopc m u ty => Sys2Proof.Machine.execIaPopc m u ty s
  | .iaBrev m u ty => Sys2Proof.Machine.execIaBrev m u ty s
  | .iaAvg m u ty => Sys2Proof.Machine.execIaAvg m u ty s
  | .iaAdc m u ty => Sys2Proof.Machine.execIaAdc m u ty s
  | .iaSbb m u ty => Sys2Proof.Machine.execIaSbb m u ty s
  | .mlMul m ty => Sys2Proof.Machine.execMlMul m ty s
  | .mlMulhi m ty => Sys2Proof.Machine.execMlMulhi m ty s
  | .mlMad m ty => Sys2Proof.Machine.execMlMad m ty s
  | .mlMadw m ty => Sys2Proof.Machine.execMlMadw m ty s
  | .mlDot4 m ty => Sys2Proof.Machine.execMlDot4 m ty s
  | .shShl m ty => Sys2Proof.Machine.execShShl m ty s
  | .shShr m ty => Sys2Proof.Machine.execShShr m ty s
  | .shSar m ty => Sys2Proof.Machine.execShSar m ty s
  | .shRol m ty => Sys2Proof.Machine.execShRol m ty s
  | .shRor m ty => Sys2Proof.Machine.execShRor m ty s
  | .shBfe m ty => Sys2Proof.Machine.execShBfe m ty s
  | .shBfi m ty => Sys2Proof.Machine.execShBfi m ty s
  | .shFunl m ty => Sys2Proof.Machine.execShFunl m ty s
  | .shPerm m ty => Sys2Proof.Machine.execShPerm m ty s
  | .fmFadd m u rm ty => Sys2Proof.Machine.execFmFadd m u rm ty s
  | .fmFsub m u rm ty => Sys2Proof.Machine.execFmFsub m u rm ty s
  | .fmFmul m u rm ty => Sys2Proof.Machine.execFmFmul m u rm ty s
  | .fmFma m u rm ty => Sys2Proof.Machine.execFmFma m u rm ty s
  | .fmFnma m u rm ty => Sys2Proof.Machine.execFmFnma m u rm ty s
  | .fmFrint m u rm ty => Sys2Proof.Machine.execFmFrint m u rm ty s
  | .fmFscale m u rm ty => Sys2Proof.Machine.execFmFscale m u rm ty s
  | .fmFmin m u ty => Sys2Proof.Machine.execFmFmin m u ty s
  | .fmFmax m u ty => Sys2Proof.Machine.execFmFmax m u ty s
  | .fmFminp m u ty => Sys2Proof.Machine.execFmFminp m u ty s
  | .fmFmaxp m u ty => Sys2Proof.Machine.execFmFmaxp m u ty s
  | .fmFcmp m u c ty => Sys2Proof.Machine.execFmFcmp m u c ty s
  | .fmFclass m u ty => Sys2Proof.Machine.execFmFclass m u ty s
  | .fmFsgn m u o ty => Sys2Proof.Machine.execFmFsgn m u o ty s
  | .chChain m s1 s2 s3 => Sys2Proof.Machine.execChChain m s1 s2 s3 s
  | .cvCvt m res src rm => Sys2Proof.Machine.execCvCvt m res src rm s
  | .xsShfl m ty => Sys2Proof.Machine.execXsShfl m ty s
  | .xsShflup m ty => Sys2Proof.Machine.execXsShflup m ty s
  | .xsShfldn m ty => Sys2Proof.Machine.execXsShfldn m ty s
  | .xsShflx m ty => Sys2Proof.Machine.execXsShflx m ty s
  | .xsBcast m ty => Sys2Proof.Machine.execXsBcast m ty s
  | .xsVoteany m ty => Sys2Proof.Machine.execXsVoteany m ty s
  | .xsVoteall m ty => Sys2Proof.Machine.execXsVoteall m ty s
  | .xsBallot m ty => Sys2Proof.Machine.execXsBallot m ty s
  | .xsRedadd m ty => Sys2Proof.Machine.execXsRedadd m ty s
  | .xsRedmax m ty => Sys2Proof.Machine.execXsRedmax m ty s
  | .xsRedmin m ty => Sys2Proof.Machine.execXsRedmin m ty s
  | .xsScanadd m ty => Sys2Proof.Machine.execXsScanadd m ty s
  | .xsMatch m ty => Sys2Proof.Machine.execXsMatch m ty s
  | .saAdd m => Sys2Proof.Machine.execSaAdd m s
  | .saSub m => Sys2Proof.Machine.execSaSub m s
  | .saAnd m => Sys2Proof.Machine.execSaAnd m s
  | .saOr m => Sys2Proof.Machine.execSaOr m s
  | .saXor m => Sys2Proof.Machine.execSaXor m s
  | .saShl m => Sys2Proof.Machine.execSaShl m s
  | .saShr m => Sys2Proof.Machine.execSaShr m s
  | .saSar m => Sys2Proof.Machine.execSaSar m s
  | .saMul m => Sys2Proof.Machine.execSaMul m s
  | .saCmp m uns c => Sys2Proof.Machine.execSaCmp m uns c s
  | .saMov m => Sys2Proof.Machine.execSaMov m s
  | .saLi m => Sys2Proof.Machine.execSaLi m s
  | .saMin m uns => Sys2Proof.Machine.execSaMin m uns s
  | .saMax m uns => Sys2Proof.Machine.execSaMax m uns s
  | .ldLdg m sz sx pi => Sys2Proof.Machine.execLdLdg m sz sx pi s
  | .ldLds m sz sx pi => Sys2Proof.Machine.execLdLds m sz sx pi s
  | .ldLdl m sz sx pi => Sys2Proof.Machine.execLdLdl m sz sx pi s
  | .ldLdb m sz sx pi => Sys2Proof.Machine.execLdLdb m sz sx pi s
  | .ldLdsc m sz sx pi => Sys2Proof.Machine.execLdLdsc m sz sx pi s
  | .ldLdnt m sz sx pi => Sys2Proof.Machine.execLdLdnt m sz sx pi s
  | .stStg m sz pi => Sys2Proof.Machine.execStStg m sz pi s
  | .stSts m sz pi => Sys2Proof.Machine.execStSts m sz pi s
  | .stStsc m sz pi => Sys2Proof.Machine.execStStsc m sz pi s
  | .stStnt m sz pi => Sys2Proof.Machine.execStStnt m sz pi s
  | .atAdd m w sc ord => Sys2Proof.Machine.execAtAdd m w sc ord s
  | .atSub m w sc ord => Sys2Proof.Machine.execAtSub m w sc ord s
  | .atMin m w sc ord => Sys2Proof.Machine.execAtMin m w sc ord s
  | .atMax m w sc ord => Sys2Proof.Machine.execAtMax m w sc ord s
  | .atMinu m w sc ord => Sys2Proof.Machine.execAtMinu m w sc ord s
  | .atMaxu m w sc ord => Sys2Proof.Machine.execAtMaxu m w sc ord s
  | .atAnd m w sc ord => Sys2Proof.Machine.execAtAnd m w sc ord s
  | .atOr m w sc ord => Sys2Proof.Machine.execAtOr m w sc ord s
  | .atXor m w sc ord => Sys2Proof.Machine.execAtXor m w sc ord s
  | .atXchg m w sc ord => Sys2Proof.Machine.execAtXchg m w sc ord s
  | .atCas m w sc ord => Sys2Proof.Machine.execAtCas m w sc ord s
  | .atInc m w sc ord => Sys2Proof.Machine.execAtInc m w sc ord s
  | .atFadd m w sc ord => Sys2Proof.Machine.execAtFadd m w sc ord s
  | .lgPub m sc => Sys2Proof.Machine.execLgPub m sc s
  | .lgAcq m sc => Sys2Proof.Machine.execLgAcq m sc s
  | .lgAcqn m sc => Sys2Proof.Machine.execLgAcqn m sc s
  | .lgDrain m => Sys2Proof.Machine.execLgDrain m s
  | .lgLogst m => Sys2Proof.Machine.execLgLogst m s
  | .baBinit m => Sys2Proof.Machine.execBaBinit m s
  | .baArrive m => Sys2Proof.Machine.execBaArrive m s
  | .baWait m => Sys2Proof.Machine.execBaWait m s
  | .baTest m => Sys2Proof.Machine.execBaTest m s
  | .baPbar m => Sys2Proof.Machine.execBaPbar m s
  | .baCbinit m cb => Sys2Proof.Machine.execBaCbinit m cb s
  | .baCbresv m cb => Sys2Proof.Machine.execBaCbresv m cb s
  | .baCbfill m cb => Sys2Proof.Machine.execBaCbfill m cb s
  | .baCbtake m cb => Sys2Proof.Machine.execBaCbtake m cb s
  | .baCbfree m cb => Sys2Proof.Machine.execBaCbfree m cb s
  | .mxCfg m => Sys2Proof.Machine.execMxCfg m s
  | .mxLdb m bl => Sys2Proof.Machine.execMxLdb m bl s
  | .mxMmq m bl acc => Sys2Proof.Machine.execMxMmq m bl acc s
  | .mxMmw m bl acc => Sys2Proof.Machine.execMxMmw m bl acc s
  | .mxZacc m acc => Sys2Proof.Machine.execMxZacc m acc s
  | .mxStacc m acc => Sys2Proof.Machine.execMxStacc m acc s
  | .mxRdacc m acc => Sys2Proof.Machine.execMxRdacc m acc s
  | .mxKat m => Sys2Proof.Machine.execMxKat m s
  | .mxQstat m => Sys2Proof.Machine.execMxQstat m s
  | .gaGidx m => Sys2Proof.Machine.execGaGidx m s
  | .gaGrows m => Sys2Proof.Machine.execGaGrows m s
  | .gaGstat m => Sys2Proof.Machine.execGaGstat m s
  | .sxCopy2d m => Sys2Proof.Machine.execSxCopy2d m s
  | .sxCopy2dw m => Sys2Proof.Machine.execSxCopy2dw m s
  | .sxLoopcopy m cb => Sys2Proof.Machine.execSxLoopcopy m cb s
  | .sxStop m => Sys2Proof.Machine.execSxStop m s
  | .sxLandresv m z => Sys2Proof.Machine.execSxLandresv m z s
  | .sxLandsend m z => Sys2Proof.Machine.execSxLandsend m z s
  | .sxLandclr m z => Sys2Proof.Machine.execSxLandclr m z s
  | .sxZoneinit m z => Sys2Proof.Machine.execSxZoneinit m z s
  | .sxWaitc m => Sys2Proof.Machine.execSxWaitc m s
  | .sfEx2 m ty => Sys2Proof.Machine.execSfEx2 m ty s
  | .sfLg2 m ty => Sys2Proof.Machine.execSfLg2 m ty s
  | .sfRcp m ty => Sys2Proof.Machine.execSfRcp m ty s
  | .sfRsq m ty => Sys2Proof.Machine.execSfRsq m ty s
  | .sfSqrt m ty => Sys2Proof.Machine.execSfSqrt m ty s
  | .sfSinpi m ty => Sys2Proof.Machine.execSfSinpi m ty s
  | .sfCospi m ty => Sys2Proof.Machine.execSfCospi m ty s
  | .sfTanh m ty => Sys2Proof.Machine.execSfTanh m ty s
  | .sfErf m ty => Sys2Proof.Machine.execSfErf m ty s
  | .ctBra m => Sys2Proof.Machine.execCtBra m s
  | .ctBany m => Sys2Proof.Machine.execCtBany m s
  | .ctBall m => Sys2Proof.Machine.execCtBall m s
  | .ctBnone m => Sys2Proof.Machine.execCtBnone m s
  | .ctBscal m z k => Sys2Proof.Machine.execCtBscal m z k s
  | .ctCall m => Sys2Proof.Machine.execCtCall m s
  | .ctRet m => Sys2Proof.Machine.execCtRet m s
  | .ctBtab m n => Sys2Proof.Machine.execCtBtab m n s
  | .ctLoop m => Sys2Proof.Machine.execCtLoop m s
  | .ctAllon m => Sys2Proof.Machine.execCtAllon m s
  | .ctAlloff m => Sys2Proof.Machine.execCtAlloff m s
  | .ctMaskg m => Sys2Proof.Machine.execCtMaskg m s
  | .ctMasks m => Sys2Proof.Machine.execCtMasks m s
  | .ctSeg m => Sys2Proof.Machine.execCtSeg m s
  | .ctPhase m => Sys2Proof.Machine.execCtPhase m s
  | .ctRoute m => Sys2Proof.Machine.execCtRoute m s
  | .ctYield m => Sys2Proof.Machine.execCtYield m s
  | .ctExit m => Sys2Proof.Machine.execCtExit m s
  | .ctWaite m => Sys2Proof.Machine.execCtWaite m s
  | .syTrap m => Sys2Proof.Machine.execSyTrap m s
  | .syRett m => Sys2Proof.Machine.execSyRett m s
  | .syCsrr m => Sys2Proof.Machine.execSyCsrr m s
  | .syCsrw m => Sys2Proof.Machine.execSyCsrw m s
  | .syCsrs m => Sys2Proof.Machine.execSyCsrs m s
  | .syCsrc m => Sys2Proof.Machine.execSyCsrc m s
  | .syIcinv m => Sys2Proof.Machine.execSyIcinv m s
  | .syFbar m => Sys2Proof.Machine.execSyFbar m s
  | .syPref m l2 => Sys2Proof.Machine.execSyPref m l2 s
  | .syLaunch m => Sys2Proof.Machine.execSyLaunch m s
  | .sySleep m => Sys2Proof.Machine.execSySleep m s
  | .syQfence m => Sys2Proof.Machine.execSyQfence m s
  | .syRdv m => Sys2Proof.Machine.execSyRdv m s
  | .syWheelq m => Sys2Proof.Machine.execSyWheelq m s
  | .exposedResultLand w => Sys2Proof.Machine.execExposedResultLand w s
  | .waveExchange w => Sys2Proof.Machine.execWaveExchange w s
  | .translationWalkDone w => Sys2Proof.Machine.execTranslationWalkDone w s
  | .ldEntryArrive w n => Sys2Proof.Machine.execLdEntryArrive w n s
  | .loadNoResponse w n => Sys2Proof.Machine.execLoadNoResponse w n s
  | .atHomePerform r => Sys2Proof.Machine.execAtHomePerform r s
  | .atResend w n => Sys2Proof.Machine.execAtResend w n s
  | .atResendTimeout w n => Sys2Proof.Machine.execAtResendTimeout w n s
  | .atTagExpire pkg core tag => Sys2Proof.Machine.execAtTagExpire pkg core tag s
  | .spillMove core => Sys2Proof.Machine.execSpillMove core s
  | .logFullDrain core => Sys2Proof.Machine.execLogFullDrain core s
  | .markStand mark => Sys2Proof.Machine.execMarkStand mark s
  | .acquireComplete w => Sys2Proof.Machine.execAcquireComplete w s
  | .drainComplete w => Sys2Proof.Machine.execDrainComplete w s
  | .compactMark tract mark => Sys2Proof.Machine.execCompactMark tract mark s
  | .scPerform core => Sys2Proof.Machine.execScPerform core s
  | .domainCountWarning => Sys2Proof.Machine.execDomainCountWarning s
  | .stampLimitStop => Sys2Proof.Machine.execStampLimitStop s
  | .baWaitSatisfy w => Sys2Proof.Machine.execBaWaitSatisfy w s
  | .baPbarComplete party => Sys2Proof.Machine.execBaPbarComplete party s
  | .cbSlotReady core cb => Sys2Proof.Machine.execCbSlotReady core cb s
  | .mxCommandPerform core => Sys2Proof.Machine.execMxCommandPerform core s
  | .mxIdle core => Sys2Proof.Machine.execMxIdle core s
  | .mxWakeAdmit tract => Sys2Proof.Machine.execMxWakeAdmit tract s
  | .mxWakeStart core => Sys2Proof.Machine.execMxWakeStart core s
  | .gaComplete core => Sys2Proof.Machine.execGaComplete core s
  | .sfResult core => Sys2Proof.Machine.execSfResult core s
  | .copy2dwStart party => Sys2Proof.Machine.execCopy2dwStart party s
  | .sxCopyComplete party => Sys2Proof.Machine.execSxCopyComplete party s
  | .loopcopyIteration core ctx => Sys2Proof.Machine.execLoopcopyIteration core ctx s
  | .completionRecordWrite party => Sys2Proof.Machine.execCompletionRecordWrite party s
  | .waitcSatisfy party => Sys2Proof.Machine.execWaitcSatisfy party s
  | .landresvReceive m => Sys2Proof.Machine.execLandresvReceive m s
  | .landsendReceive m => Sys2Proof.Machine.execLandsendReceive m s
  | .landsendWriteComplete core n => Sys2Proof.Machine.execLandsendWriteComplete core n s
  | .landclrRemoteReceive m => Sys2Proof.Machine.execLandclrRemoteReceive m s
  | .landfallResponse a => Sys2Proof.Machine.execLandfallResponse a s
  | .plotClearEffect core n => Sys2Proof.Machine.execPlotClearEffect core n s
  | .plotLeaseExpire core zone plot => Sys2Proof.Machine.execPlotLeaseExpire core zone plot s
  | .failureNoticeReceive n => Sys2Proof.Machine.execFailureNoticeReceive n s
  | .phaseEnd party => Sys2Proof.Machine.execPhaseEnd party s
  | .phaseStart party => Sys2Proof.Machine.execPhaseStart party s
  | .taskAssign launch => Sys2Proof.Machine.execTaskAssign launch s
  | .partyEnd party => Sys2Proof.Machine.execPartyEnd party s
  | .sleepExpire w => Sys2Proof.Machine.execSleepExpire w s
  | .detectedError w => Sys2Proof.Machine.execDetectedError w s
  | .segRerunEnd w => Sys2Proof.Machine.execSegRerunEnd w s
  | .twinRecordCompare w => Sys2Proof.Machine.execTwinRecordCompare w s
  | .twinEscapePerform w => Sys2Proof.Machine.execTwinEscapePerform w s
  | .correctedError site core addr => Sys2Proof.Machine.execCorrectedError site core addr s
  | .uncorrectableHbmError pa => Sys2Proof.Machine.execUncorrectableHbmError pa s
  | .packetHead q => Sys2Proof.Machine.execPacketHead q s
  | .packetAge q => Sys2Proof.Machine.execPacketAge q s
  | .schedulePlace vi => Sys2Proof.Machine.execSchedulePlace vi s
  | .preemptHaltComplete core => Sys2Proof.Machine.execPreemptHaltComplete core s
  | .haltTimeout core => Sys2Proof.Machine.execHaltTimeout core s
  | .contextResume core => Sys2Proof.Machine.execContextResume core s
  | .sliceSwitch core => Sys2Proof.Machine.execSliceSwitch core s
  | .launchComplete launch => Sys2Proof.Machine.execLaunchComplete launch s
  | .doneRecordWrite q => Sys2Proof.Machine.execDoneRecordWrite q s
  | .wqtailWrite q tail => Sys2Proof.Machine.execWqtailWrite q tail s
  | .queueKill q => Sys2Proof.Machine.execQueueKill q s
  | .peerPacketReceive pkg q words => Sys2Proof.Machine.execPeerPacketReceive pkg q words s
  | .partitionEnable vi => Sys2Proof.Machine.execPartitionEnable vi s
  | .registerWrite addr data secure => Sys2Proof.Machine.execRegisterWrite addr data secure s
  | .tlbinvInterface vi => Sys2Proof.Machine.execTlbinvInterface vi s
  | .tlbinvAsid vi asid => Sys2Proof.Machine.execTlbinvAsid vi asid s
  | .tlbinvVaRange vi asid page count => Sys2Proof.Machine.execTlbinvVaRange vi asid page count s
  | .tlbinvGpaRange vi page count => Sys2Proof.Machine.execTlbinvGpaRange vi page count s
  | .tlbinvComplete vi => Sys2Proof.Machine.execTlbinvComplete vi s
  | .poisonSet granule => Sys2Proof.Machine.execPoisonSet granule s
  | .poisonClear granule => Sys2Proof.Machine.execPoisonClear granule s
  | .poisonCmdComplete => Sys2Proof.Machine.execPoisonCmdComplete s
  | .placeSet frame mode => Sys2Proof.Machine.execPlaceSet frame mode s
  | .placeQuery frame => Sys2Proof.Machine.execPlaceQuery frame s
  | .legendCommit n top secure => Sys2Proof.Machine.execLegendCommit n top secure s
  | .legendClear n top secure => Sys2Proof.Machine.execLegendClear n top secure s
  | .legendClearComplete n => Sys2Proof.Machine.execLegendClearComplete n s
  | .mtcapWrite t v => Sys2Proof.Machine.execMtcapWrite t v s
  | .portEnable port => Sys2Proof.Machine.execPortEnable port s
  | .portDisable port => Sys2Proof.Machine.execPortDisable port s
  | .portTrainUp port peerPkg peerPort => Sys2Proof.Machine.execPortTrainUp port peerPkg peerPort s
  | .portTrainTimeout port => Sys2Proof.Machine.execPortTrainTimeout port s
  | .portFail port => Sys2Proof.Machine.execPortFail port s
  | .domainBringUp => Sys2Proof.Machine.execDomainBringUp s
  | .domainJoin port count => Sys2Proof.Machine.execDomainJoin port count s
  | .domainDown => Sys2Proof.Machine.execDomainDown s
  | .fabricSubmit v => Sys2Proof.Machine.execFabricSubmit v s
  | .fabricSubmitAnswer accepted => Sys2Proof.Machine.execFabricSubmitAnswer accepted s
  | .fabricSubmitTimeout => Sys2Proof.Machine.execFabricSubmitTimeout s
  | .zonePlotRead core zone plot => Sys2Proof.Machine.execZonePlotRead core zone plot s
  | .zoneClose core zone => Sys2Proof.Machine.execZoneClose core zone s
  | .counterClear t => Sys2Proof.Machine.execCounterClear t s
  | .counterSnap t => Sys2Proof.Machine.execCounterSnap t s
  | .snapall => Sys2Proof.Machine.execSnapall s
  | .vcounterSnap vi => Sys2Proof.Machine.execVcounterSnap vi s
  | .dutyUpdate power tmax => Sys2Proof.Machine.execDutyUpdate power tmax s
  | .thermalTrip => Sys2Proof.Machine.execThermalTrip s
  | .standbyPowerOn img => Sys2Proof.Machine.execStandbyPowerOn img s
  | .mcfwStart railsOk trainOk img => Sys2Proof.Machine.execMcfwStart railsOk trainOk img s
  | .ccCore0Release => Sys2Proof.Machine.execCcCore0Release s
  | .ccfwStage3 trust os => Sys2Proof.Machine.execCcfwStage3 trust os s
  | .moduleReset => Sys2Proof.Machine.execModuleReset s
  | .containerLoad vi c emdx => Sys2Proof.Machine.execContainerLoad vi c emdx s
  | .patchCommit p => Sys2Proof.Machine.execPatchCommit p s
  | .demandPageLoad handle edition page bytes => Sys2Proof.Machine.execDemandPageLoad handle edition page bytes s
  | .quote nonce => Sys2Proof.Machine.execQuote nonce s
  | .query => Sys2Proof.Machine.execQuery s
  | .readbook slot => Sys2Proof.Machine.execReadbook slot s
  | .preserve => Sys2Proof.Machine.execPreserve s
  | .release slot auth => Sys2Proof.Machine.execRelease slot auth s
  | .retire core auth => Sys2Proof.Machine.execRetire core auth s
  | .returnCore core auth => Sys2Proof.Machine.execReturnCore core auth s
  | .raisemin kind version auth => Sys2Proof.Machine.execRaisemin kind version auth s
  | .loadlist img auth => Sys2Proof.Machine.execLoadlist img auth s
  | .reset auth => Sys2Proof.Machine.execReset auth s
  | .atResponseArrive tag status ret => Sys2Proof.Machine.execAtResponseArrive tag status ret s
  | .remoteLoadRequest pkg core pa size => Sys2Proof.Machine.execRemoteLoadRequest pkg core pa size s
  | .remoteRecordReceive r => Sys2Proof.Machine.execRemoteRecordReceive r s
  | .fabricForward dst hop => Sys2Proof.Machine.execFabricForward dst hop s
  | .logLost core n => Sys2Proof.Machine.execLogLost core n s
  | .controlComplexAccess cc addr store bytes data => Sys2Proof.Machine.execControlComplexAccess cc addr store bytes data s
  | .containerUnload handle => Sys2Proof.Machine.execContainerUnload handle s
  | .powerLoss => Sys2Proof.Machine.execPowerLoss s

end Sys2Proof.Machine
end

