-- ==== Sys2Proof/Machine/Step.lean ====
section
/-!
DEFINITION. One step of the package: the next event of the agenda; else the next bundle of a wave chosen in this cycle; else an event that is
due; else the end of the cycle (Log 2). And the state whose next step runs a given instruction.
-/
namespace Sys2Proof.Machine

/-- Moves in their order, each in its slot. -/
def performMoves : List (Nat × Instr) → State → Host.Outcome State Fault Refusal
  | [], s => .next s
  | (k, i) :: t, s =>
    match exec i { s with slot := k } with
    | .next u => performMoves t u
    | .fault f => .fault f
    | .refused r => .refused r

/-- A bundle that can issue is performed as one step (R18). -/
def performBundle (r : Ready) : Host.Outcome State Fault Refusal :=
  match performMoves (performOrder r.st) (beginBundle r) with
  | .next u => .next (endBundle r.close u)
  | .fault f => .fault f
  | .refused e => .refused e

/-- The turn of one wave: its bundle issues, or it traps, or its re-run ends, or it stalls. -/
def issue (k : Nat) (s : State) : Host.Outcome State Fault Refusal :=
  match prepare s k with
  | .ok r => performBundle { r with st := r.st.modWave k (fun w => { w with age := s.cycle }) }
  | .error (.trap t) => .next (takeTrap s k t)
  | .error .endPoint => execSegRerunEnd k s
  | .error .hold => .next s
  | .error (.escape _) => .next s
  | .error (.walkFetch _) => .next s
  | .error (.walkLane _ _ _) => .next s

/-- One step. -/
def step (s : State) : Host.Outcome State Fault Refusal :=
  match s.agenda with
  | i :: t => if i.isMove then .next { s with agenda := t } else exec i { s with agenda := t }
  | [] =>
    if !s.mgmt.powered then .fault .unpowered
    else
      match s.turn with
      | k :: rest => issue k { s with turn := rest }
      | [] => .next (settleOrTick s)

/-- The state whose next step fetches and runs the instruction of an opcode-table word (Log 7). -/
def State.withFetchWord (s : State) (nbits w : Nat) : State := s.placeBare (tableBundleWord nbits w)

end Sys2Proof.Machine
end

