-- ==== Sys2Proof/Safety.lean ====
section
/-!
DEFINITION. What claims about runs are stated in: runs of steps, stops, and the data invariant of the machine's memories.
-/
namespace Sys2Proof.Machine

/-- The outcome of n steps; a stop ends the run. -/
def run : Nat → State → Host.Outcome State Fault Refusal
  | 0, s => .next s
  | n + 1, s =>
    match step s with
    | .next t => run n t
    | .fault f => .fault f
    | .refused r => .refused r

/-- No step of the run stops. -/
def RunsOn (s : State) : Prop := ∀ n, ∃ t, run n s = .next t

/-! What a move leaves, in the terms of R18 to R29. -/

/-- The acting wave of a bundle that is being performed: it is w now, and was p before the bundle. -/
structure Acts (s : State) (p w : Wave) : Prop where
  cur : s.cur? = some w
  on : s.ib.on = true
  pre : s.pre = some p

/-- Port state after a move has popped its source: the entry it pops leaves its queue (R23, R27). -/
def popIo (s : State) (p : Wave) (m : Mv) (io : WaveIo) : WaveIo :=
  match popUnit p m with
  | none => io
  | some u =>
    match popEntry s p u with
    | none => io
    | some e => io.setQueue u ((io.queue u).filter (fun x => x.id != e.id))

/-- Port state after a trigger's source has been popped and has entered latch a of its unit (R26, R110). -/
def latchIo (s : State) (p : Wave) (u : PortUnit) (m : Mv) (io : WaveIo) : WaveIo :=
  (popIo s p m io).setLatch p.phys u .a (p.active m &&& ~~~ laterLatchA s p u) ((srcVal s p m).all p.phys)

/-- Port state after a trigger of an exposed lane unit: where it triggers in some lane, one result is in flight, computed from the source
and the latches b and c (R26, R29). -/
def laneIo (s : State) (p : Wave) (u : PortUnit) (m : Mv) (io : WaveIo) (value : List Lane → List Lane → List Lane → Nat → Lane) : WaveIo :=
  { latchIo s p u m io with
    flight := io.flight ++
      (if trigMask s p u m = 0 then []
       else [{ u := u.code, slot := s.slot, t := p.clock, bound := unitBound u, mask := trigMask s p u m,
               vals := (List.range p.phys).map (value ((srcVal s p m).all p.phys) (io.latch u).b (io.latch u).c) }]) }

/-- The state after a trigger of an exposed lane unit: the port state of the acting wave is all that changes. -/
def laneNext (s : State) (p w : Wave) (u : PortUnit) (m : Mv) (value : List Lane → List Lane → List Lane → Nat → Lane) : State :=
  s.setWave s.cur { w with io := laneIo s p u m w.io value }

/-- Port state after a scalar result of unit u enters flight, its operand in latch a (R29, R221). -/
def scalarIo (s : State) (p : Wave) (u : PortUnit) (a x : Word) (io : WaveIo) : WaveIo :=
  { io.setSlatch u .a a with
    flight := io.flight ++ [{ u := u.code, slot := s.slot, t := p.clock, bound := unitBound u, mask := lanesBelow p.phys,
                              vals := sameLanes p.phys (x.zeroExtend 128) }] }

/-- The command a queued trigger pushes (R23, R26, R35). -/
def pushedCmd (s : State) (p : Wave) (op : QOp) (o : Opnds) : Cmd :=
  { id := s.nextId, wave := s.cur, party := p.party, op := op, mask := o.mask, a := o.a, b := o.b, c := o.c, fpc := p.fpc, t := p.clock, nth := p.issued,
    slot := s.slot, seg := p.seg, handler := p.hmode, pushed := s.cycle,
    he := (match op with
      | .sx _ _ => s.engineHorizon p.core
      | _ => [])
    st := .queued
    got := none }

/-- The operands a queued trigger gives its command, before the targets of a memory access are put in (R26). -/
def pushedOps (s : State) (p w : Wave) (u : PortUnit) (m : Mv) : Opnds :=
  { mask := trigMask s p u m, a := (srcVal s p m).all p.phys, b := (w.io.latch u).b, c := (w.io.latch u).c }

/-- The state with the trigger's source popped and latched. -/
def latched (s : State) (p w : Wave) (u : PortUnit) (m : Mv) : State := s.setWave s.cur { w with io := latchIo s p u m w.io }

/-- The state after a queued trigger that triggers in some lane: its source popped and latched, and its command pushed. -/
def pushed (s : State) (p w : Wave) (m : Mv) (op : QOp) : State :=
  pushCmd (latched s p w op.unit m) (pushedCmd s p op (pushedOps s p w op.unit m)) p.core

/-! The operation of each trigger. -/

/-- A trigger of IA: its move, whether it is on IA1, its type and operation (Table 4.2). -/
def iaOf : Instr → Option (Mv × Bool × ETy × IaOp)
  | .iaAdd m u ty => some (m, u, ty, .add)
  | .iaSub m u ty => some (m, u, ty, .sub)
  | .iaAdds m u ty => some (m, u, ty, .adds)
  | .iaSubs m u ty => some (m, u, ty, .subs)
  | .iaNeg m u ty => some (m, u, ty, .neg)
  | .iaNegs m u ty => some (m, u, ty, .negs)
  | .iaAbs m u ty => some (m, u, ty, .abs)
  | .iaAbss m u ty => some (m, u, ty, .abss)
  | .iaMin m u ty => some (m, u, ty, .min)
  | .iaMax m u ty => some (m, u, ty, .max)
  | .iaAnd m u ty => some (m, u, ty, .and)
  | .iaOr m u ty => some (m, u, ty, .or)
  | .iaXor m u ty => some (m, u, ty, .xor)
  | .iaAndn m u ty => some (m, u, ty, .andn)
  | .iaNot m u ty => some (m, u, ty, .not)
  | .iaCmpeq m u ty => some (m, u, ty, .cmp .eq)
  | .iaCmpne m u ty => some (m, u, ty, .cmp .ne)
  | .iaCmplt m u ty => some (m, u, ty, .cmp .lt)
  | .iaCmple m u ty => some (m, u, ty, .cmp .le)
  | .iaCmpgt m u ty => some (m, u, ty, .cmp .gt)
  | .iaCmpge m u ty => some (m, u, ty, .cmp .ge)
  | .iaSel m u ty => some (m, u, ty, .sel)
  | .iaClz m u ty => some (m, u, ty, .clz)
  | .iaPopc m u ty => some (m, u, ty, .popc)
  | .iaBrev m u ty => some (m, u, ty, .brev)
  | .iaAvg m u ty => some (m, u, ty, .avg)
  | .iaAdc m u ty => some (m, u, ty, .adc)
  | .iaSbb m u ty => some (m, u, ty, .sbb)
  | _ => none

/-- The lane function of a trigger of ML or SH: its move, unit, and what a lane of A, B and C gives (Tables 4.3 and 4.5). -/
def mlShOf : Instr → Option (Mv × PortUnit × (Lane → Lane → Lane → Lane))
  | .mlMul m ty => some (m, .ml, mlLane .mul ty)
  | .mlMulhi m ty => some (m, .ml, mlLane .mulhi ty)
  | .mlMad m ty => some (m, .ml, mlLane .mad ty)
  | .mlMadw m ty => some (m, .ml, mlLane .madw ty)
  | .mlDot4 m ty => some (m, .ml, mlLane .dot4 ty)
  | .shShl m ty => some (m, .sh, shLane .shl ty)
  | .shShr m ty => some (m, .sh, shLane .shr ty)
  | .shSar m ty => some (m, .sh, shLane .sar ty)
  | .shRol m ty => some (m, .sh, shLane .rol ty)
  | .shRor m ty => some (m, .sh, shLane .ror ty)
  | .shBfe m ty => some (m, .sh, shLane .bfe ty)
  | .shBfi m ty => some (m, .sh, shLane .bfi ty)
  | .shFunl m ty => some (m, .sh, shLane .funl ty)
  | .shPerm m ty => some (m, .sh, shLane .perm ty)
  | _ => none

/-- The element function of a trigger of FM: its move, whether it is on FM1, its type, and what an element number and the codes of A, B and C
give in a floating context (R123 to R128). -/
def fmOf (fpc : Word) : Instr → Option (Mv × Bool × ETy × (FpCtx → Nat → Nat → Nat → Nat → Nat))
  | .fmFadd m u rm ty => some (m, u, ty, fmElem .fadd (fmtOf ty) (Rm.mode rm fpc))
  | .fmFsub m u rm ty => some (m, u, ty, fmElem .fsub (fmtOf ty) (Rm.mode rm fpc))
  | .fmFmul m u rm ty => some (m, u, ty, fmElem .fmul (fmtOf ty) (Rm.mode rm fpc))
  | .fmFma m u rm ty => some (m, u, ty, fmElem .fma (fmtOf ty) (Rm.mode rm fpc))
  | .fmFnma m u rm ty => some (m, u, ty, fmElem .fnma (fmtOf ty) (Rm.mode rm fpc))
  | .fmFrint m u rm ty => some (m, u, ty, fmElem .frint (fmtOf ty) (Rm.mode rm fpc))
  | .fmFscale m u rm ty => some (m, u, ty, fmElem .fscale (fmtOf ty) (Rm.mode rm fpc))
  | .fmFmin m u ty => some (m, u, ty, fun x _ a b _ => fminmaxElem false false (fmtOf ty) x a b)
  | .fmFmax m u ty => some (m, u, ty, fun x _ a b _ => fminmaxElem true false (fmtOf ty) x a b)
  | .fmFminp m u ty => some (m, u, ty, fun x _ a b _ => fminmaxElem false true (fmtOf ty) x a b)
  | .fmFmaxp m u ty => some (m, u, ty, fun x _ a b _ => fminmaxElem true true (fmtOf ty) x a b)
  | .fmFcmp m u c ty => some (m, u, ty, fun x _ a b _ => fcmpElem c (fmtOf ty) x a b)
  | .fmFclass m u ty => some (m, u, ty, fun x _ a _ _ => classWord (fmtOf ty) (x.code (fmtOf ty) a))
  | .fmFsgn m u o ty => some (m, u, ty, fun x _ a _ _ => fsgnElem o (fmtOf ty) x a)
  | _ => none

/-- The function of a trigger of XS: its move, type and operation (Table 6.14). -/
def xsOf : Instr → Option (Mv × ETy × XsOp)
  | .xsShfl m ty => some (m, ty, .shfl)
  | .xsShflup m ty => some (m, ty, .shflup)
  | .xsShfldn m ty => some (m, ty, .shfldn)
  | .xsShflx m ty => some (m, ty, .shflx)
  | .xsBcast m ty => some (m, ty, .bcast)
  | .xsVoteany m ty => some (m, ty, .voteany)
  | .xsVoteall m ty => some (m, ty, .voteall)
  | .xsBallot m ty => some (m, ty, .ballot)
  | .xsRedadd m ty => some (m, ty, .red .add)
  | .xsRedmax m ty => some (m, ty, .red .max)
  | .xsRedmin m ty => some (m, ty, .red .min)
  | .xsScanadd m ty => some (m, ty, .scanadd)
  | .xsMatch m ty => some (m, ty, .matchOp)
  | _ => none

/-- A trigger of SA: its move and operation (Table 7.1). -/
def saOf : Instr → Option (Mv × SaOp)
  | .saAdd m => some (m, .add)
  | .saSub m => some (m, .sub)
  | .saAnd m => some (m, .and)
  | .saOr m => some (m, .or)
  | .saXor m => some (m, .xor)
  | .saShl m => some (m, .shl)
  | .saShr m => some (m, .shr)
  | .saSar m => some (m, .sar)
  | .saMul m => some (m, .mul)
  | .saCmp m uns c => some (m, .cmp uns c)
  | .saMov m => some (m, .mov)
  | .saLi m => some (m, .li)
  | .saMin m uns => some (m, .min uns)
  | .saMax m uns => some (m, .max uns)
  | _ => none

/-- A queued trigger that only pushes its command: its move and its operation. LOGST, STOP and WAITC, which are performed at their push, stand in
their own statements. -/
def queuedOf : Instr → Option (Mv × QOp)
  | .lgPub m sc => some (m, .pub sc)
  | .lgAcq m sc => some (m, .acq sc)
  | .lgAcqn m sc => some (m, .acqn sc)
  | .lgDrain m => some (m, .drain)
  | .baBinit m => some (m, .ba .binit 0)
  | .baArrive m => some (m, .ba .arrive 0)
  | .baWait m => some (m, .ba .wait 0)
  | .baTest m => some (m, .ba .test 0)
  | .baPbar m => some (m, .ba .pbar 0)
  | .baCbinit m cb => some (m, .ba .cbinit cb.toNat)
  | .baCbresv m cb => some (m, .ba .cbresv cb.toNat)
  | .baCbfill m cb => some (m, .ba .cbfill cb.toNat)
  | .baCbtake m cb => some (m, .ba .cbtake cb.toNat)
  | .baCbfree m cb => some (m, .ba .cbfree cb.toNat)
  | .mxCfg m => some (m, .mxCfg)
  | .mxLdb m bl => some (m, .mxLdb bl.toNat)
  | .mxMmq m bl acc => some (m, .mxMmq bl.toNat acc.toNat)
  | .mxMmw m bl acc => some (m, .mxMmw bl.toNat acc.toNat)
  | .mxZacc m acc => some (m, .mxZacc acc.toNat)
  | .mxStacc m acc => some (m, .mxStacc acc.toNat)
  | .mxRdacc m acc => some (m, .mxRdacc acc.toNat)
  | .mxKat m => some (m, .mxKat)
  | .mxQstat m => some (m, .mxQstat)
  | .gaGidx m => some (m, .gaGidx)
  | .gaGrows m => some (m, .gaGrows)
  | .gaGstat m => some (m, .gaGstat)
  | .sfEx2 m ty => some (m, .sf .ex2 ty)
  | .sfLg2 m ty => some (m, .sf .lg2 ty)
  | .sfRcp m ty => some (m, .sf .rcp ty)
  | .sfRsq m ty => some (m, .sf .rsq ty)
  | .sfSqrt m ty => some (m, .sf .sqrt ty)
  | .sfSinpi m ty => some (m, .sf .sinpi ty)
  | .sfCospi m ty => some (m, .sf .cospi ty)
  | .sfTanh m ty => some (m, .sf .tanh ty)
  | .sfErf m ty => some (m, .sf .erf ty)
  | .sxCopy2d m => some (m, .sx .copy2d 0)
  | .sxCopy2dw m => some (m, .sx .copy2dw 0)
  | .sxLoopcopy m cb => some (m, .sx .loopcopy cb.toNat)
  | .sxLandresv m z => some (m, .sx .landresv z.toNat)
  | .sxLandsend m z => some (m, .sx .landsend z.toNat)
  | .sxLandclr m z => some (m, .sx .landclr z.toNat)
  | .sxZoneinit m z => some (m, .sx .zoneinit z.toNat)
  | _ => none

/-- A load: its move, kind, size, sign extension and post-increment (Table 5.2). -/
def ldOf : Instr → Option (Mv × LdKind × Sz × Bool × Bool)
  | .ldLdg m sz sx pi => some (m, .ldg, sz, sx, pi)
  | .ldLds m sz sx pi => some (m, .lds, sz, sx, pi)
  | .ldLdl m sz sx pi => some (m, .ldl, sz, sx, pi)
  | .ldLdb m sz sx pi => some (m, .ldb, sz, sx, pi)
  | .ldLdsc m sz sx pi => some (m, .ldsc, sz, sx, pi)
  | .ldLdnt m sz sx pi => some (m, .ldnt, sz, sx, pi)
  | _ => none

/-- A store: its move, kind, size and post-increment (Table 5.3). -/
def stOf : Instr → Option (Mv × StKind × Sz × Bool)
  | .stStg m sz pi => some (m, .stg, sz, pi)
  | .stSts m sz pi => some (m, .sts, sz, pi)
  | .stStsc m sz pi => some (m, .stsc, sz, pi)
  | .stStnt m sz pi => some (m, .stnt, sz, pi)
  | _ => none

/-- An atomic: its move, operation, width, scope and order (Table 5.5). -/
def atOf : Instr → Option (Mv × AtOp × AtW × Scope × AOrd)
  | .atAdd m aw sc ord => some (m, .add, aw, sc, ord)
  | .atSub m aw sc ord => some (m, .sub, aw, sc, ord)
  | .atMin m aw sc ord => some (m, .min, aw, sc, ord)
  | .atMax m aw sc ord => some (m, .max, aw, sc, ord)
  | .atMinu m aw sc ord => some (m, .minu, aw, sc, ord)
  | .atMaxu m aw sc ord => some (m, .maxu, aw, sc, ord)
  | .atAnd m aw sc ord => some (m, .and, aw, sc, ord)
  | .atOr m aw sc ord => some (m, .or, aw, sc, ord)
  | .atXor m aw sc ord => some (m, .xor, aw, sc, ord)
  | .atXchg m aw sc ord => some (m, .xchg, aw, sc, ord)
  | .atCas m aw sc ord => some (m, .cas, aw, sc, ord)
  | .atInc m aw sc ord => some (m, .inc, aw, sc, ord)
  | .atFadd m aw sc ord => some (m, .fadd, aw, sc, ord)
  | _ => none

/-- The acting wave with a scalar trigger's source popped and its operand in latch a of its unit (R221). -/
def scalared (s : State) (p w : Wave) (u : PortUnit) (m : Mv) (a : Word) : Wave :=
  { w with io := (popIo s p m w.io).setSlatch u .a a }

/-- Home memory and the SRAM of every core, running or saved, are in canonical form. -/
def State.MemWf (s : State) : Prop :=
  Mem.wf s.home = true ∧ (∀ e ∈ s.cores, Mem.wf e.2.sram = true) ∧ ∀ x ∈ s.saved, Mem.wf x.coreSt.sram = true

end Sys2Proof.Machine
end

