-- ==== Sys2Proof/Certificates/Slice0/Obligations.lean ====
section
/-!
DEFINITION. The statements for the provers. A statement that takes in several rules is the conjunction of claims, each a definition of its own
that cites its rules.
-/
open Sys2Proof
open Sys2Proof.Machine

/-- R18 to R22, R84, R85, R88: within a bundle a register move, an operand-port move and a move to the null sink pop their source and write what
the operand forms say into the acting wave; nothing else of the machine changes. -/
def Claim.PlainMoves : Prop :=
  ∀ (s : State) (p w : Wave), Acts s p w → ∀ (m : Mv),
    (∀ (d : Dst) (fill : BitVec 5), exec (.registerMove m d fill) s =
      .next (s.setWave s.cur (writeDst p m d fill.toNat (srcVal s p m) { w with io := popIo s p m w.io }))) ∧
    (∀ (u : PortUnit) (l : Latch) (fill : BitVec 5), exec (.operandPortWrite m u l fill) s =
      .next (s.setWave s.cur (writePort p m u l fill.toNat (srcVal s p m) { w with io := popIo s p m w.io }))) ∧
    exec (.nullSinkMove m) s = .next (s.setWave s.cur { w with io := popIo s p m w.io })

/-- R19, R20, R22, R34: what a register move changes. A lane register takes the filled lanes where the move is active; a guard register their low
bits, but g0 takes nothing; a scalar or address register the 64 bits of the lowest active lane, or of a scalar source where the guard is
true in some lane, and else keeps its value. Every other register, the flags k and the port state stay. -/
def Claim.RegisterWrites : Prop :=
  ∀ (p w : Wave) (m : Mv) (fill : Nat) (v : SVal),
    (∀ n r L, w.phys = p.phys → L < p.phys → laneAt (Tab.getD (writeDst p m (.v n) fill v w).v r []) L =
      if r = p.physV n ∧ (p.active m).getLsbD L = true then fillLane fill (v.lane L) else laneAt (Tab.getD w.v r []) L) ∧
    (∀ n, { writeDst p m (.v n) fill v w with v := w.v } = w) ∧
    (writeDst p m (.g 0) fill v w = w) ∧
    (∀ n r, n ≠ 0 → Tab.getD (writeDst p m (.g n) fill v w).g r 0 =
      if r = p.physG n then (maskOf (fun L => (v.lane L).getLsbD 0) &&& p.active m) ||| (Tab.getD w.g r 0 &&& ~~~ p.active m)
      else Tab.getD w.g r 0) ∧
    (∀ n, { writeDst p m (.g n) fill v w with g := w.g } = w) ∧
    (∀ n x, v.word p m = some x → (∀ r, (writeDst p m (.s n) fill v w).readS r = if r = n then x else w.readS r) ∧
      { writeDst p m (.s n) fill v w with s := w.s } = w ∧
      (∀ r, (writeDst p m (.a n) fill v w).readA r = if r = n then x else w.readA r) ∧
      { writeDst p m (.a n) fill v w with a := w.a } = w ∧
      (∀ r, (writeDst p m (.spec (.k n)) fill v w).readK r = if r = n then x.getLsbD 0 else w.readK r) ∧
      writeDst p m (.spec .rrb) fill v w = { w with rrb := x.truncate 5 } ∧
      writeDst p m (.spec .lc) fill v w = { w with lc := x } ∧
      writeDst p m (.spec .ec) fill v w = { w with ec := x } ∧
      writeDst p m (.spec .fpc) fill v w = { w with fpc := fpcWrite w.fpc x }) ∧
    (∀ n r, v.word p m = none → writeDst p m (.s n) fill v w = w ∧ writeDst p m (.a n) fill v w = w ∧ writeDst p m (.spec r) fill v w = w)

/-- Register moves, operand-port moves and the null sink: what they write and what they leave. -/
def Obligations.Moves : Prop := Claim.PlainMoves ∧ Claim.RegisterWrites

/-- R26, R29, R109, Table 4.2: every trigger of IA0 and IA1. Its source enters latch a; where it triggers in some lane, one result is in flight to
the unit's port, visible one bundle later. Nothing else of the machine changes. -/
def Claim.IaTriggers : Prop :=
  ∀ (i : Instr) (m : Mv) (u : Bool) (ty : ETy) (op : IaOp) (s : State) (p w : Wave), iaOf i = some (m, u, ty, op) → Acts s p w →
    exec i s = .next (laneNext s p w (if u then .ia1 else .ia0) m (fun a b c L => iaLane op ty (laneAt a L) (laneAt b L) (laneAt c L)))

/-- R26, R29, R116 to R121, Tables 4.3 and 4.5: every trigger of ML and SH, in the same form. -/
def Claim.MlShTriggers : Prop :=
  ∀ (i : Instr) (m : Mv) (u : PortUnit) (f : Lane → Lane → Lane → Lane) (s : State) (p w : Wave), mlShOf i = some (m, u, f) → Acts s p w →
    exec i s = .next (laneNext s p w u m (fun a b c L => f (laneAt a L) (laneAt b L) (laneAt c L)))

/-- Every trigger of IA, ML and SH: operands, latch, result in flight, frame. -/
def Obligations.LaneTriggers : Prop := Claim.IaTriggers ∧ Claim.MlShTriggers

/-- R26, R29, R122 to R128: every trigger of FM0 and FM1, in the same form. -/
def Claim.FmTriggers : Prop :=
  ∀ (i : Instr) (m : Mv) (u : Bool) (ty : ETy) (g : FpCtx → Nat → Nat → Nat → Nat → Nat) (s : State) (p w : Wave),
    fmOf p.fpc i = some (m, u, ty, g) → Acts s p w →
    exec i s = .next (laneNext s p w (if u then .fm1 else .fm0) m
      (fun a b c L => fmLane ty (g (FpCtx.mk' p.fpc p.clock s.slot L)) (laneAt a L) (laneAt b L) (laneAt c L)))

/-- R26, R29, R129 to R139, R218 to R220: the triggers of CH and CV, and every trigger of XS, in the same form. -/
def Claim.ChCvXsTriggers : Prop :=
  ∀ (s : State) (p w : Wave), Acts s p w →
    (∀ m s1 s2 s3, exec (.chChain m s1 s2 s3) s = .next (laneNext s p w .ch m
      (fun a b c L => fmLane .f32 (chainElem s1 s2 s3 (FpCtx.mk' p.fpc p.clock s.slot L)) (laneAt a L) (laneAt b L) (laneAt c L)))) ∧
    (∀ m res src rm, exec (.cvCvt m res src rm) s = .next (laneNext s p w .cv m
      (fun a b c L => cvtLane res src (Rm.mode rm p.fpc) (FpCtx.mk' p.fpc p.clock s.slot L) (laneAt a L) (laneAt b L) (laneAt c L)))) ∧
    (∀ i m ty op, xsOf i = some (m, ty, op) → exec i s = .next (laneNext s p w .xs m
      (fun a b _ L => xsLane op ty p.fpc p.clock s.slot p.width (p.active m) a b L)))

/-- Every trigger of FM, CH, CV and XS: operands, latch, result in flight, frame. -/
def Obligations.FloatTriggers : Prop := Claim.FmTriggers ∧ Claim.ChCvXsTriggers

/-- R29: the results of the exposed units. A result becomes visible in its port in the lanes it was triggered in, once its bound of bundles has
passed, and not before; the other lanes of the port keep what they show. -/
def Obligations.ResultLanding : Prop :=
  (∀ (io : WaveIo) (n : Nat) (f : Flight) (L : Nat), L < n →
    (io.land n f).portLane f.u L = (if f.mask.getLsbD L = true then some (laneAt f.vals L) else io.portLane f.u L) ∧
    ∀ u, u ≠ f.u → (io.land n f).portLane u L = io.portLane u L) ∧
  (∀ (io : WaveIo) (n now : Nat), (∀ f ∈ io.flight, now < f.t + f.bound) → io.landDue n now = io) ∧
  (∀ (io : WaveIo) (n now : Nat) (f : Flight), io.flight = [f] → f.t + f.bound ≤ now →
    io.landDue n now = { io.land n f with flight := [] }) ∧
  (∀ (s : State) (k : Nat) (w : Wave), s.wave? k = some w →
    exec (.exposedResultLand k) s = .next (s.setWave k { w with io := w.io.landDue w.phys w.clock })) ∧
  (unitBound .ia0 = 1 ∧ unitBound .ia1 = 1 ∧ unitBound .sh = 1 ∧ unitBound .sa = 1 ∧ unitBound .sy = 1 ∧ unitBound .cv = 2 ∧ unitBound .xs = 2 ∧
    unitBound .ml = 3 ∧ unitBound .ch = 3 ∧ unitBound .fm0 = 4 ∧ unitBound .fm1 = 4)

/-- R113, Table 4.2: the elements of IA. Sums, differences and NEG are taken modulo 2^w, NOT, AND, OR, XOR and ANDN bit by bit; ADDS, SUBS, NEGS and ABSS clamp to the range of
the type; the six compares, MIN, MAX and AVG go by signedness; SEL takes A where C is not zero; CLZ, POPC and BREV count and turn the bits of A. -/
def Claim.IaElements : Prop :=
  ∀ (ty : ETy) (a b c : Nat), a < 2 ^ ETy.width ty → b < 2 ^ ETy.width ty →
    let w := ETy.width ty
    let x := ETy.read ty a
    let y := ETy.read ty b
    iaElem .add ty a b c = (a + b) % 2 ^ w ∧ (iaElem .sub ty a b c + b) % 2 ^ w = a ∧ (iaElem .neg ty a b c + a) % 2 ^ w = 0 ∧
    iaElem .sub ty a b c < 2 ^ w ∧ iaElem .neg ty a b c < 2 ^ w ∧ iaElem .not ty a b c + a = 2 ^ w - 1 ∧
    (∀ j, (iaElem .and ty a b c).testBit j = (a.testBit j && b.testBit j)) ∧ (∀ j, (iaElem .or ty a b c).testBit j = (a.testBit j || b.testBit j)) ∧
    (∀ j, (iaElem .xor ty a b c).testBit j = (a.testBit j != b.testBit j)) ∧ (∀ j, (iaElem .andn ty a b c).testBit j = (a.testBit j && !b.testBit j)) ∧
    (∀ (op : IaOp) (z : Int), (op, z) ∈ [(IaOp.adds, x + y), (IaOp.subs, x - y), (IaOp.negs, -x), (IaOp.abss, (x.natAbs : Int))] →
      (ETy.imin ty ≤ z → z ≤ ETy.imax ty → ETy.read ty (iaElem op ty a b c) = z) ∧
      (z < ETy.imin ty → ETy.read ty (iaElem op ty a b c) = ETy.imin ty) ∧ (ETy.imax ty < z → ETy.read ty (iaElem op ty a b c) = ETy.imax ty)) ∧
    (iaElem .abs ty a b c = if 0 ≤ x then a else 2 ^ w - a) ∧
    (iaElem .min ty a b c = if x ≤ y then a else b) ∧ (iaElem .max ty a b c = if x ≤ y then b else a) ∧
    (iaElem (.cmp .eq) ty a b c = if a = b then 1 else 0) ∧ (iaElem (.cmp .ne) ty a b c = if a = b then 0 else 1) ∧
    (iaElem (.cmp .lt) ty a b c = if x < y then 1 else 0) ∧ (iaElem (.cmp .le) ty a b c = if x ≤ y then 1 else 0) ∧
    (iaElem (.cmp .gt) ty a b c = if y < x then 1 else 0) ∧ (iaElem (.cmp .ge) ty a b c = if y ≤ x then 1 else 0) ∧
    (iaElem .sel ty a b c = if c = 0 then b else a) ∧
    iaElem .clz ty 0 b c = w ∧ (a ≠ 0 → a < 2 ^ (w - iaElem .clz ty a b c) ∧ 2 ^ (w - 1 - iaElem .clz ty a b c) ≤ a ∧ iaElem .clz ty a b c < w) ∧
    iaElem .popc ty a b c = ((List.range w).filter (fun j => a.testBit j)).length ∧
    (∀ j, j < w → (iaElem .brev ty a b c).testBit j = a.testBit (w - 1 - j)) ∧
    2 * ETy.read ty (iaElem .avg ty a b c) ≤ x + y + 1 ∧ x + y < 2 * ETy.read ty (iaElem .avg ty a b c) + 1

/-- R116, R117, Tables 4.3: the elements of ML. MUL and MAD are taken modulo 2^w, MULHI gives the high half by signedness; MADW multiplies the even elements and adds the wide
element of C, DOT4 four products of bytes and the 32-bit element of C. -/
def Claim.MlElements : Prop :=
  ∀ (ty : ETy) (a b c : Lane),
    let w := ETy.width ty
    let x := fun i => ETy.read ty (elem w a i)
    let y := fun i => ETy.read ty (elem w b i)
    let res := fun (k : Nat) (op : MlOp) (i : Nat) => ((elem k (mlLane op ty a b c) i : Nat) : Int)
    let wide := fun (k j : Nat) => if ETy.signed ty = true then sint k (elem k c j) else ((elem k c j : Nat) : Int)
    (∀ i, i < 128 / w → res w .mul i = x i * y i % ((2 ^ w : Nat) : Int) ∧
      res w .mulhi i = x i * y i / ((2 ^ w : Nat) : Int) % ((2 ^ w : Nat) : Int) ∧
      res w .mad i = (x i * y i + ETy.read ty (elem w c i)) % ((2 ^ w : Nat) : Int)) ∧
    (∀ j, j < 64 / w → res (2 * w) .madw j = (x (2 * j) * y (2 * j) + wide (2 * w) j) % ((2 ^ (2 * w) : Nat) : Int)) ∧
    (∀ j, w = 8 → j < 4 → res 32 .dot4 j = (x (4 * j) * y (4 * j) + x (4 * j + 1) * y (4 * j + 1) + x (4 * j + 2) * y (4 * j + 2) +
      x (4 * j + 3) * y (4 * j + 3) + wide 32 j) % ((2 ^ 32 : Nat) : Int))

/-- R119 to R121, Table 4.5: the elements of SH. The shifts take their count from the low byte of B, at w or beyond they leave zeros or the sign; the rotates move bits round;
BFE and BFI take and put the field that the lane's b latch names; FUNL takes w bits of the pair B, A. -/
def Claim.ShElements : Prop :=
  ∀ (ty : ETy) (a b c : Lane) (i : Nat),
    let w := ETy.width ty
    let x := elem w a i
    let n := elem w b i % 256
    let off := bits b.toNat 7 0
    let len := min (bits b.toNat 15 8) (w - min off w)
    (i < 128 / w →
      elem w (shLane .shl ty a b c) i = (if w ≤ n then 0 else x * 2 ^ n % 2 ^ w) ∧ elem w (shLane .shr ty a b c) i = (if w ≤ n then 0 else x / 2 ^ n) ∧
      (n < w → sint w (elem w (shLane .sar ty a b c) i) = sint w x / ((2 ^ n : Nat) : Int)) ∧
      (w ≤ n → elem w (shLane .sar ty a b c) i = if x.testBit (w - 1) = true then 2 ^ w - 1 else 0) ∧
      (∀ j, j < w → (elem w (shLane .rol ty a b c) i).testBit ((j + n) % w) = x.testBit j ∧
        (elem w (shLane .ror ty a b c) i).testBit j = x.testBit ((j + n) % w)) ∧
      (ETy.signed ty = false → elem w (shLane .bfe ty a b c) i = x / 2 ^ off % 2 ^ len) ∧
      (ETy.signed ty = true → 0 < len → sint w (elem w (shLane .bfe ty a b c) i) = sint len (x / 2 ^ off)) ∧
      (len = 0 → elem w (shLane .bfe ty a b c) i = 0) ∧
      (∀ j, j < w → (elem w (shLane .bfi ty a b c) i).testBit j =
        if off ≤ j ∧ j < off + len then (elem w c i).testBit (j - off) else x.testBit j) ∧
      elem w (shLane .funl ty a b c) i = (elem w b i * 2 ^ w + x) / 2 ^ (elem w c i % 256 % w) % 2 ^ w)

/-- The element results of IA, ML and SH, operation by operation. -/
def Obligations.LaneElements : Prop := Claim.IaElements ∧ Claim.MlElements ∧ Claim.ShElements

/-- R50, R53, R63 to R66, R123 to R128: rounding, and the elements of FM. A magnitude rounds to the nearest integer, ties to even, or to the side that the mode names; the value of a
code that is no NaN rounds back to that code. FADD to FNMA round the exact sum or product once; an FMIN or FMAX of two numbers is one of them; FCMP by value, zeros equal, NaN unordered; FSGN on the sign alone. -/
def Claim.FloatElements : Prop :=
  (∀ (num den : Nat) (neg : Bool) (draw : Unit → Nat), 0 < den →
    let k := fun rm => roundMag num den rm neg draw
    (2 * num ≤ 2 * k .rne * den + den ∧ 2 * k .rne * den ≤ 2 * num + den ∧
      ((2 * num = 2 * k .rne * den + den ∨ 2 * k .rne * den = 2 * num + den) → k .rne % 2 = 0)) ∧
    (k .rtz * den ≤ num ∧ num < k .rtz * den + den) ∧
    (∀ rm, (rm = .rup ∧ neg = true) ∨ (rm = .rdn ∧ neg = false) → k rm = k .rtz) ∧
    (∀ rm, (rm = .rup ∧ neg = false) ∨ (rm = .rdn ∧ neg = true) → num ≤ k rm * den ∧ k rm * den < num + den) ∧
    (k .sr = if draw () < num % den * 256 / den then k .rtz + 1 else k .rtz)) ∧
  (∀ (ty : ETy) (c : Nat) (rm : RMode) (o : RoundOpts) (draw : Unit → Nat), ty.inF = true ∨ (fmtOf ty).narrow = true →
    let f := fmtOf ty
    c < 2 ^ f.w → (f.value c).isNan = false → (o.fres = false ∨ f.narrow = true ∨ f.isSub c = false) → roundTo f (f.value c) rm o draw = c) ∧
  (∀ (ty : ETy) (rm : RMode) (x : FpCtx) (e a b c : Nat), ty.inF = true → a < 2 ^ (fmtOf ty).w → b < 2 ^ (fmtOf ty).w → c < 2 ^ (fmtOf ty).w → fpcFin x.fpc = false →
    let f := fmtOf ty
    let out := fun v => roundTo f v rm (RoundOpts.ofFpc x.fpc) (fun _ => draw8 x.at' e)
    fmElem .fadd f rm x e a b c = out ((f.value a).add (f.value b) rm) ∧ fmElem .fsub f rm x e a b c = out ((f.value a).add (f.value b).neg rm) ∧
    fmElem .fmul f rm x e a b c = out ((f.value a).mul (f.value b)) ∧ fmElem .fma f rm x e a b c = out (((f.value a).mul (f.value b)).add (f.value c) rm) ∧
    fmElem .fnma f rm x e a b c = out ((f.value c).add ((f.value a).mul (f.value b)).neg rm) ∧
    (fpcFres x.fpc = false → (f.value a).isNan = false → (f.value b).isNan = false → ∀ prop : Bool,
      (fminmaxElem false prop f x a b = a ∨ fminmaxElem false prop f x a b = b) ∧
      (f.value a).lt (f.value (fminmaxElem false prop f x a b)) = false ∧ (f.value b).lt (f.value (fminmaxElem false prop f x a b)) = false ∧
      (fminmaxElem true prop f x a b = a ∨ fminmaxElem true prop f x a b = b) ∧
      (f.value (fminmaxElem true prop f x a b)).lt (f.value a) = false ∧ (f.value (fminmaxElem true prop f x a b)).lt (f.value b) = false) ∧
    (fpcFres x.fpc = false → (f.value a).isNan = true → (f.value b).isNan = false → ∀ larger : Bool,
      fminmaxElem larger false f x a b = b ∧ fminmaxElem larger false f x b a = b ∧ fminmaxElem larger true f x a b = f.nan ∧
      fminmaxElem larger true f x b a = f.nan) ∧
    ((f.value a).isNan = true ∨ (f.value b).isNan = true → ∀ k : FCond, fcmpElem k f x a b = if k = .ne ∨ k = .un then 1 else 0) ∧
    ((f.value a).isNan = false → (f.value b).isNan = false →
      fcmpElem .lt f x a b = ((f.value a).lt (f.value b)).toNat ∧ fcmpElem .gt f x a b = ((f.value b).lt (f.value a)).toNat ∧
      fcmpElem .le f x a b + fcmpElem .gt f x a b = 1 ∧ fcmpElem .ge f x a b + fcmpElem .lt f x a b = 1 ∧
      fcmpElem .eq f x a b + fcmpElem .ne f x a b = 1 ∧ (fcmpElem .eq f x a b = 1 ↔ fcmpElem .lt f x a b = 0 ∧ fcmpElem .gt f x a b = 0) ∧
      fcmpElem .ord f x a b = 1 ∧ fcmpElem .un f x a b = 0) ∧
    fsgnElem .abs f x a = a % f.signBit ∧ fsgnElem .nabs f x a = a % f.signBit + f.signBit ∧
    (fsgnElem .neg f x a = if a < f.signBit then a + f.signBit else a - f.signBit)) ∧
  (∀ v : XVal, v.isNan = false → v.add .nan .rne = .nan ∧ v.mul .nan = .nan ∧ XVal.nan.add v .rne = .nan ∧ XVal.nan.mul v = .nan) ∧
  (∀ (f : Fmt) (rm : RMode) (o : RoundOpts) (draw : Unit → Nat), roundTo f .nan rm o draw = f.nan)

/-- R50, R66, R123 to R128, Tables 2.6 and 4.6: the rest of FM. Under FIN every operand but the exponent of FSCALE is read with its subnormals as zeros of their sign; under FRES a subnormal result is such a zero. FRINT rounds a number to an
integer of its sign, FSCALE rounds A times 2 to the power B; both keep infinities and zeros. FMIN and FMAX take −0 for the smaller zero; FCLASS names the class of the code in one bit. -/
def Claim.FloatCorners : Prop :=
  ∀ (ty : ETy) (rm : RMode) (x : FpCtx) (e a b c : Nat), ty.inF = true → a < 2 ^ (fmtOf ty).w → b < 2 ^ (fmtOf ty).w → c < 2 ^ (fmtOf ty).w →
    let f := fmtOf ty
    let mag := fun (n : Nat) => n % f.signBit
    let z := fun (n : Nat) => if 0 < mag n ∧ mag n < 2 ^ f.m then n - mag n else n
    let y : FpCtx := { x with fpc := x.fpc &&& ~~~ 0x10#64 }
    let u : FpCtx := { x with fpc := x.fpc &&& ~~~ 0x20#64 }
    let draw := fun (_ : Unit) => draw8 x.at' e
    let out := fun v => roundTo f v rm (RoundOpts.ofFpc x.fpc) draw
    (fpcFin x.fpc = false → x.code f a = a) ∧
    (fpcFin x.fpc = true → x.code f a = z a ∧ (∀ op, fmElem op f rm x e a b c = fmElem op f rm y e (z a) (if op = .fscale then b else z b) (z c)) ∧
      (∀ l p, fminmaxElem l p f x a b = fminmaxElem l p f y (z a) (z b)) ∧ (∀ k, fcmpElem k f x a b = fcmpElem k f y (z a) (z b)) ∧
      ∀ k, fsgnElem k f x a = fsgnElem k f y (z a)) ∧
    (fpcFres x.fpc = true → (∀ l p, fminmaxElem l p f x a b = z (fminmaxElem l p f u a b)) ∧
      ∀ op, fmElem op f rm x e a b c = if op = .frint then fmElem op f rm u e a b c else z (fmElem op f rm u e a b c)) ∧
    (fpcFin x.fpc = false →
      ((f.value a).isNan = true → fmElem .frint f rm x e a b c = f.nan ∧ fmElem .fscale f rm x e a b c = f.nan) ∧
      ((f.value a = .inf false ∨ f.value a = .inf true ∨ (f.value a).isZero = true) → fmElem .frint f rm x e a b c = a ∧ fmElem .fscale f rm x e a b c = a) ∧
      (∀ neg num den ex, f.value a = .fin neg num den ex → num ≠ 0 →
        fmElem .fscale f rm x e a b c = out (.fin neg num den (ex + (BitVec.ofNat f.w b).toInt)) ∧
        (let r := f.value (fmElem .frint f rm x e a b c);
          r.eq (.fin neg (roundIntegral neg num den ex rm draw).natAbs 1 0) = true ∧ r.isNeg = neg))) ∧
    (∀ (neg : Bool) (num den : Nat) (ex : Int), (roundIntegral neg num den ex rm draw).natAbs =
        roundMag (num * 2 ^ ex.toNat) (den * 2 ^ (-ex).toNat) rm neg draw ∧
      (if neg = true then roundIntegral neg num den ex rm draw ≤ 0 else 0 ≤ roundIntegral neg num den ex rm draw)) ∧
    (∀ prop : Bool, fminmaxElem false prop f x 0 f.signBit = f.signBit ∧ fminmaxElem false prop f x f.signBit 0 = f.signBit ∧
      fminmaxElem true prop f x 0 f.signBit = 0 ∧ fminmaxElem true prop f x f.signBit 0 = 0) ∧
    classWord f a = (let minus := f.signBit ≤ a;
      if f.infCode < mag a then 256 else if mag a = f.infCode then (if minus then 1 else 128) else if mag a = 0 then (if minus then 8 else 16)
      else if mag a < 2 ^ f.m then (if minus then 4 else 32) else if minus then 2 else 64)

/-- R129, R130, R132 to R136, R49, R66, Table 4.7: the elements of CH and CV. A chain of passes gives its element, an arithmetic stage, MAX, MIN and CLAMP what FM gives for FP32, RBF the BF16 code; a stage after the first takes the
result of the one before; FIN reads subnormal operands as zeros, FRES writes each stage's so. A conversion between integers clamps; BF16 to FP32 keeps every number; a float to an integer takes NaN to zero and clamps; the
elements go where R132 places them, and a narrowing keeps those of the c latch, bits 7:6 of a six-bit one zero (Log 98, DEDUCED). -/
def Claim.ChainAndConvert : Prop :=
  (∀ (s1 s2 s3 : Stage) (x : FpCtx) (i a b c : Nat), fpcFin x.fpc = false → a < 2 ^ 32 → b < 2 ^ 32 → c < 2 ^ 32 →
    (fpcFres x.fpc = false → chainElem .pass .pass .pass x i a b c = if (fp32.value a).isNan = true then fp32.nan else a) ∧
    chainElem s1 s2 s3 x i a b c = stageElem s3 x (8 + i) (stageElem s2 x (4 + i) (stageElem s1 x i a b c) b c) b c ∧
    stageElem .add x i a b c = fmElem .fadd fp32 (fpcRm x.fpc) x i a b c ∧ stageElem .sub x i a b c = fmElem .fsub fp32 (fpcRm x.fpc) x i a b c ∧
    stageElem .rsub x i a b c = fmElem .fsub fp32 (fpcRm x.fpc) x i b a c ∧ stageElem .mulb x i a b c = fmElem .fmul fp32 (fpcRm x.fpc) x i a b c ∧
    stageElem .mulc x i a b c = fmElem .fmul fp32 (fpcRm x.fpc) x i a c b ∧ stageElem .addc x i a b c = fmElem .fadd fp32 (fpcRm x.fpc) x i a c b ∧
    (fpcFres x.fpc = false → stageElem .pass x i a b c = (if (fp32.value a).isNan = true then fp32.nan else a) ∧
      stageElem .abs x i a b c = (if (fp32.value a).isNan = true then fp32.nan else a % 2 ^ 31) ∧
      stageElem .relu x i a b c = (if (fp32.value a).isNan = false ∧ a < 2 ^ 31 then a else 0) ∧
      stageElem .clamp x i a b c = fminmaxElem false false fp32 x (fminmaxElem true false fp32 x a b) c) ∧
    stageElem .max x i a b c = fminmaxElem true false fp32 x a b ∧ stageElem .min x i a b c = fminmaxElem false false fp32 x a b ∧
    stageElem .rbf x i a b c = 2 ^ 16 * roundTo bf16 (fp32.value a) (fpcRm x.fpc) (RoundOpts.ofFpc x.fpc) (fun _ => draw8 x.at' i)) ∧
  (∀ (s1 s2 s3 : Stage) (x : FpCtx) (i a b c : Nat), a < 2 ^ 32 → b < 2 ^ 32 → c < 2 ^ 32 →
    let z := fun (n : Nat) => if 0 < n % 2 ^ 31 ∧ n % 2 ^ 31 < 2 ^ 23 then n - n % 2 ^ 31 else n
    (fpcFin x.fpc = true → chainElem s1 s2 s3 x i a b c = chainElem s1 s2 s3 { x with fpc := x.fpc &&& ~~~ 0x10#64 } i (z a) (z b) (z c)) ∧
    (fpcFres x.fpc = true → stageElem s1 x i a b c = z (stageElem s1 { x with fpc := x.fpc &&& ~~~ 0x20#64 } i a b c))) ∧
  (∀ (res src : ETy) (rm : RMode) (x : FpCtx) (slot e a : Nat), src.isInt = true → res.isInt = true → src.isBfp = false →
    let v := ETy.read src a
    let r := ETy.read res (cvtElem res src rm x slot e a)
    (ETy.imin res ≤ v → v ≤ ETy.imax res → r = v) ∧ (v < ETy.imin res → r = ETy.imin res) ∧ (ETy.imax res < v → r = ETy.imax res)) ∧
  (∀ (rm : RMode) (x : FpCtx) (slot e a : Nat), a < 2 ^ 16 → fpcFin x.fpc = false → fpcFres x.fpc = false →
    cvtElem .f32 .bf16 rm x slot e a = if (bf16.value a).isNan = true then fp32.nan else a * 2 ^ 16) ∧
  (∀ (res src : ETy) (rm : RMode) (x : FpCtx) (a b c : Lane), (src.isBfp = false ∨ res ≠ .n16) →
    let ws := ETy.width src
    let wr := ETy.width res
    let p := bits b.toNat 3 0
    let conv := fun (e j : Nat) => cvtElem res src rm x (bits b.toNat 31 16) e (elem ws a j) % 2 ^ wr
    let out := elem wr (cvtLane res src rm x a b c)
    (∀ j, ws = wr → j < 128 / wr → out j = conv j j) ∧
    (∀ j, ws < wr → j < 128 / wr → out j = conv j (j * (wr / ws) + p % (wr / ws))) ∧
    (∀ r, wr < ws → r < 128 / wr →
      out r = if r % (ws / wr) = p % (ws / wr) then conv r (r / (ws / wr)) else if res = .k6a ∨ res = .k6b then elem wr c r % 2 ^ 6 else elem wr c r))

/-- The element results of FM, CH and CV: rounding, chains, conversion (6-bit results: the model's reading, Log 98). -/
def Obligations.FloatElements : Prop := Claim.FloatElements ∧ Claim.FloatCorners ∧ Claim.ChainAndConvert

/-- R50, R53, R56, R57, R66, R133 to R135, R137 to R139: what CV makes of one element. A float or an integer to a float rounds its value once; a float to an integer takes NaN to zero, an infinity to the end of the range, and else its rounded
value, clamped. Under FIN an IEEE source's subnormals are zeros. A BFP pack rounds x over the block's scale and clamps, zero under a special bar; an unpack rounds the mantissa times the scale. Scale extract finds the least bar that holds
every magnitude. -/
def Obligations.Conversions : Prop :=
  ∀ (res src : ETy) (rm : RMode) (x : FpCtx) (slot e a : Nat), a < 2 ^ ETy.width src → slot < 2 ^ 16 →
    let draw := fun (_ : Unit) => draw8 x.at' e
    let v := (fmtOf src).value a
    let r := cvtElem res src rm x slot e a
    let out := fun v => roundTo (fmtOf res) v rm (RoundOpts.ofFpc x.fpc) draw
    let asInt := fun (w n : Nat) => (BitVec.ofNat w n).toInt
    let E := slot / 16 % 256
    let F := slot % 16
    let special := slot / 2 ^ 12 ≠ 0 ∨ E = 255 ∨ slot = 0
    (src.inF = true → fpcFin x.fpc = true → r = cvtElem res src rm { x with fpc := x.fpc &&& ~~~ 0x10#64 } slot e
      (if (fmtOf src).isSub a = true then a - a % (fmtOf src).signBit else a)) ∧
    (src.isFloat = true → res.isFloat = true → (fpcFin x.fpc = false ∨ src.inF = false) → r = out v) ∧
    (src.isInt = true → res.isFloat = true → r = out (.fin (decide (ETy.read src a < 0)) (ETy.read src a).natAbs 1 0)) ∧
    (src.inF = true → res.isInt = true → fpcFin x.fpc = false →
      (v = .nan → r = 0) ∧ (v = .inf false → ETy.read res r = ETy.imax res) ∧ (v = .inf true → ETy.read res r = ETy.imin res) ∧
      (∀ neg num den ex, v = .fin neg num den ex →
        ETy.read res r = max (ETy.imin res) (min (ETy.imax res) (roundIntegral neg num den ex rm draw)))) ∧
    (src = .f32 → res.isBfp = true → fpcFin x.fpc = false →
      let m := res.bfpM
      let lo : Int := -2 ^ (m - 1)
      let hi : Int := 2 ^ (m - 1) - 1
      let q := asInt (ETy.width res) r
      (special ∨ v = .nan → r = 0) ∧ (¬ special → v = .inf false → q = hi) ∧ (¬ special → v = .inf true → q = lo) ∧
      (∀ neg num den ex, ¬ special → v = .fin neg num den ex →
        q = max lo (min hi (roundIntegral neg num (den * (16 + F)) (ex - ((E : Int) - 131) + ((m : Int) - 1)) rm draw)))) ∧
    (src.isBfp = true → res.inF = true →
      let m := src.bfpM
      let k := asInt m a
      (slot / 2 ^ 12 ≠ 0 ∨ E = 255 → r = (fmtOf res).nan) ∧ (slot = 0 → r = 0) ∧
      (¬ special → r = out (.fin (decide (k < 0)) (k.natAbs * (16 + F)) 1 ((E : Int) - 131 - ((m : Int) - 1))))) ∧
    (src.isBfp = true → fpcFin x.fpc = false → ∀ A b c : Lane,
      let m := src.bfpM
      let mags := (List.range 4).map (fun i => fp32.value (elem 32 A i % 2 ^ 31))
      let holds := fun (n : Nat) => ∀ y ∈ mags, XVal.lt (.fin false ((2 ^ (m - 1) - 1) * (16 + n % 16)) 1 ((n / 16 : Nat) - 131 - ((m : Int) - 1))) y = false
      ∃ n, cvtLane .n16 src rm x A b c = BitVec.ofNat 128 n ∧ n < 2 ^ 16 ∧
        ((∃ y ∈ mags, y.isNan = true) → n = 0x0FF0) ∧ ((∀ y ∈ mags, y.isZero = true) → n = 0) ∧
        ((∀ y ∈ mags, y.isNan = false) → (∃ y ∈ mags, y.isZero = false) → 0 < n ∧ n ≤ 0xFEF ∧ (∀ k, 0 < k → k < n → ¬ holds k) ∧ (holds n ∨ n = 0xFEF)))

/-- R72, R73, R218 to R220, Table 6.14: the results of XS. The shuffles read the source of another lane of the width, or their own where there is none; votes, ballots and matches range
over the active lanes; an integer REDADD gives their sum modulo 2^w, REDMAX and REDMIN the largest and smallest of them, SCANADD the sum up to the own lane; a floating reduction of one active
lane gives its element, a NaN canonical (the model's reading, Log 20). -/
def Claim.CrossElements : Prop :=
  ∀ (ty : ETy) (fpc : Word) (t slot width : Nat) (act : BitVec 64) (a b : List Lane) (L : Nat), (width = 16 ∨ width = 32 ∨ width = 64) → L < width →
    (∀ J, act.getLsbD J = true → J < width) →
    let j := bits (laneAt b L).toNat 5 0
    let x := fun op => xsLane op ty fpc t slot width act a b L
    let w := ETy.width ty
    let el := fun (J e : Nat) => elem w (laneAt a J) e
    x .shfl = (if j < width then laneAt a j else laneAt a L) ∧ x .shflup = (if j ≤ L then laneAt a (L - j) else laneAt a L) ∧
    x .shfldn = (if L + j < width then laneAt a (L + j) else laneAt a L) ∧ x .shflx = (if L ^^^ j < width then laneAt a (L ^^^ j) else laneAt a L) ∧
    (∀ K, lowest act = some K → x .bcast = if bits (laneAt b K).toNat 5 0 < width then laneAt a (bits (laneAt b K).toNat 5 0) else laneAt a L) ∧
    (x .voteany = 1 ↔ ∃ J, act.getLsbD J = true ∧ (laneAt a J).getLsbD 0 = true) ∧
    (x .voteall = 1 ↔ ∀ J, act.getLsbD J = true → (laneAt a J).getLsbD 0 = true) ∧ (x .voteany = 0 ∨ x .voteany = 1) ∧ (x .voteall = 0 ∨ x .voteall = 1) ∧
    (∀ J, (x .ballot).getLsbD J = (act.getLsbD J && (laneAt a J).getLsbD 0)) ∧
    (∀ J, (x .matchOp).getLsbD J = (act.getLsbD J && el J 0 == el L 0)) ∧
    (ty.inF = false → ∀ e, e < 128 / w →
      elem w (x (.red .add)) e = ((lanesOf act).map (fun J => el J e)).sum % 2 ^ w ∧
      elem w (x .scanadd) e = (((lanesOf act).filter (fun J => decide (J ≤ L))).map (fun J => el J e)).sum % 2 ^ w ∧
      (act ≠ 0 → (∃ J, act.getLsbD J = true ∧ elem w (x (.red .max)) e = el J e) ∧ (∃ J, act.getLsbD J = true ∧ elem w (x (.red .min)) e = el J e)) ∧
      (∀ J, act.getLsbD J = true → ETy.read ty (el J e) ≤ ETy.read ty (elem w (x (.red .max)) e) ∧
        ETy.read ty (elem w (x (.red .min)) e) ≤ ETy.read ty (el J e))) ∧
    (ty.inF = true → fpcFin fpc = false → ∀ K, lanesOf act = [K] → ∀ (op : XsRed) (e : Nat), e < 128 / w →
      elem w (x (.red op)) e = if ((fmtOf ty).value (el K e)).isNan = true then (fmtOf ty).nan else el K e)

/-- R66, R72, R73, R125, R220: floating reductions and scans of XS. The tree of R72 is any table of nodes in which a node of one lane holds its element after FIN, if the lane is active, and a node of 2^(k+1) lanes combines its two children, or is the one
that is present. REDADD rounds the sum of the children, a draw taken for the lowest lane of the right one; REDMAX and REDMIN choose. SCANADD folds the blocks of lanes 0 to L, largest first, in the same way. A NaN is written
canonical (the model's reading, Log 20). -/
def Claim.CrossTrees : Prop :=
  ∀ (ty : ETy) (fpc : Word) (t slot n : Nat) (act : BitVec 64) (a b : List Lane) (L e : Nat) (op : XsRed) (node : Nat → Nat → Option Nat) (fold : Nat → Option Nat),
    ty.inF = true → (n = 4 ∨ n = 5 ∨ n = 6) → L < 2 ^ n → (∀ J, act.getLsbD J = true → J < 2 ^ n) → e < 128 / ETy.width ty →
    let f := fmtOf ty
    let x := fun o => elem (ETy.width ty) (xsLane o ty fpc t slot (2 ^ n) act a b L) e
    let leaf := fun J => let c := elem (ETy.width ty) (laneAt a J) e
      if fpcFin fpc = true ∧ f.isSub c = true then c - c % f.signBit else c
    let at' := fun lane => ({ seed := fpcSeed fpc, t := t, slot := slot, lane := lane } : DrawAt)
    let comb := fun (o : XsRed) (lane l r : Nat) =>
      let chosen := fun larger => fminmaxElem larger false f { fpc := fpc &&& ~~~ 0x10#64, at' := at' lane } l r
      match o with
      | .add => roundTo f ((f.value l).add (f.value r) (fpcRm fpc)) (fpcRm fpc) (RoundOpts.ofFpc fpc) (fun _ => draw8 (at' lane) e)
      | .max => chosen true
      | .min => chosen false
    let join := fun (o : XsRed) (lane : Nat) (l r : Option Nat) =>
      match l, r with
      | some l, some r => some (comb o lane l r)
      | some l, none => some l
      | none, r => r
    let canon := fun (v : Option Nat) => if (f.value (v.getD 0)).isNan = true then f.nan else v.getD 0
    let tree := fun o => (∀ J, node 0 J = if act.getLsbD J = true then some (leaf J) else none) ∧
      ∀ k J, node (k + 1) J = join o (J + 2 ^ k) (node k J) (node k (J + 2 ^ k))
    (tree op → x (.red op) = canon (node n 0)) ∧
    (tree .add → fold 7 = none → (∀ k, k < 7 → fold k =
        let base := (L + 1) / 2 ^ (k + 1) * 2 ^ (k + 1)
        if (L + 1).testBit k = true then join .add base (fold (k + 1)) (node k base) else fold (k + 1)) →
      x .scanadd = canon (fold 0))

/-- The results of XS: shuffles, reductions, scans and votes (a floating NaN passed on is written canonical: the model's reading, Log 20). -/
def Obligations.CrossElements : Prop := Claim.CrossElements ∧ Claim.CrossTrees

/-- R115: the carry chain. For the type u of an element width w and the type v of the same width that is signed, ADC of u gives the low w bits of
A + B + carry and ADC of v the carry out; SBB the difference and the borrow. -/
def Obligations.CarryChain : Prop :=
  ∀ (u v : ETy) (a b c : Nat), ETy.signed u = false → ETy.signed v = true → ETy.width u = ETy.width v →
    a < 2 ^ ETy.width u → b < 2 ^ ETy.width u →
    iaElem .adc u a b c + 2 ^ ETy.width u * iaElem .adc v a b c = a + b + c % 2 ∧
    ((iaElem .sbb u a b c : Nat) : Int) - ((2 ^ ETy.width u * iaElem .sbb v a b c : Nat) : Int) = (a : Int) - b - ((c % 2 : Nat) : Int) ∧
    iaElem .adc u a b c < 2 ^ ETy.width u ∧ iaElem .sbb u a b c < 2 ^ ETy.width u ∧ iaElem .adc v a b c ≤ 1 ∧ iaElem .sbb v a b c ≤ 1

/-- R121: PERM selects bytes: byte k of the result is 0x00 when bit 7 of byte k of C is set, and else byte j of the 32 bytes of B and A together, A's first, where j is bits 4:0 of that byte
of C, whatever its bits 6:5. -/
def Obligations.BytePermute : Prop :=
  ∀ (ty : ETy) (a b c : Lane) (k : Nat), k < 16 →
    let control := elem 8 c k
    let pair := fun (j : Nat) => (b.toNat * 2 ^ 128 + a.toNat) / 2 ^ (8 * j) % 2 ^ 8
    elem 8 (shLane .perm ty a b c) k = if control.testBit 7 = true then 0 else pair (control % 32)

/-- R221 to R225, Table 7.1: every trigger of SA. Where it takes effect and no higher slot of the bundle triggers SA, its operand is in latch a and
its result in flight to SA.r, visible one bundle later; else its source has been popped and nothing more has happened. -/
def Claim.SaTriggers : Prop :=
  ∀ (i : Instr) (m : Mv) (op : SaOp) (s : State) (p w : Wave), saOf i = some (m, op) → Acts s p w →
    (∀ a, scalarOp s p s.slot m = some a → scalarLater s p .sa = false →
      exec i s = .next (s.setWave s.cur { w with io := scalarIo s p .sa a (saResult op a (w.io.slatch .sa).b) (popIo s p m w.io) })) ∧
    (scalarOp s p s.slot m = none ∨ scalarLater s p .sa = true →
      exec i s = .next (s.setWave s.cur { w with io := popIo s p m w.io }))

/-- R224, R225, Table 7.1: the results of SA, modulo 2^64. The shift count is the low byte of B; CMP, MIN and MAX go by signedness, or by none under the unsigned bit. -/
def Claim.SaElements : Prop :=
  ∀ (a b : Word),
    let n := b.toNat % 256
    (saResult .add a b).toNat = (a.toNat + b.toNat) % 2 ^ 64 ∧ ((saResult .sub a b).toNat + b.toNat) % 2 ^ 64 = a.toNat ∧
    (saResult .mul a b).toNat = a.toNat * b.toNat % 2 ^ 64 ∧
    (∀ j, (saResult .and a b).getLsbD j = (a.getLsbD j && b.getLsbD j) ∧ (saResult .or a b).getLsbD j = (a.getLsbD j || b.getLsbD j) ∧
      (saResult .xor a b).getLsbD j = (a.getLsbD j != b.getLsbD j)) ∧
    (saResult .shl a b).toNat = (if 64 ≤ n then 0 else a.toNat * 2 ^ n % 2 ^ 64) ∧ (saResult .shr a b).toNat = (if 64 ≤ n then 0 else a.toNat / 2 ^ n) ∧
    (n < 64 → (saResult .sar a b).toInt = a.toInt / ((2 ^ n : Nat) : Int)) ∧ (64 ≤ n → (saResult .sar a b).toInt = if a.toInt < 0 then -1 else 0) ∧
    (∀ (uns : Bool),
      let x : Int := if uns = true then (a.toNat : Int) else a.toInt
      let y : Int := if uns = true then (b.toNat : Int) else b.toInt
      saResult (.cmp uns .eq) a b = (if a = b then 1 else 0) ∧ saResult (.cmp uns .ne) a b = (if a = b then 0 else 1) ∧
      saResult (.cmp uns .lt) a b = (if x < y then 1 else 0) ∧ saResult (.cmp uns .le) a b = (if x ≤ y then 1 else 0) ∧
      saResult (.cmp uns .gt) a b = (if y < x then 1 else 0) ∧ saResult (.cmp uns .ge) a b = (if y ≤ x then 1 else 0) ∧
      saResult (.min uns) a b = (if x ≤ y then a else b) ∧ saResult (.max uns) a b = (if x ≤ y then b else a)) ∧
    saResult .mov a b = a ∧ (saResult .li a b).toNat = a.toNat % 2 ^ 40 * 2 ^ 24 + b.toNat % 2 ^ 24

/-- Every trigger of SA: its result by operation, the latch, what happens where the guard or a later slot stops it. -/
def Obligations.ScalarTriggers : Prop := Claim.SaTriggers ∧ Claim.SaElements

/-- R23, R26 to R28, R35: every trigger of LG, BA, MX, GA, SF and SX that pushes a command. Where it triggers in some lane, one command is pushed with the
operands, the time, the slot and the FPC of the trigger; what a push does is stated by PushedCommand. Where it triggers in no lane its source is
popped and latched and nothing is pushed. -/
def Claim.QueuedTriggers : Prop :=
  ∀ (s : State) (p w : Wave), Acts s p w → ∀ (m : Mv),
    (trigMask s p .lg m ≠ 0 →
      (∀ sc, exec (.lgPub m sc) s = .next (pushed s p w m (.pub sc)) ∧ exec (.lgAcq m sc) s = .next (pushed s p w m (.acq sc)) ∧
        exec (.lgAcqn m sc) s = .next (pushed s p w m (.acqn sc))) ∧
      exec (.lgDrain m) s = .next (pushed s p w m .drain)) ∧
    (trigMask s p .ba m ≠ 0 →
      exec (.baBinit m) s = .next (pushed s p w m (.ba .binit 0)) ∧ exec (.baArrive m) s = .next (pushed s p w m (.ba .arrive 0)) ∧
      exec (.baWait m) s = .next (pushed s p w m (.ba .wait 0)) ∧ exec (.baTest m) s = .next (pushed s p w m (.ba .test 0)) ∧
      exec (.baPbar m) s = .next (pushed s p w m (.ba .pbar 0)) ∧
      ∀ cb : BitVec 4, exec (.baCbinit m cb) s = .next (pushed s p w m (.ba .cbinit cb.toNat)) ∧
        exec (.baCbresv m cb) s = .next (pushed s p w m (.ba .cbresv cb.toNat)) ∧
        exec (.baCbfill m cb) s = .next (pushed s p w m (.ba .cbfill cb.toNat)) ∧
        exec (.baCbtake m cb) s = .next (pushed s p w m (.ba .cbtake cb.toNat)) ∧
        exec (.baCbfree m cb) s = .next (pushed s p w m (.ba .cbfree cb.toNat))) ∧
    (trigMask s p .mx m ≠ 0 →
      exec (.mxCfg m) s = .next (pushed s p w m .mxCfg) ∧
      (∀ bl, exec (.mxLdb m bl) s = .next (pushed s p w m (.mxLdb bl.toNat))) ∧
      (∀ bl acc, exec (.mxMmq m bl acc) s = .next (pushed s p w m (.mxMmq bl.toNat acc.toNat)) ∧
        exec (.mxMmw m bl acc) s = .next (pushed s p w m (.mxMmw bl.toNat acc.toNat))) ∧
      (∀ acc, exec (.mxZacc m acc) s = .next (pushed s p w m (.mxZacc acc.toNat)) ∧
        exec (.mxStacc m acc) s = .next (pushed s p w m (.mxStacc acc.toNat)) ∧
        exec (.mxRdacc m acc) s = .next (pushed s p w m (.mxRdacc acc.toNat))) ∧
      exec (.mxKat m) s = .next (pushed s p w m .mxKat) ∧ exec (.mxQstat m) s = .next (pushed s p w m .mxQstat)) ∧
    (trigMask s p .ga m ≠ 0 →
      exec (.gaGidx m) s = .next (pushed s p w m .gaGidx) ∧ exec (.gaGrows m) s = .next (pushed s p w m .gaGrows) ∧
      exec (.gaGstat m) s = .next (pushed s p w m .gaGstat)) ∧
    (trigMask s p .sf m ≠ 0 → ∀ ty,
      exec (.sfEx2 m ty) s = .next (pushed s p w m (.sf .ex2 ty)) ∧ exec (.sfLg2 m ty) s = .next (pushed s p w m (.sf .lg2 ty)) ∧
      exec (.sfRcp m ty) s = .next (pushed s p w m (.sf .rcp ty)) ∧ exec (.sfRsq m ty) s = .next (pushed s p w m (.sf .rsq ty)) ∧
      exec (.sfSqrt m ty) s = .next (pushed s p w m (.sf .sqrt ty)) ∧ exec (.sfSinpi m ty) s = .next (pushed s p w m (.sf .sinpi ty)) ∧
      exec (.sfCospi m ty) s = .next (pushed s p w m (.sf .cospi ty)) ∧ exec (.sfTanh m ty) s = .next (pushed s p w m (.sf .tanh ty)) ∧
      exec (.sfErf m ty) s = .next (pushed s p w m (.sf .erf ty))) ∧
    (trigMask s p .sx m ≠ 0 →
      (∀ cb : BitVec 4, exec (.sxLoopcopy m cb) s = .next (pushed s p w m (.sx .loopcopy cb.toNat))) ∧
      ∀ z : BitVec 3, exec (.sxLandresv m z) s = .next (pushed s p w m (.sx .landresv z.toNat)) ∧
        exec (.sxLandsend m z) s = .next (pushed s p w m (.sx .landsend z.toNat)) ∧
        exec (.sxLandclr m z) s = .next (pushed s p w m (.sx .landclr z.toNat)) ∧
        exec (.sxZoneinit m z) s = .next (pushed s p w m (.sx .zoneinit z.toNat))) ∧
    ∀ (i : Instr) (op : QOp), queuedOf i = some (m, op) → trigMask s p op.unit m = 0 → exec i s = .next (latched s p w op.unit m)

/-- R203, R205: COPY2D and COPY2DW push their command, or, where they trigger in no lane, only pop and latch their source. -/
def Claim.CopyTriggers : Prop :=
  ∀ (m : Mv) (s : State) (p w : Wave), Acts s p w →
    (trigMask s p .sx m = 0 → exec (.sxCopy2d m) s = .next (latched s p w .sx m) ∧ exec (.sxCopy2dw m) s = .next (latched s p w .sx m)) ∧
    (trigMask s p .sx m ≠ 0 → exec (.sxCopy2d m) s = .next (pushed s p w m (.sx .copy2d 0)) ∧
      exec (.sxCopy2dw m) s = .next (pushed s p w m (.sx .copy2dw 0)))

/-- R166, R199, R202, R208: LOGST, STOP and WAITC are performed at their push. LOGST's entry is ready with the status word (Table 5.9); STOP asks the
LOOPCOPYs that its operand names to stop. WAITC, where no other waits before it, takes the record at TAIL of the completion ring as its entry and
moves TAIL on; with NOWAIT it answers 0xFFFF on an empty ring, else it waits apart from the queue. -/
def Claim.PerformedAtPush : Prop :=
  ∀ (m : Mv) (s : State) (p w : Wave), Acts s p w →
    (trigMask s p .lg m ≠ 0 → p.trails = false → ∀ q, s.party? w.party = some q →
      exec (.lgLogst m) s = .next (((pushed s p w m .logst).dropCmd s.cur s.nextId).deliverFwd
        (pushedCmd s p .logst (pushedOps s p w .lg m)) .ready (sameLanes w.phys (logStatus (s.core w.core) s.cur w.unpub q.drains)))) ∧
    (trigMask s p .sx m ≠ 0 →
      let b := laneAt (w.io.latch .sx).b ((lowest (trigMask s p .sx m)).getD 0)
      exec (.sxStop m) s = .next ((latched s p w .sx m).modCore p.core (fun k => { k with loops := k.loops.map (fun e =>
        if e.2.cmd.party = p.party ∧ (b.getLsbD 4 = true ∨ e.2.cmd.sx? = some (.loopcopy, bits b.toNat 3 0)) then (e.1, { e.2 with stop := true })
        else e) }))) ∧
    (∀ q, trigMask s p .sx m ≠ 0 → s.party? p.party = some q → q.waitcs = [] → w.trails = false →
      let c := pushedCmd s p (.sx .waitc 0) (pushedOps s p w .sx m)
      let t := pushed s p w m (.sx .waitc 0)
      let g := q.cring
      (cringLog g ≠ 0 → cringHead g ≠ cringTail g → exec (.sxWaitc m) s = .next (((t.dropSx c).modParty p.party (fun x =>
        { x with cring := cringPack (cringHead x.cring) (cringTail x.cring + 1) (cringLog x.cring) (cringBase x.cring) })).deliverFwd c .ready
          (recordLanes w.phys (s.spadNat q (cringBase g + 32 * (cringTail g % 2 ^ cringLog g)) 32)))) ∧
      (cringLog g = 0 ∨ cringHead g = cringTail g → c.opB.getLsbD 0 = true →
        exec (.sxWaitc m) s = .next ((t.dropSx c).deliverFwd c .ready (recordLanes w.phys 0xFFFF))) ∧
      (cringLog g = 0 ∨ cringHead g = cringTail g → c.opB.getLsbD 0 = false → exec (.sxWaitc m) s =
        .next (t.modParty p.party (fun x => { x with sxq := x.sxq.filter (fun d => d.id != c.id), sxWait := x.sxWait ++ [c] }))))

/-- The triggers of LG, BA, MX, GA, SF and SX push one command with the operands of their time; LOGST, STOP and WAITC are performed at their push. -/
def Obligations.QueuedTriggers : Prop := Claim.QueuedTriggers ∧ Claim.CopyTriggers ∧ Claim.PerformedAtPush

/-- R23, R27, R45, R148, R178: what a push does. The command stands last in the queue of its unit: the core's for MX, GA and SF, the party's for SX, the
wave's for the others; on MX each hardware wave of a group makes a submission, lanes 0 to 31 first (R45), a half without an active lane none (Log 26, DEDUCED). A command that produces a result reserves the last place of its wave's result queue, pending. An idle matrix engine
is asked to wake (R393). -/
def Obligations.PushedCommand : Prop :=
  ∀ (s : State) (c : Cmd) (core : Nat) (w : Wave), s.wave? c.wave = some w →
    (∃ v, (pushCmd s c core).wave? c.wave = some v ∧
      (∀ u, v.io.queue u = if u = c.op.unit ∧ c.op.entry = true then
        w.io.queue u ++ [{ id := c.id, mask := c.mask, st := .pending, vals := [] }] else w.io.queue u) ∧
      v.cmds = (match c.op.unit with
        | .ld | .st | .atm | .lg | .ba => w.cmds ++ [c]
        | _ => w.cmds) ∧
      { v with io := w.io, cmds := w.cmds } = w) ∧
    (∀ k, k ≠ c.wave → (pushCmd s c core).wave? k = s.wave? k) ∧
    ((pushCmd s c core).core core).mxq = (if c.op.unit = .mx then (s.core core).mxq ++ mxSubmissions c else (s.core core).mxq) ∧
    (mxSubmissions c).map (fun d => d.mask) = (if c.mask &&& lanesBelow 32 = 0 ∨ c.mask &&& ~~~ lanesBelow 32 = 0 then [c.mask]
      else [c.mask &&& lanesBelow 32, c.mask &&& ~~~ lanesBelow 32]) ∧
    ((pushCmd s c core).core core).gaq = (if c.op.unit = .ga then (s.core core).gaq ++ [c] else (s.core core).gaq) ∧
    ((pushCmd s c core).core core).sfq = (if c.op.unit = .sf then (s.core core).sfq ++ [c] else (s.core core).sfq) ∧
    (∀ q, s.party? c.party = some q → (pushCmd s c core).party? c.party =
      some (if c.op.unit = .sx then { q with sxq := q.sxq ++ [c] } else q)) ∧
    (c.op.unit = .mx → (s.core core).mx.power = .idle → ((pushCmd s c core).core core).mx.power = .requested s.cycle) ∧
    (pushCmd s c core).home = s.home ∧ (pushCmd s c core).nextId = s.nextId + 1

/-- R140 to R146, R149: the triggers of LD and ST. Where the worlds forbid no lane (R363), the command is pushed with the targets of its lanes
and, under the condition of R23, a post-incremented address register moves on by the size times the lanes of the wave, for LDB by the size.
A store other than STS folds its records into SSIG (R311). Where the worlds forbid some lane's target, the access is recorded in the field book besides (Table 17.4); a trigger in no lane pushes
nothing. -/
def Claim.MemoryTriggers : Prop :=
  ∀ (s : State) (p w : Wave), Acts s p w →
    (∀ i m k sz sx pi, ldOf i = some (m, k, sz, sx, pi) →
      let o := withTargets .read (k == .lds) (k == .ldl) (k == .ldb) (szBytes sz) s p (pushedOps s p w .ld m)
      trigMask s p .ld m ≠ 0 → (∀ L, o.mask.getLsbD L = true → tBlocked (laneAt o.a L) = false) →
      exec i s = .next (postIncrement m pi (if k = .ldb then szBytes sz else szBytes sz * p.width)
        (pushCmd (latched s p w .ld m) (pushedCmd s p (.ld k sz sx) o) p.core) p)) ∧
    (∀ i m k sz sx pi, ldOf i = some (m, k, sz, sx, pi) →
      let step := if k = .ldb then szBytes sz else szBytes sz * p.width
      let c := pushedCmd s p (.ld k sz sx) (withTargets .read (k == .lds) (k == .ldl) (k == .ldb) (szBytes sz) s p (pushedOps s p w .ld m))
      (∀ x, trigMask s p .ld m ≠ 0 → c.targets.find? tBlocked = some x → exec i s = .next (postIncrement m pi step
        ((pushCmd (latched s p w .ld m) c p.core).fb
          { cls := 6, code := (if isAperture (tPa x) = true then 5 else 1), addr := tPa x, detail := p.core, vi := s.coreVi p.core, core := some p.core }) p)) ∧
      (trigMask s p .ld m = 0 → (∀ d, w.cmds.getLast? = some d → d.id ≠ s.nextId) → exec i s = .next (postIncrement m pi step (latched s p w .ld m) p))) ∧
    (∀ i m k sz pi, stOf i = some (m, k, sz, pi) →
      let c := pushedCmd s p (.st k sz) (withTargets .write (k == .sts) false false (szBytes sz) s p (pushedOps s p w .st m))
      (∀ x, trigMask s p .st m ≠ 0 → c.targets.find? tBlocked = some x → exec i s = .next (postIncrement m pi (szBytes sz * p.width)
        (((pushCmd (latched s p w .st m) c p.core).modWave s.cur
          (fun v => if k = .sts then v else { v with ssig := (storeFolds c).foldl fold v.ssig })).fb
            { cls := 6, code := (if isAperture (tPa x) = true then 5 else 2), addr := tPa x, detail := p.core, vi := s.coreVi p.core, core := some p.core }) p)) ∧
      (trigMask s p .st m = 0 → (∀ d, w.cmds.getLast? = some d → d.id ≠ s.nextId) →
        exec i s = .next (postIncrement m pi (szBytes sz * p.width) (latched s p w .st m) p))) ∧
    (∀ i m k sz pi, stOf i = some (m, k, sz, pi) →
      let o := withTargets .write (k == .sts) false false (szBytes sz) s p (pushedOps s p w .st m)
      let c := pushedCmd s p (.st k sz) o
      trigMask s p .st m ≠ 0 → (∀ L, o.mask.getLsbD L = true → tBlocked (laneAt o.a L) = false) →
      exec i s = .next (postIncrement m pi (szBytes sz * p.width)
        ((pushCmd (latched s p w .st m) c p.core).modWave s.cur
          (fun v => if k = .sts then v else { v with ssig := (storeFolds c).foldl fold v.ssig })) p))

/-- R155: the triggers of AT push one command with the targets of their lanes. Where the worlds forbid some lane's target, the access is recorded in the field book besides; a trigger in no lane
pushes nothing. -/
def Claim.AtomicTriggers : Prop :=
  ∀ (i : Instr) (m : Mv) (op : AtOp) (aw : AtW) (sc : Scope) (ord : AOrd) (s : State) (p w : Wave), atOf i = some (m, op, aw, sc, ord) →
    Acts s p w →
    let o := withTargets .atomic false false false (atBytes aw) s p (pushedOps s p w .atm m)
    let c := pushedCmd s p (.atm op aw sc ord) o
    (trigMask s p .atm m ≠ 0 → (∀ L, o.mask.getLsbD L = true → tBlocked (laneAt o.a L) = false) →
      exec i s = .next (pushCmd (latched s p w .atm m) c p.core)) ∧
    (∀ x, trigMask s p .atm m ≠ 0 → c.targets.find? tBlocked = some x → exec i s = .next ((pushCmd (latched s p w .atm m) c p.core).fb
      { cls := 6, code := (if isAperture (tPa x) = true then 5 else 3), addr := tPa x, detail := p.core, vi := s.coreVi p.core, core := some p.core })) ∧
    (trigMask s p .atm m = 0 → (∀ d, w.cmds.getLast? = some d → d.id ≠ s.nextId) → exec i s = .next (latched s p w .atm m))

/-- R23, R141: the post-increment changes the one address register and nothing else. -/
def Claim.PostIncrement : Prop :=
  ∀ (m : Mv) (step : Nat) (s : State) (p w : Wave), s.cur? = some w →
    postIncrement m false step s p = s ∧
    (p.active m = 0 → postIncrement m true step s p = s) ∧
    (∀ n, m.src = .a n → p.active m ≠ 0 → ∃ v, postIncrement m true step s p = s.setWave s.cur v ∧
      (∀ r, v.readA r = if r = n then p.readA n + BitVec.ofNat 64 step else w.readA r) ∧ { v with a := w.a } = w)

/-- The triggers of LD, ST and AT, and the post-increment. -/
def Obligations.MemoryTriggers : Prop := Claim.MemoryTriggers ∧ Claim.AtomicTriggers ∧ Claim.PostIncrement

/-- R30, R31, R221, R227 to R229, Table 7.2: the transfers. Where the operand is given the transfer is pending to its target, taken if the test
holds; two delay slots follow in any case. CALL writes the address of the bundle after them to a15, RET takes an absolute target. Where the
guard condition fails the transfer is pending and not taken; a lane source without an active lane has no effect (Log 49, DEDUCED from R221 and R223). Nothing else of the machine changes. -/
def Claim.CtTransfers : Prop :=
  ∀ (s : State) (p w : Wave), Acts s p w → ∀ (m : Mv) (z : Bool) (k : BitVec 3),
    (∀ a, scalarOp s p s.slot m = some a →
      let v := scalared s p w .ct m a
      let going := fun (t : BitVec 56) (taken : Bool) => some ({ target := t, taken := taken, left := 3 } : Xfer)
      exec (.ctBra m) s = .next (s.setWave s.cur { v with xfer := going (p.pc + a.truncate 56) true }) ∧
      exec (.ctBscal m z k) s = .next (s.setWave s.cur { v with xfer := going (p.pc + a.truncate 56) (p.readK k.toNat != z) }) ∧
      exec (.ctCall m) s = .next (s.setWave s.cur
        { v with xfer := going (p.pc + a.truncate 56) true, a := Tab.set w.a 15 ((p.pc + 3).zeroExtend 64) }) ∧
      exec (.ctRet m) s = .next (s.setWave s.cur { v with xfer := going (a.truncate 56) true })) ∧
    (scalarOp s p s.slot m = none →
      let v : Wave := if p.guardAny m = true then { w with io := popIo s p m w.io }
        else { w with io := popIo s p m w.io, xfer := some { target := 0, taken := false, left := 3 } }
      exec (.ctBra m) s = .next (s.setWave s.cur v) ∧ exec (.ctBscal m z k) s = .next (s.setWave s.cur v) ∧
      exec (.ctCall m) s = .next (s.setWave s.cur v) ∧ exec (.ctRet m) s = .next (s.setWave s.cur v)) ∧
    (laneOperand s p m = none →
      let v : Wave := { w with io := popIo s p m w.io }
      exec (.ctBany m) s = .next (s.setWave s.cur v) ∧ exec (.ctBall m) s = .next (s.setWave s.cur v) ∧
      exec (.ctBnone m) s = .next (s.setWave s.cur v)) ∧
    (∀ a, laneOperand s p m = some a →
      let v := scalared s p w .ct m a
      let going := fun (taken : Bool) => some ({ target := p.pc + a.truncate 56, taken := taken, left := 3 } : Xfer)
      exec (.ctBany m) s = .next (s.setWave s.cur { v with xfer := going (decide (p.exm &&& p.guard m ≠ 0)) }) ∧
      exec (.ctBall m) s = .next (s.setWave s.cur { v with xfer := going (decide (p.exm &&& ~~~ p.guard m = 0)) }) ∧
      exec (.ctBnone m) s = .next (s.setWave s.cur { v with xfer := going (decide (p.exm &&& p.guard m = 0)) }))

/-- R30, R32: a pending transfer lets the two bundles after its own run, and then goes to its target, or on past them where it is not taken. -/
def Claim.DelaySlots : Prop :=
  ∀ (w : Wave) (x : Xfer), w.xfer = some x → x.left = 3 → w.table = none →
    w.sequence = { w with xfer := some { x with left := 2 }, pc := w.pc + 1 } ∧
    w.sequence.sequence = { w with xfer := some { x with left := 1 }, pc := w.pc + 2 } ∧
    w.sequence.sequence.sequence = { w with xfer := none, pc := if x.taken then x.target else w.pc + 3 } ∧
    ({ w with xfer := none } : Wave).sequence = { w with xfer := none, pc := w.pc + 1 }

/-- R33, R231, R232: branch tables. A BTAB passes over its table bundles; the targets that some lane selects stand in table order with their lanes. After the delay slots the first that
is not the join starts under its lanes, and arrival at the join, by the next bundle or by a taken transfer, starts the next. A bundle at the join that is a
delay slot of a pending transfer is no arrival (Log 115, DEDUCED). After the last the wave goes on at the join under the mask of the BTAB. -/
def Claim.BranchTables : Prop :=
  (∀ (s : State) (p w : Wave) (sel : List (Nat × Nat)), s.cur? = some w → (∀ x ∈ sel, x.1 < 64) →
    let bs := s.ib.table
    ∃ (tab : TableSt) (m : Nat → BitVec 64), startTable s p sel = s.setWave s.cur { w with table := some tab, pc := w.pc + BitVec.ofNat 56 bs.length } ∧
      tab.exm = p.exm ∧ tab.left = 3 ∧ (∀ b rest, bs = b :: rest → tab.join = p.pc + (tableJoin b).signExtend 56) ∧
      (∀ e L, (m e).getLsbD L = sel.any (fun x => x.1 == L && x.2 == e)) ∧
      tab.targets = ((List.range (tableTargets bs).length).filter (fun e => sel.any (fun x => x.2 == e))).map
        (fun e => (p.pc + ((tableTargets bs).getD e 0).signExtend 56, m e))) ∧
  ∀ (w : Wave) (t : TableSt),
    (∀ x, w.table = some t → t.left = 0 → w.xfer = some x → x.left = 1 → x.taken = true → x.target = t.join →
      w.sequence = ({ w with xfer := none, pc := t.join } : Wave).nextTable t) ∧
    (∀ x, w.xfer = some x → 1 < x.left → w.sequence = { w with xfer := some { x with left := x.left - 1 }, pc := w.pc + 1 }) ∧
    (w.table = some t → t.left = 1 → w.xfer = none → w.sequence = w.nextTable t) ∧
    (w.table = some t → t.left = 0 → w.xfer = none → w.pc + 1 = t.join → w.sequence = ({ w with pc := w.pc + 1 } : Wave).nextTable t) ∧
    (w.table = some t → t.left = 0 → w.xfer = none → w.pc + 1 ≠ t.join → w.sequence = { w with pc := w.pc + 1 }) ∧
    (∀ x rest, t.targets = x :: rest → x.1 ≠ t.join →
      w.nextTable t = { w with pc := x.1, exm := x.2, table := some { t with left := 0, targets := rest } }) ∧
    (∀ x rest, t.targets = x :: rest → x.1 = t.join → w.nextTable t = w.nextTable { t with targets := rest }) ∧
    (t.targets = [] → w.nextTable t = { w with pc := t.join, exm := t.exm, table := none })

/-- R233: the loop boundary. While the loop count is above one it counts down, and the loop runs again with g8 all ones; then the epilogue count
counts down, with g8 all zeros; then the wave falls through. Each further pass rotates the registers by one. -/
def Claim.LoopBoundary : Prop :=
  ∀ (a : Word) (w : Wave),
    (1 < w.lc.toNat → (loopBoundary a w).lc = w.lc - 1 ∧ (loopBoundary a w).ec = w.ec ∧ (loopBoundary a w).rrb = w.rrb + 1 ∧
      (loopBoundary a w).pc = w.pc + a.truncate 56 ∧
      (loopBoundary a w).g = Tab.set w.g (({ w with rrb := w.rrb + 1 } : Wave).physG 8)
        (lanesBelow w.phys ||| (Tab.getD w.g (({ w with rrb := w.rrb + 1 } : Wave).physG 8) 0 &&& ~~~ lanesBelow w.phys))) ∧
    (w.lc.toNat ≤ 1 → 0 < w.ec.toNat → (loopBoundary a w).lc = 0 ∧ (loopBoundary a w).ec = w.ec - 1 ∧ (loopBoundary a w).rrb = w.rrb + 1 ∧
      (loopBoundary a w).pc = w.pc + a.truncate 56 ∧
      (loopBoundary a w).g = Tab.set w.g (({ w with rrb := w.rrb + 1 } : Wave).physG 8)
        (Tab.getD w.g (({ w with rrb := w.rrb + 1 } : Wave).physG 8) 0 &&& ~~~ lanesBelow w.phys)) ∧
    (w.lc.toNat ≤ 1 → w.ec = 0 → loopBoundary a w = { w with lc := 0, pc := w.pc + 1 })

/-- Branches, calls, returns, delay slots (guards, no lane: the model's reading, Log 49), branch tables (arrival in a slot: its choice, Log 115), the loop boundary. -/
def Obligations.Transfers : Prop := Claim.CtTransfers ∧ Claim.DelaySlots ∧ Claim.BranchTables ∧ Claim.LoopBoundary

/-- R25, R233, R235, R236, R240, R241, R243: what the other operations of CT leave where they take effect: the mask operations, LOOP, SEG within
a bundle that step performs, ROUTE, WAITE and YIELD. -/
def Claim.CtStateOps : Prop :=
  ∀ (s : State) (p w : Wave), Acts s p w → ∀ (m : Mv),
    (∀ a, laneOperand s p m = some a → exec (.ctMaskg m) s = .next (s.setWave s.cur { scalared s p w .ct m a with exm := p.exm &&& p.guard m })) ∧
    (laneOperand s p m = none → exec (.ctMaskg m) s = .next (s.setWave s.cur { w with io := popIo s p m w.io })) ∧
    (∀ n, exec (.ctBtab m n) s = .next (startTable (s.setWave s.cur { w with io := popIo s p m w.io }) p (btabIndex s p s.slot m))) ∧
    (∀ a, scalarOp s p s.slot m = some a →
      let v := scalared s p w .ct m a
      exec (.ctAllon m) s = .next (s.setWave s.cur { v with exs := p.exm, exm := p.allLanes, bracket := true }) ∧
      exec (.ctAlloff m) s = .next (s.setWave s.cur { v with exm := p.exs, bracket := false }) ∧
      exec (.ctMasks m) s = .next (s.setWave s.cur { v with exm := a &&& p.allLanes }) ∧
      exec (.ctWaite m) s = .next (s.setWave s.cur { v with evcHold := some (a.truncate 32) }) ∧
      exec (.ctSeg m) s = .next (s.setWave s.cur v) ∧
      exec (.ctYield m) s = .next (exchange (s.setWave s.cur v) s.cur) ∧
      exec (.ctLoop m) s = .next { s.setWave s.cur ((loopBoundary a v).arrive.countBundle) with ib := { s.ib with advanced := true } } ∧
      exec (.ctRoute m) s = .next (match s.launch? p.launch with
        | some l => if l.func.routes = [] then s.setWave s.cur v
          else (s.setWave s.cur v).modParty p.party (fun q => { q with routeReq := min (a.toNat % 8) 4 })
        | none => s.setWave s.cur v)) ∧
    (scalarOp s p s.slot m = none →
      let t := s.setWave s.cur { w with io := popIo s p m w.io }
      exec (.ctAllon m) s = .next t ∧ exec (.ctAlloff m) s = .next t ∧ exec (.ctMasks m) s = .next t ∧ exec (.ctWaite m) s = .next t ∧
      exec (.ctSeg m) s = .next t ∧ exec (.ctYield m) s = .next t ∧ exec (.ctLoop m) s = .next t ∧ exec (.ctRoute m) s = .next t ∧
      exec (.ctPhase m) s = .next t ∧ exec (.ctExit m) s = .next t)

/-- R238, R243: PHASE and EXIT end their bundle. A wave at PHASE stands at the boundary with its target; where the launch has no waypoint area
it faults with WAYPOINT. A wave that exits loses its pending transfer, its table, its bracket and its result queues. -/
def Claim.PhaseAndExit : Prop :=
  ∀ (s : State) (p w : Wave), Acts s p w → s.ib.advanced = false → ∀ (m : Mv) (a : Word), scalarOp s p s.slot m = some a →
    let v := (scalared s p w .ct m a).sequence.countBundle
    let t : State := { s with ib := { s.ib with advanced := true } }
    let b := t.setWave s.cur { v with atPhase := some (p.pc + a.truncate 56, (w.io.slatch .ct).b.getLsbD 0), inSet := false, pendSince := s.cycle }
    (∀ l, s.launch? p.launch = some l → l.wpkib ≠ 0 → exec (.ctPhase m) s = .next b) ∧
    (∀ l, s.launch? p.launch = some l → l.wpkib = 0 → exec (.ctPhase m) s = .next (b.faultLaunch p.launch codeWaypoint p.core)) ∧
    exec (.ctExit m) s = .next (t.setWave s.cur
      { v with exited := true, xfer := none, table := none, bracket := false, io := { v.io with res := [] }, parked := none, inSet := false })

/-- The other operations of CT: masks, waits, LOOP, SEG, ROUTE, PHASE, EXIT. -/
def Obligations.ControlOps : Prop := Claim.CtStateOps ∧ Claim.PhaseAndExit

/-- R39, R244, Table 7.4 to 7.6: trap entry. In launch code with a handler the wave saves its PC, cause, address, pending transfer, masks, bracket,
rotation, loop counts, FPC and SSIG in the E registers, parks its ports, and starts the handler at TVEC in handler mode with all lanes on;
its registers stay. Of a twin pair the other wave takes the same trap when it stands at the same bundle, each of several at its own (R325). What the handler's operand latches
hold at entry no rule says: free values of the model (Log 8). -/
def Claim.TrapEntry : Prop :=
  ∀ (s : State) (k : Nat) (w : Wave) (l : Launch) (t : Trap), s.wave? k = some w → s.launch? w.launch = some l → w.hmode = false →
    l.tvec ≠ 0 → t.cause ≠ causeText →
    (w.twin = none ∨ w.trapHere.isSome = true → (s.fbTrap w t).tellTwin w t = s.fbTrap w t) ∧
    (∀ o b v, w.twin = some (o, b) → w.trapHere = none → s.wave? o = some v → ((s.fbTrap w t).tellTwin w t).wave? o =
      some { v with trapDue := v.trapDue ++ [(w.issued, t)] }) ∧
    takeTrap s k t = ({ (s.fbTrap w t).tellTwin w t with fresh := s.fresh + 9 } : State).setWave k
      { w with
        trapDue := Tab.erase w.trapDue w.issued, walkBad := none
        trap := { epc := w.pc, ecause := t.ecause, eaddr := BitVec.ofNat 64 t.addr, epend := w.epend, eexm := w.exm, eexs := w.exs,
                  eflag := w.bracket, errb := w.rrb, elc := w.lc, eec := w.ec, efpc := w.fpc, essig := w.ssig, table := w.table }
        exm := w.allLanes, bracket := false, rrb := 0, fpc := Config.fpcReset, xfer := none, table := none, parked := some w.io
        io := { latches := (WaveIo.handler (s.fresh + 1)).latches, slatches := (WaveIo.handler (s.fresh + 1)).slatches, ports := [], portDef := none,
                flight := [], res := [] }
        hmode := true, hcount := 0, pc := l.tvec }

/-- R39, R244, R286: a trap in a handler, without a handler, or of TEXT_INTEGRITY is not taken by the wave: its launch faults with the cause. -/
def Claim.TrapWithoutHandler : Prop :=
  ∀ (s : State) (k : Nat) (w : Wave) (l : Launch) (t : Trap), s.wave? k = some w → s.launch? w.launch = some l →
    (w.hmode = true ∨ l.tvec = 0 ∨ t.cause = causeText) →
    takeTrap s k t = (s.fbTrap w t).launchFault w.launch t.cause w.core

/-- R245, R246: SY.TRAP ends its bundle and raises SW_TRAP with bits 31:0 of its operand in the cause; SY.RETT ends its bundle and returns. Under
a guard that gives no operand they do nothing more than pop their source. -/
def Claim.SyTraps : Prop :=
  ∀ (s : State) (p w : Wave), Acts s p w → s.ib.advanced = false → ∀ (m : Mv),
    (∀ (a : Word), scalarOp s p s.slot m = some a →
      let t : State := { s.setWave s.cur (scalared s p w .sy m a).sequence.countBundle with ib := { s.ib with advanced := true } }
      exec (.syTrap m) s = .next (takeTrap t s.cur { cause := causeSw, slot := s.slot, lane := 0, addr := 0, code := a.toNat % 2 ^ 32 }) ∧
      exec (.syRett m) s = .next (t.setWave s.cur (scalared s p w .sy m a).sequence.countBundle.rett)) ∧
    (scalarOp s p s.slot m = none →
      exec (.syTrap m) s = .next (s.setWave s.cur { w with io := popIo s p m w.io }) ∧
      exec (.syRett m) s = .next (s.setWave s.cur { w with io := popIo s p m w.io }))

/-- R40, R246: a handler that changes nothing returns the wave as it was: the mask, the rotation, the pending transfer, the ports and the result
queues come back, and the PC stands where the trap was taken. -/
def Claim.TrapReturn : Prop :=
  ∀ (w : Wave) (t : Trap) (tvec : BitVec 56) (n : Nat), w.hmode = false → w.parked = none → w.hcount = 0 → w.table = none →
    w.exm &&& w.allLanes = w.exm → w.exs &&& w.allLanes = w.exs → (∀ x, w.xfer = some x → x.left = 1 ∨ x.left = 2) →
    (w.enter t tvec n).rett = { w with trap := (w.enter t tvec n).trap, trapDue := (w.enter t tvec n).trapDue, walkBad := none }

/-- Taking a trap, in launch code and in a handler; SY.TRAP, SY.RETT and the return (what the handler's latches hold at entry: free values of the model, Log 8). -/
def Obligations.Traps : Prop := Claim.TrapEntry ∧ Claim.TrapWithoutHandler ∧ Claim.SyTraps ∧ Claim.TrapReturn

/-- R247, R319: the operations on control and status registers. SY.r takes the old value, visible one bundle later; CSRW writes the b latch, CSRS sets
its bits, CSRC clears them. Of a twin pair, a leading wave's read of a register that depends on time or on the party is forwarded, and a trailing
wave's takes what was forwarded. Without an operand they only pop their source. -/
def Claim.CsrOps : Prop :=
  ∀ (s : State) (p w : Wave), Acts s p w → ∀ (m : Mv), (scalarOp s p s.slot m = none →
      let t := s.setWave s.cur { w with io := popIo s p m w.io }
      exec (.syCsrr m) s = .next t ∧ exec (.syCsrw m) s = .next t ∧ exec (.syCsrs m) s = .next t ∧ exec (.syCsrc m) s = .next t) ∧
    ∀ (a : Word), scalarOp s p s.slot m = some a →
    let t := s.setWave s.cur (scalared s p w .sy m a)
    let n := a.toNat % 2 ^ 12
    let old := csrRead t p n
    let b := (w.io.slatch .sy).b
    let kind := fwdKind PortUnit.sy.code p.issued s.slot 0
    (csrTimed n = false → exec (.syCsrr m) s = .next (landScalar t p .sy old)) ∧
    (csrTimed n = true → p.trails = false →
      exec (.syCsrr m) s = .next (landScalar (t.forward s.cur kind p.seg (lanesBelow p.phys) [old.zeroExtend 128]) p .sy old)) ∧
    (∀ f, csrTimed n = true → p.trails = true → p.fwd.find? (fun f => f.kind == kind) = some f → exec (.syCsrr m) s = .next (landScalar
      (t.modWave s.cur (fun v => { v with fwd := v.fwd.filter (fun y => y.kind != kind) })) p .sy ((laneAt f.vals 0).truncate 64))) ∧
    (w.follower = none → t.forward s.cur kind p.seg (lanesBelow p.phys) [old.zeroExtend 128] = t) ∧
    exec (.syCsrw m) s = .next (landScalar (csrWrite t s.cur n b) p .sy old) ∧
    exec (.syCsrs m) s = .next (landScalar (csrWrite t s.cur n (old ||| b)) p .sy old) ∧
    exec (.syCsrc m) s = .next (landScalar (csrWrite t s.cur n (old &&& ~~~ b)) p .sy old)

/-- Table 7.4: what a read of each register of the table gives, of a wave w with its party and its launch; a number that names none reads zero. Bit b
of SPBANKS says that the party has bank b. -/
def Claim.CsrReads : Prop :=
  ∀ (s : State) (w : Wave) (q : Party) (l : Launch), s.party? w.party = some q → s.launch? w.launch = some l →
    let r := fun (n : Nat) => csrRead s w n
    r 0x000 = l.tvec.zeroExtend 64 ∧ r 0x001 = (if w.hmode = true then 1 else 0) ∧ r 0x002 = q.tscratch ∧
    r 0x010 = w.trap.epc.zeroExtend 64 ∧ r 0x011 = w.trap.ecause ∧ r 0x012 = w.trap.eaddr ∧ r 0x013 = w.trap.epend ∧ r 0x014 = w.trap.eexm ∧
    r 0x015 = w.trap.eexs ∧ r 0x016 = (if w.trap.eflag = true then 1 else 0) ∧ r 0x017 = w.trap.errb.zeroExtend 64 ∧ r 0x018 = w.trap.elc ∧
    r 0x019 = w.trap.eec ∧ r 0x01A = w.trap.efpc ∧ r 0x01B = w.trap.essig ∧ r 0x020 = q.cring ∧ r 0x021 = q.evc.zeroExtend 64 ∧
    (r 0x022).toNat % 4 = q.route % 4 ∧ (r 0x022).getLsbD 2 = !l.func.routes.isEmpty ∧ (r 0x022).toNat < 8 ∧
    (∀ b, (r 0x023).getLsbD b = (decide (b < 32) && (Tab.get? q.banks b).isSome)) ∧ (r 0x024).toNat = q.phaseno % 2 ^ 64 ∧
    (r 0x030).toNat = s.cycle % 2 ^ 64 ∧
    (∀ n, n ∉ [0x000, 0x001, 0x002, 0x010, 0x011, 0x012, 0x013, 0x014, 0x015, 0x016, 0x017, 0x018, 0x019, 0x01A, 0x01B, 0x020, 0x021, 0x022, 0x023,
      0x024, 0x030] → r n = 0)

/-- Table 7.4: what a write of each register of the table changes; a register that is read only keeps its value. -/
def Claim.CsrWrites : Prop :=
  ∀ (s : State) (k : Nat) (w : Wave) (x : Word), s.wave? k = some w →
    csrWrite s k 0x010 x = s.setWave k { w with trap := { w.trap with epc := x.truncate 56 } } ∧
    csrWrite s k 0x011 x = s.setWave k { w with trap := { w.trap with ecause := x &&& 0xFFFFFFFF003F07FF#64 } } ∧
    csrWrite s k 0x012 x = s.setWave k { w with trap := { w.trap with eaddr := x } } ∧
    csrWrite s k 0x013 x = s.setWave k { w with trap := { w.trap with epend := x &&& 0xFFFFFFFFFFFFFF07#64 } } ∧
    csrWrite s k 0x014 x = s.setWave k { w with trap := { w.trap with eexm := x } } ∧
    csrWrite s k 0x015 x = s.setWave k { w with trap := { w.trap with eexs := x } } ∧
    csrWrite s k 0x016 x = s.setWave k { w with trap := { w.trap with eflag := x.getLsbD 0 } } ∧
    csrWrite s k 0x017 x = s.setWave k { w with trap := { w.trap with errb := x.truncate 5 } } ∧
    csrWrite s k 0x018 x = s.setWave k { w with trap := { w.trap with elc := x } } ∧
    csrWrite s k 0x019 x = s.setWave k { w with trap := { w.trap with eec := x } } ∧
    csrWrite s k 0x01A x = s.setWave k { w with trap := { w.trap with efpc := fpcWrite w.trap.efpc x } } ∧
    csrWrite s k 0x01B x = s.setWave k { w with trap := { w.trap with essig := x } } ∧
    csrWrite s k 0x002 x = s.modParty w.party (fun q => { q with tscratch := x }) ∧
    csrWrite s k 0x020 x = s.modParty w.party (fun q => { q with cring := cringWrite q x }) ∧
    (∀ n, n ∈ [0x000, 0x001, 0x021, 0x022, 0x023, 0x024, 0x030] → csrWrite s k n x = s)

/-- CSRR, CSRW, CSRS and CSRC, and what a write of each register changes. -/
def Obligations.ControlRegisters : Prop := Claim.CsrOps ∧ Claim.CsrReads ∧ Claim.CsrWrites

/-- R237, R241, R250 to R254: the other operations of SY where they take effect. FBAR does nothing beyond its latch, since the model fetches no bundle
ahead (Log 50, DESIGN CHOICE); PREF requests the lines of its range and changes no wave and no byte of memory, at both levels alike (Log 119, DESIGN CHOICE); ICINV removes the
cached bundles of its range; QFENCE holds the next bundle, and so does RDV while a named partner is in recovery; SLEEP gives up the wave's place until its time or its event; LAUNCH holds
the wave until its packet is answered; WHEELQ puts the wheel's word into SY.r, and a leading twin's is forwarded. Without an operand they only pop their source. -/
def Claim.SyStateOps : Prop :=
  ∀ (s : State) (p w : Wave), Acts s p w → ∀ (m : Mv), (scalarOp s p s.slot m = none →
      let t := s.setWave s.cur { w with io := popIo s p m w.io }
      exec (.syFbar m) s = .next t ∧ (∀ l2, exec (.syPref m l2) s = .next t) ∧ exec (.syIcinv m) s = .next t ∧ exec (.syQfence m) s = .next t ∧
      exec (.syRdv m) s = .next t ∧ exec (.sySleep m) s = .next t ∧ exec (.syLaunch m) s = .next t ∧ exec (.syWheelq m) s = .next t) ∧
    ∀ (a : Word), scalarOp s p s.slot m = some a →
    let v := scalared s p w .sy m a
    let t := s.setWave s.cur v
    let b := (w.io.slatch .sy).b
    let n := a.toNat % 2 ^ 32
    let evc := match s.party? p.party with
      | some q => q.evc
      | none => 0
    exec (.syFbar m) s = .next t ∧
    (∀ l2, exec (.syPref m l2) s = .next (startPref t p a) ∧ (startPref t p a).waves = t.waves ∧ (startPref t p a).home = t.home) ∧
    (∀ l, s.launch? p.launch = some l → exec (.syIcinv m) s =
      .next (if b.toNat % 2 ^ 32 = 0 then t
        else t.modCore p.core (fun c => { c with icache := c.icache.filter (fun e => !cacheHit l a.toNat (b.toNat % 2 ^ 32) e.1) }))) ∧
    exec (.syQfence m) s = .next (s.setWave s.cur { v with hold := .qfence (a.toNat % 2 ^ 9) s.nextId }) ∧
    exec (.syRdv m) s = .next (if t.partnersRecover p s.cur (a.toNat % 2 ^ 16) = true then s.setWave s.cur { v with hold := .rdv (a.toNat % 2 ^ 16) }
      else t) ∧
    exec (.sySleep m) s = .next (if n = 0 ∧ a.getLsbD 32 = false then t
      else s.setWave s.cur
        { v with hold := .sleep (s.cycle + n) (if a.getLsbD 32 = true then some evc else none) (n != 0), inSet := false, pendSince := s.cycle,
                 stalled := 0 }) ∧
    exec (.syLaunch m) s = .next (tryLaunch (s.setWave s.cur { v with hold := .launch a.toNat (b.toNat % 2 ^ 12) s.slot p.clock p.issued false }) s.cur) ∧
    let kind := fwdKind PortUnit.sy.code p.issued s.slot 0
    let x := wheelWord (if a.getLsbD 0 = true then s.cycle + s.toNextPos p.core else s.cycle)
    (p.trails = false → exec (.syWheelq m) s =
      .next (landScalar (t.forward s.cur kind p.seg (lanesBelow p.phys) [x.zeroExtend 128]) p .sy x)) ∧
    (∀ f, p.trails = true → p.fwd.find? (fun f => f.kind == kind) = some f → exec (.syWheelq m) s = .next (landScalar
      (t.modWave s.cur (fun v => { v with fwd := v.fwd.filter (fun y => y.kind != kind) })) p .sy ((laneAt f.vals 0).truncate 64)))

/-- R251, R363, R370, R397: the lines of a PREF. A length of 0 stands for one line; else the lines from that of A to that of the last byte, in increasing
order. A line of this package's HBM that the worlds allow is counted at its tract as read by the core; one whose address misses waits for its walk. -/
def Claim.Prefetches : Prop :=
  (∀ a len, prefCount a 0 = 1 ∧ (0 < len → prefCount a len = (a + len - 1) / 64 - a / 64 + 1)) ∧
  ∀ (t : State) (p : Wave) (a : Word) (l : Launch), t.launch? p.launch = some l → l.active = true →
    let u : State := { t with nextId := t.nextId + 1 }
    let va := a.toNat / 64 * 64
    let n := prefCount a.toNat ((slatchB t .sy).toNat % 2 ^ 16)
    (∀ pa, n = 1 → u.translateSx p.core t.nextId l va .read = .ok pa 0 → isHbm pa = true → u.worldBlocks l pa 0 = false →
      startPref t p a = u.served (u.tractOf pa) p.core 64) ∧
    (u.translateSx p.core t.nextId l va .read = .miss → ∃ j : Prefetch, j.va = va ∧ j.left = n ∧ j.launch = p.launch ∧
      startPref t p a = (u.noteSxMiss p.core t.nextId p.launch va).modCore p.core (fun c => { c with prefs := c.prefs ++ [j] })) ∧
    (∀ c, n = 1 → u.translateSx p.core t.nextId l va .read = .fault c → startPref t p a = u)

/-- R252, R253, R321, R352: a SY.LAUNCH whose publication is done is answered 1 where it may not launch on the queue, and 0 with its packet written at
TAIL and TAIL advanced where the ring has room; else the wave waits. Of a twin pair the leader forwards its answer under the bundle that holds the
LAUNCH, and the trailing wave takes it, whichever bundle it stands at by then. -/
def Claim.LaunchAnswer : Prop :=
  ∀ (s : State) (k : Nat) (w : Wave) (l : Launch) (q : Party) (addr n slot t nth : Nat), s.wave? k = some w →
    w.hold = .launch addr n slot t nth true → s.launch? w.launch = some l → s.party? w.party = some q →
    (w.trails = false →
      (s.launchQueue l n = none → tryLaunch s k = launchAnswer s k w slot t nth 1) ∧
      (∀ x, s.launchQueue l n = some x → (s.queue x).room = true →
        tryLaunch s k = launchAnswer (s.submit x 1 (some w.core) (s.spadRead q addr 128)) k w slot t nth 0) ∧
      (∀ x, s.launchQueue l n = some x → (s.queue x).room = false → tryLaunch s k = s)) ∧
    (w.trails = true → ∀ f, w.fwd.find? (fun f => f.kind == fwdKind PortUnit.sy.code nth slot 3) = some f → tryLaunch s k = launchAnswer
      (s.modWave k (fun v => { v with fwd := v.fwd.filter (fun y => y.kind != f.kind) })) k w slot t nth (laneAt f.vals 0).toNat) ∧
    (∀ x, w.follower = none → launchAnswer s k w slot t nth x = s.setWave k { w with
      hold := .none
      io := { w.io with flight := w.io.flight ++ [{ u := PortUnit.sy.code, slot := slot, t := t, bound := unitBound .sy, mask := lanesBelow w.phys,
                                                     vals := sameLanes w.phys (BitVec.ofNat 128 x) }] } })

/-- The other operations of SY (FBAR: nothing is fetched ahead, the model's choice, Log 50; PREF: Log 119), and how a SY.LAUNCH is answered. -/
def Obligations.SystemOps : Prop := Claim.SyStateOps ∧ Claim.Prefetches ∧ Claim.LaunchAnswer

/-- R37, and the model's choice (Log 2: a move of the table acts within a bundle, and step performs none alone): a move that stands alone is a bundle with this move only. Where the wave runs and its checks pass, its effect is that of the move within a
bundle; where a check raises a trap, the trap is taken; where it has to wait, nothing changes. -/
def Claim.MovesAlone : Prop :=
  ∀ (i : Instr) (s : State) (w : Wave), i.isMove = true → s.ib.on = false → s.cur? = some w → w.runs = true → (∀ m, i ≠ .ctSeg m) →
    (∀ c, slotCheck w [] s.slot i = some c →
      exec i s = .next (takeTrap s s.cur { cause := c, slot := s.slot, lane := 0, addr := 0, code := 0 })) ∧
    (slotCheck w [] s.slot i = none → ∀ g, gate (aloneIn i w s) w false = g →
      match g with
      | .go => ∃ u, exec i (aloneIn i w s) = .next u ∧ exec i s = .next { u with ib := s.ib, pre := s.pre }
      | .hold => exec i s = .next s
      | .miss _ _ _ => exec i s = .next s
      | .trap t => exec i s = .next (takeTrap s s.cur t))

/-- R236, R311, R312, and the model's choice of Log 2 for a move alone: a SEG that stands alone and takes effect is a segment entry: SSIG is zero, the checkpoint is taken, the wave's earlier records
are no longer open. -/
def Claim.SegmentEntry : Prop :=
  ∀ (s : State) (w : Wave) (m : Mv) (a : Word), s.ib.on = false → s.cur? = some w → w.runs = true →
    slotCheck w [] s.slot (.ctSeg m) = none → gate (aloneIn (.ctSeg m) w s) w false = .go →
    scalarOp (aloneIn (.ctSeg m) w s) w s.slot m = some a →
    let v := scalared (aloneIn (.ctSeg m) w s) w w .ct m a
    let x : Wave := { v with seg := w.seg + 1, segBundles := 0, ssig := 0, segEntry := false, rerun := .none,
                             recovering := (if w.twin.isSome then false else w.recovering), drained := false, twinFails := 0, compared := 0 }
    exec (.ctSeg m) s = .next (({ s with ckpts := Tab.set s.ckpts s.cur { wave := x, seq := (s.core w.core).seq, acc := [] } }.setWave s.cur x).modCore
      w.core (fun c => { c with log := c.log.map (fun (r : Rec) => if r.wave = s.cur ∧ r.engine = false then { r with isOpen := false } else r) }))

/-- A move that stands alone (the model's convention: exec of a move outside a bundle, Log 2), and a segment entry. -/
def Obligations.MovesAlone : Prop := Claim.MovesAlone ∧ Claim.SegmentEntry

/-- A step runs the decoded instruction: while an event waits on the agenda, the step is the event's; a move of the agenda is passed over. -/
def Claim.StepOfAgenda : Prop :=
  ∀ (s : State) (i : Instr) (t : List Instr), s.agenda = i :: t →
    (i.isMove = false → step s = exec i { s with agenda := t }) ∧ (i.isMove = true → step s = .next { s with agenda := t })

/-- A step runs the decoded instruction: where the wave whose turn it is can issue, the step performs the moves that its bundle decodes to, each in
its slot and in the order of R18, between the start and the end of the bundle. -/
def Claim.StepRunsBundle : Prop :=
  ∀ (s : State) (k : Nat) (rest : List Nat) (r : Ready), s.agenda = [] → s.mgmt.powered = true → s.turn = k :: rest →
    prepare { s with turn := rest } k = .ok r →
    let q : Ready := { r with st := r.st.modWave k (fun w => { w with age := s.cycle }) }
    (∀ u, performMoves (performOrder q.st) (beginBundle q) = .next u → step s = .next (endBundle r.close u)) ∧
    (∀ n i t u, performOrder q.st = (n, i) :: t → exec i { beginBundle q with slot := n } = .next u →
      performMoves (performOrder q.st) (beginBundle q) = performMoves t u) ∧
    (∀ n i u, performOrder q.st = [(n, i)] → exec i { beginBundle q with slot := n } = .next u → step s = .next (endBundle r.close u))

/-- A wave whose next bundle raises a trap takes it in its turn; one that has to wait changes nothing. -/
def Claim.StepTrapsAndStalls : Prop :=
  ∀ (s : State) (k : Nat) (rest : List Nat), s.agenda = [] → s.mgmt.powered = true → s.turn = k :: rest →
    let t : State := { s with turn := rest }
    (∀ x, prepare t k = .error (.trap x) → step s = .next (takeTrap t k x)) ∧
    (prepare t k = .error .hold → step s = .next t) ∧
    (∀ e, prepare t k = .error (.escape e) → step s = .next t) ∧
    (∀ va, prepare t k = .error (.walkFetch va) → step s = .next t) ∧
    (∀ n lane va, prepare t k = .error (.walkLane n lane va) → step s = .next t) ∧
    (prepare t k = .error .endPoint → step s = .next (endRun t k))

/-- The model's choice (Log 2): with nothing on the agenda and no wave to issue, a step settles what is due or ends the cycle. Without power and
without an event nothing can act, and the step stops. -/
def Claim.StepIdle : Prop :=
  ∀ (s : State), s.agenda = [] →
    (s.mgmt.powered = true → s.turn = [] → step s = .next (settleOrTick s)) ∧ (s.mgmt.powered = false → step s = .fault .unpowered)

/-- A step runs the decoded instruction, takes the trap, waits, or settles what is due (the model's order of events: Log 2). -/
def Obligations.StepRunsDecoded : Prop := Claim.StepOfAgenda ∧ Claim.StepRunsBundle ∧ Claim.StepTrapsAndStalls ∧ Claim.StepIdle

/-- R99, R108: the bundle a wave is about to perform is the one fetched at its PC, and holds, in each slot that holds a move, the instruction its
forty bits decode to. -/
def Obligations.BundleDecodes : Prop :=
  (∀ (s : State) (k : Nat) (r : Ready), prepare s k = .ok r → ∃ w l b t,
    s.wave? k = some w ∧ s.launch? w.launch = some l ∧
    fetchOne (({ s with cur := k, slot := 0 } : State).setWave k { w with io := w.io.landDue w.phys w.clock }) w.core l w.pc = .ok (b, t) ∧
    decodeSlots { w with io := w.io.landDue w.phys w.clock } b 6 [] = .ok r.st.ib.moves ∧ r.st.ib.on = true) ∧
  ∀ (w : Wave) (b : Bundle) (ms : List (Option Instr)), decodeSlots w b 6 [] = .ok ms →
    ms.length = 6 ∧ ∀ k, k < 6 → ∀ i, ms.getD k none = some i ↔ (bundleIsMove b k = true ∧ decodeSlot (bundleSlot b k) = .ok i)

/-- No instruction is refused and none faults: exec answers a next state for every instruction in every state. -/
def Claim.ExecAlwaysNext : Prop := ∀ (i : Instr) (s : State), ∃ t, exec i s = .next t

/-- A step stops only without power and without an event. -/
def Claim.StepTotal : Prop := ∀ (s : State), s.mgmt.powered = true ∨ s.agenda ≠ [] → ∃ t, step s = .next t

/-- No instruction is refused and none faults; a step stops only without power and event (the model's choice: Log 2). -/
def Obligations.NothingIsRefused : Prop := Claim.ExecAlwaysNext ∧ Claim.StepTotal

/-- R14: a wave of the active set that has stalled for 8 cycles gives its place to the longest-pending ready wave; one that has stalled for less keeps
it. The wave that enters may issue from the third cycle after. Nothing but the two waves changes. -/
def Claim.WaveExchange : Prop :=
  ∀ (s : State) (k : Nat) (w : Wave), s.wave? k = some w →
    (w.stalled < 8 → exec (.waveExchange k) s = .next s) ∧
    (∀ j v, 8 ≤ w.stalled → w.inSet = true → longestPending s w.core k = some j → j ≠ k → s.wave? j = some v →
      exec (.waveExchange k) s = .next ((s.setWave k { w with inSet := false, pendSince := s.cycle, stalled := 0 }).setWave j
        { v with inSet := true, age := s.cycle, pendSince := s.cycle + 3, stalled := 0 })) ∧
    (8 ≤ w.stalled → longestPending s w.core k = none → exec (.waveExchange k) s = .next s)

/-- R230, R368, R370, R397, Tables 5.1 and 7.7: the end of a walk that its tract runs, one of the 64 that came first, and whose reads are charged to the
core. It fills the core's translations and those of its sheet, or leaves with the wave the trap that it takes when it would issue the bundle: FETCH_FAULT of
the bundle's own address, MEM_XLATE with the slot and the lane of a lane's, each with the stage that faulted. A streamer's oldest miss is walked so too, and
the outcome kept for its command. A full TLB drops its oldest translation (the model's choice, Log 87). -/
def Claim.WalkEnds : Prop :=
  (∀ (s : State) (k : Nat) (w : Wave) (l : Launch), s.wave? k = some w → s.launch? w.launch = some l →
    (s.walkRuns k (w.core / 40) = false → exec (.translationWalkDone k) s = .next s) ∧
    (s.walkRuns k (w.core / 40) = true →
      (∀ va e, prepare s k = .error (.walkFetch va) → s.walkFor l va = some e →
        exec (.translationWalkDone k) s = .next ((s.noteWalk w.core l va).tlbFill w.core e)) ∧
      (∀ va, prepare s k = .error (.walkFetch va) → s.walkFor l va = none →
        exec (.translationWalkDone k) s = .next ((s.noteWalk w.core l va).modWave k (fun v =>
          { v with walkBad := some { cause := causeFetch, slot := 6, lane := 0, addr := va, code := 0, stage := some (s.walkStage l.vi l.s1root l.s1on va) } }))) ∧
      (∀ n lane va e, prepare s k = .error (.walkLane n lane va) → s.walkFor l va = some e →
        exec (.translationWalkDone k) s = .next ((s.noteWalk w.core l va).tlbFill w.core e)) ∧
      (∀ n lane va, prepare s k = .error (.walkLane n lane va) → s.walkFor l va = none →
        exec (.translationWalkDone k) s = .next ((s.noteWalk w.core l va).modWave k (fun v =>
          { v with walkBad := some { cause := causeXlate, slot := n, lane := lane, addr := va, code := 0, stage := some (s.walkStage l.vi l.s1root l.s1on va) } }))))) ∧
  (∀ (w : Wave) (t : Trap), w.walkBad = some t →
    w.afterWalk (.walkFetch t.addr) = .trap t ∧ w.afterWalk (.walkLane t.slot t.lane t.addr) = .trap t) ∧
  (∀ (s : State) (core cmd launch va : Nat) (t : List (Nat × Nat × Nat)) (l : Launch), s.wave? (2 ^ 64 + core) = none →
    s.walkRuns (2 ^ 64 + core) (core / 40) = true → (s.core core).sxMiss = (cmd, launch, va) :: t → s.launch? launch = some l →
    exec (.translationWalkDone (2 ^ 64 + core)) s = .next ((match s.walkFor l va with
      | some e => (s.noteWalk core l va).tlbFill core e
      | none => s.noteWalk core l va).modCore core (fun c => { c with sxMiss := t, sxWalks := (cmd, va / 4096, s.walkFor l va) :: c.sxWalks }))) ∧
  (∀ (s : State) (core : Nat) (e : TlbEntry), ((s.tlbFill core e).core core).tlb = (e :: (s.core core).tlb).take 64 ∧
    Tab.getD (s.tlbFill core e).l2tlb (core / 8) [] = (e :: Tab.getD s.l2tlb (core / 8) []).take 4096 ∧
    (s.tlbFill core e).waves = s.waves ∧ (s.tlbFill core e).home = s.home)

/-- R241: a SLEEP ends once its cycles have passed, and not before. -/
def Claim.SleepExpires : Prop :=
  ∀ (s : State) (k : Nat) (w : Wave) (t : Nat) (e : Option (BitVec 32)), s.wave? k = some w → w.hold = .sleep t e true →
    exec (.sleepExpire k) s = .next (if t ≤ s.cycle then s.setWave k { w with hold := .none } else s)

/-- Exchange of a stalled wave, end of a translation walk (which entries a full TLB keeps: the model's choice, Log 87), end of a sleep. -/
def Obligations.WaveEvents : Prop := Claim.WaveExchange ∧ Claim.WalkEnds ∧ Claim.SleepExpires

/-- R193, R313 to R315, R323: a detected error in a segment that has its checkpoint. A wave of no pair whose records a log-full drain applied faults its
launch; another rolls back and runs A, or, if it was running again already, retires its core with SEG_DIVERGE; a twin goes the way of a mismatch. One of
the matrix engine's own checks, which the model's tape tells (Log 2), is counted in ERRS. -/
def Claim.DetectedErrors : Prop :=
  ∀ (s : State) (k : Nat) (w : Wave) (c : Ckpt) (p : Party), s.wave? k = some w → w.segEntry = false → Tab.get? s.ckpts k = some c →
    s.party? w.party = some p →
    let u := if s.choose.1 ≠ 0 ∧ p.matrix = true then s.choose.2.countMxErr w.core else s.choose.2
    (w.drained = true → w.twin = none →
      exec (.detectedError k) s = .next ((u.noteError w false).faultLaunch w.launch codeSegDrained w.core)) ∧
    (w.drained = false → w.twin = none → w.rerun = .none →
      let t := u.noteError w true
      exec (.detectedError k) s = .next ((rollback t k).modWave k (fun v => { v with rerun := .a, errSeq := t.lastSeq (w.core / 160) }))) ∧
    (w.drained = false → w.twin = none → w.rerun ≠ .none →
      let t := u.noteError w false
      exec (.detectedError k) s = .next (retireCore t w.core codeSegDiverge (some w.launch) (t.lastSeq (w.core / 160)))) ∧
    (∀ o b, w.twin = some (o, b) → exec (.detectedError k) s = .next (twinMismatch (u.noteError w (u.rewinds k o)) k o 0)) ∧
    (u.core w.core).mx.errs = (if s.choose.1 ≠ 0 ∧ p.matrix = true then min ((s.core w.core).mx.errs + 1) 65535 else (s.core w.core).mx.errs)

/-- R315: the end point of a re-run. Run A ends in another rollback, and run B follows with A's count and signature; run B that agrees with them goes on,
and one that differs retires the core. -/
def Claim.RerunEnds : Prop :=
  ∀ (s : State) (k : Nat) (w : Wave), s.wave? k = some w → prepare s k = .error .endPoint →
    (w.rerun = .a → exec (.segRerunEnd k) s = .next ((rollback s k).modWave k (fun v => { v with rerun := .b w.segBundles w.ssig }))) ∧
    (∀ n g, w.rerun = .b n g → w.segBundles = n → w.ssig = g →
      exec (.segRerunEnd k) s = .next (s.setWave k { w with rerun := .none, recovering := false })) ∧
    (∀ n g, w.rerun = .b n g → (w.segBundles ≠ n ∨ w.ssig ≠ g) →
      exec (.segRerunEnd k) s = .next (retireCore s w.core codeSegDiverge (some w.launch) w.errSeq))

/-- R314: rollback. The wave is as its checkpoint has it, but for its place in the machine and the commands that go on; the records of its open
segment are gone from the log, SEQ goes back over them and over no other record (Log 40, the model's reading), and its commands are gone from the engines'
queues; the core is otherwise as it was. Stated of a segment that has no landfall command on its way (Table 6.12 tears the plots of those). -/
def Claim.Rollback : Prop :=
  ∀ (s : State) (k : Nat) (w : Wave) (c : Ckpt), s.wave? k = some w → Tab.get? s.ckpts k = some c →
    (∀ q, s.party? w.party = some q → q.sxWait.filter (fun d => ofSegment k w d.wave d.seg) = []) →
    let cut := fun (r : Rec) => r.wave == k && r.seg == w.seg && !r.engine
    (∃ v, (rollback s k).wave? k = some v ∧ v.v = c.wave.v ∧ v.g = c.wave.g ∧ v.s = c.wave.s ∧ v.a = c.wave.a ∧ v.k = c.wave.k ∧
      v.pc = c.wave.pc ∧ v.exm = c.wave.exm ∧ v.count = c.wave.count ∧ v.ssig = c.wave.ssig ∧ v.io = c.wave.io ∧ v.trap = c.wave.trap ∧
      v.inSet = w.inSet ∧ v.issued = w.issued ∧ v.recovering = true ∧ v.hold = .none ∧ v.evcHold = none ∧
      (∀ d ∈ v.cmds, d ∈ w.cmds ∧ (d.seg ≠ w.seg ∨ d.goesOn = true))) ∧
    (∀ r, r ∈ ((rollback s k).core w.core).log ↔ r ∈ (s.core w.core).log ∧ cut r = false) ∧
    ((rollback s k).core w.core).seq ≤ (s.core w.core).seq ∧
    (∀ n, ((rollback s k).core w.core).seq ≤ n → n < (s.core w.core).seq → ∃ r ∈ (s.core w.core).log, cut r = true ∧ r.seq = n) ∧
    (((rollback s k).core w.core).seq = 0 ∨
      ∀ r ∈ (s.core w.core).log, cut r = true → r.seq + 1 ≠ ((rollback s k).core w.core).seq) ∧
    (∀ d, d ∈ ((rollback s k).core w.core).mxq ↔ d ∈ (s.core w.core).mxq ∧ ¬ (d.wave = k ∧ d.seg = w.seg)) ∧
    ((rollback s k).core w.core).sram = (s.core w.core).sram ∧ (rollback s k).home = s.home ∧
    (∀ j, j ≠ k → (rollback s k).wave? j = s.wave? j)

/-- Detected errors, rollback and the end points of runs A and B. -/
def Obligations.Recovery : Prop := Claim.DetectedErrors ∧ Claim.RerunEnds ∧ Claim.Rollback

/-- R320, R321, R323, R325: the compares of a twin pair. Equal record folds are taken off both buffers and the leader's record is no longer held. A leading
twin's escaping bundle may issue once its trailing twin has come to the same bundle with the same operands and every record of its own is
confirmed. A difference is a mismatch, with the index of the record or operand, and so are a count of records that differs where both stand at one place, a
bundle that escapes in one twin only, and a twin that has passed the bundle where the other trapped (Log 97). -/
def Claim.TwinCompares : Prop :=
  ∀ (s : State) (k o : Nat) (w v : Wave), s.wave? k = some w → w.twin = some (o, true) → s.wave? o = some v →
    (w.trapPassed = true ∨ v.trapPassed = true ∨ unevenRecords w v = true →
      exec (.twinRecordCompare k) s = .next (settleAt (twinMismatch s k o w.compared) k)) ∧
    (w.trapPassed = false → v.trapPassed = false →
      (∀ n f t m g u, w.folds = (n, f) :: t → v.folds = (m, g) :: u → f = g →
        exec (.twinRecordCompare k) s = .next (settleAt (((s.modCore w.core (fun c =>
          { c with log := c.log.map (fun (r : Rec) => if r.wid = n then { r with held := false } else r) })).modWave k
            (fun x => { x with folds := t, compared := x.compared + 1 })).modWave o (fun x => { x with folds := u })) k)) ∧
      (∀ n f t m g u, w.folds = (n, f) :: t → v.folds = (m, g) :: u → f ≠ g →
        exec (.twinRecordCompare k) s = .next (settleAt (twinMismatch s k o w.compared) k))) ∧
    (∀ e f t, prepare s k = .error (.escape e) → v.escapes = f :: t →
      (e ≠ f → exec (.twinEscapePerform k) s = .next (settleAt (twinMismatch s k o (e.differ f)) k)) ∧
      (e = f → s.waveHeld w k = false → w.folds = [] → w.storesDone = true → exec (.twinEscapePerform k) s =
        .next (settleAt ((s.modWave o (fun x => { x with escapes := t })).modWave k (fun x => { x with escapes := [e] })) k)) ∧
      (e = f → (s.waveHeld w k = true ∨ w.folds ≠ [] ∨ w.storesDone = false) → exec (.twinEscapePerform k) s = .next (settleAt s k))) ∧
    (∀ e, prepare s k = .error (.escape e) → v.escapes = [] →
      exec (.twinEscapePerform k) s = .next (settleAt (if e.nth < v.issued then twinMismatch s k o 0 else s) k)) ∧
    (∀ f t, (∀ e, prepare s k ≠ .error (.escape e)) → v.escapes = f :: t →
      exec (.twinEscapePerform k) s = .next (settleAt (if f.nth < w.issued then twinMismatch s k o 0 else s) k))

/-- R259, R323, R324: a mismatch of two twins. The second of a segment leaves TWIN_DIVERGE with the launch; a segment that a log-full drain has begun to
apply faults with SEG_DRAINED; else both waves roll back to their checkpoints and run again. -/
def Claim.TwinMismatch : Prop :=
  ∀ (s : State) (k o n : Nat) (w v : Wave) (c d : Ckpt), k ≠ o → s.wave? k = some w → s.wave? o = some v → Tab.get? s.ckpts k = some c →
    Tab.get? s.ckpts o = some d →
    (1 ≤ w.twinFails ∨ 1 ≤ v.twinFails → ∃ (u : State) (p0 p1 : FbEvent), u = s.fbParts [p0, p1] ∧ p0.cls = 1 ∧ p0.code = codeTwinDiverge ∧
      p0.core = some w.core ∧ p1.code = codeTwinDiverge ∧ p1.addr = c.wave.pc.toNat ∧ p1.detail = n * 1024 + v.core ∧
      twinMismatch s k o n = u.launchFault w.launch codeTwinDiverge w.core) ∧
    (w.twinFails = 0 → v.twinFails = 0 → (w.drained = true ∨ v.drained = true) →
      twinMismatch s k o n = s.faultLaunch w.launch codeSegDrained w.core) ∧
    (w.twinFails = 0 → v.twinFails = 0 → w.drained = false → v.drained = false →
      (∃ x, (twinMismatch s k o n).wave? k = some x ∧ x.pc = c.wave.pc ∧ x.v = c.wave.v ∧ x.g = c.wave.g ∧ x.s = c.wave.s ∧ x.a = c.wave.a ∧
        x.io = c.wave.io ∧ x.ssig = c.wave.ssig ∧ x.twinFails = 1 ∧ x.issued = max w.issued v.issued) ∧
      (∃ x, (twinMismatch s k o n).wave? o = some x ∧ x.pc = d.wave.pc ∧ x.v = d.wave.v ∧ x.g = d.wave.g ∧ x.s = d.wave.s ∧ x.a = d.wave.a ∧
        x.io = d.wave.io ∧ x.ssig = d.wave.ssig ∧ x.twinFails = 1 ∧ x.issued = max w.issued v.issued) ∧
      (twinMismatch s k o n).launches = s.launches)

/-- The compares of a twin pair, and what a mismatch does. -/
def Obligations.TwinCompares : Prop := Claim.TwinCompares ∧ Claim.TwinMismatch

/-- R145, R148, R152, R269: the arrival of a load's entry. A load that no earlier trigger holds back and whose home lies here is performed; one whose home
lies on other packages is sent there once; one whose answer comes is performed, or its entry is poisoned where the answer says so, which the model's tape
tells (Log 55). One that would return the value of an STSC not yet performed waits. An LDSC is performed or sent when its acquire completes (R154). -/
def Claim.LoadArrival : Prop :=
  ∀ (s : State) (w : Wave) (k n : Nat) (c : Cmd) (kd : LdKind) (sz : Sz) (sx : Bool), s.wave? k = some w → w.nthLoad n = some c →
    c.op = .ld kd sz sx →
    (s.scWaits c kd (szBytes sz) = true → (c.st = .queued ∨ ∃ tag pkg at' lost, c.st = .sent tag pkg at' lost) →
      exec (.ldEntryArrive k n) s = .next (settleAt s k)) ∧
    (s.scWaits c kd (szBytes sz) = false →
      (c.st = .queued → w.canPerform c = true → kd ≠ .ldsc → (w.trails = false ∨ kd = .lds) → c.peers = [] →
        exec (.ldEntryArrive k n) s = .next (settleAt (performLd s c kd sz sx) k)) ∧
      (c.st = .queued → w.canPerform c = true → kd ≠ .ldsc → w.trails = false → c.peers ≠ [] → c.wave = k →
        exec (.ldEntryArrive k n) s = .next (settleAt ((s.setWave k { w with cmds := w.cmds.map (fun d =>
          if d.id = c.id then { d with st := .sent 0 0 s.cycle false } else d) }).sendAll c.ldReqs) k)) ∧
      (∀ tag pkg at' lost, c.st = .sent tag pkg at' lost → s.choose.1 = 0 →
        exec (.ldEntryArrive k n) s = .next (settleAt (performLd s.choose.2 c kd sz sx) k)) ∧
      (∀ tag pkg at' lost, c.st = .sent tag pkg at' lost → s.choose.1 ≠ 0 →
        exec (.ldEntryArrive k n) s = .next (settleAt ((s.choose.2.dropCmd k c.id).deliverFwd c .poisoned []) k))) ∧
    (c.st = .queued → w.canPerform c = false → exec (.ldEntryArrive k n) s = .next (settleAt s k))

/-- R145, R146: a scratchpad load gives each active lane the bytes at its address, lowest first, zero- or sign-extended; its command leaves the
queue, its entry is ready, and no memory changes. -/
def Claim.ScratchpadLoad : Prop :=
  ∀ (s : State) (c : Cmd) (w : Wave) (p : Party) (sz : Sz) (sx : Bool), s.wave? c.wave = some w → s.party? w.party = some p →
    c.op = .ld .lds sz sx → (∀ L, c.mask.getLsbD L = true → tBlocked (laneAt c.a L) = false) →
    ∃ vals, performLd s c .lds sz sx = (s.dropCmd c.wave c.id).deliver c .ready vals ∧
      (∀ L, L < w.phys → L < 64 → c.mask.getLsbD L = true →
        laneAt vals L = loadLane sx (s.spadRead p (tPa (laneAt c.a L)) (szBytes sz)))

/-- R148: a load that has been sent and not answered fails 2 ms after its first send: its entry is marked failed. Before that nothing changes. -/
def Claim.LoadTimeout : Prop :=
  ∀ (s : State) (w : Wave) (k n tag pkg t : Nat) (lost : Bool) (c : Cmd), s.wave? k = some w → w.nthLoad n = some c →
    c.st = .sent tag pkg t lost →
    exec (.loadNoResponse k n) s =
      .next (if t + 2100000 ≤ s.cycle then settleAt ((s.dropCmd k c.id).deliverFwd c .failed []) k else s)

/-- Loads: arrival, data, what stays, time limit (a report of poison by the tape: the model's choice, Log 55). -/
def Obligations.Loads : Prop := Claim.LoadArrival ∧ Claim.ScratchpadLoad ∧ Claim.LoadTimeout

/-- R149, R150, R152, R257, Table 8.1: a store at the head of its order is performed. STS writes its lanes' bytes into the scratchpad in increasing lane
order. STG and STNT of a wave of no pair append their records to the log of the core, as one run, where it has room, and wait where it has none; no memory
changes. There is one record for each granule that a lane writes, with a byte enabled exactly where some lane of the trigger writes it, and the data of the
highest such lane; they go in increasing granule address, those of other packages by package first (Log 106, the model's choice). Stated of records for the
lanes of an access aligned to its size. -/
def Obligations.Stores : Prop :=
  (∀ (s : State) (w : Wave) (c : Cmd) (p : Party) (k : StKind) (sz : Sz), s.wave? c.wave = some w → s.party? c.party = some p → c.op = .st k sz →
    c.st = .queued → w.canPerform c = true →
    (k = .sts → tryCmd s w c = some ((lanesOf c.mask).foldl (fun t L => t.spadWrite p (tPa (laneAt c.a L)) (storeBytes (szBytes sz) (laneAt c.c L)))
      (s.dropCmd c.wave c.id))) ∧
    (k = .stg ∨ k = .stnt → w.twin = none → (s.core w.core).roomFor (storeRecs c).length = true → ∃ t, tryCmd s w c = some t ∧ t.home = s.home ∧
      (t.core w.core).log.map (fun (r : Rec) => (r.pkg, r.gran, r.ben, r.data)) =
        (s.core w.core).log.map (fun (r : Rec) => (r.pkg, r.gran, r.ben, r.data)) ++ storeRecs c ∧
      (∀ r ∈ (t.core w.core).log.drop (s.core w.core).log.length, r.kind = k.code ∧ r.engine = false ∧ r.held = false ∧ r.stamp = none ∧ r.wave = c.wave ∧
        r.cmd = c.id ∧ r.seg = c.seg ∧ r.wslot = w.rslot ∧ r.wid ∈ (t.core w.core).horizon) ∧
      (t.core w.core).seq = (s.core w.core).seq + (storeRecs c).length) ∧
    (k = .stg ∨ k = .stnt → w.trails = false → (s.core w.core).roomFor (storeRecs c).length = false → tryCmd s w c = none) ∧
    (k = .stsc → w.trails = false → tryCmd s w c = none)) ∧
  ∀ (c : Cmd) (k : StKind) (sz : Sz), c.op = .st k sz →
    (∀ L, c.mask.getLsbD L = true → tPa (laneAt c.a L) % szBytes sz = 0) →
    let on := fun (L : Nat) => L < 64 ∧ c.mask.getLsbD L = true ∧ tBlocked (laneAt c.a L) = false
    let at' := fun (L pkg gran i : Nat) => on L ∧ tPkg (laneAt c.a L) = pkg ∧ tPa (laneAt c.a L) ≤ 16 * gran + i ∧
      16 * gran + i < tPa (laneAt c.a L) + szBytes sz
    (∀ pkg gran, (∃ r ∈ storeRecs c, r.1 = pkg ∧ r.2.1 = gran) ↔ ∃ L i, i < 16 ∧ at' L pkg gran i) ∧
    (∀ r ∈ storeRecs c, ∀ i, i < 16 →
      (r.2.2.1.getLsbD i = true ↔ ∃ L, at' L r.1 r.2.1 i) ∧
      (∀ L, at' L r.1 r.2.1 i → (∀ M, at' M r.1 r.2.1 i → M ≤ L) →
        elem 8 r.2.2.2 i = elem 8 (laneAt c.c L) (16 * r.2.1 + i - tPa (laneAt c.a L)))) ∧
    (storeRecs c).Pairwise (fun r q => r.1 < q.1 ∨ (r.1 = q.1 ∧ r.2.1 < q.2.1))

/-- R156, Table 5.5: an atomic at its home. The lanes of one request are applied one after another in the order given; each returns the value it
found, and the last value is stored, in the bytes of the operand's width and no others. -/
def Claim.AtomicFold : Prop :=
  ∀ (o : AtOp) (aw : AtW) (v : Nat),
    atFold o aw [] v = (v, []) ∧
    (∀ L c t, atFold o aw ((L, c) :: t) v = ((atFold o aw t (newValue o aw v c)).1, (L, v) :: (atFold o aw t (newValue o aw v c)).2)) ∧
    (∀ old c, old < 2 ^ (8 * atBytes aw) →
      newValue .add aw old c = (old + c.toNat % 2 ^ (8 * atBytes aw)) % 2 ^ (8 * atBytes aw) ∧
      (newValue .sub aw old c + c.toNat % 2 ^ (8 * atBytes aw)) % 2 ^ (8 * atBytes aw) = old ∧
      newValue .xchg aw old c = c.toNat % 2 ^ (8 * atBytes aw) ∧
      newValue .minu aw old c = min old (c.toNat % 2 ^ (8 * atBytes aw)) ∧
      newValue .maxu aw old c = max old (c.toNat % 2 ^ (8 * atBytes aw)) ∧
      (newValue .cas aw old c = if old = c.toNat / 2 ^ 64 % 2 ^ (8 * atBytes aw) then c.toNat % 2 ^ (8 * atBytes aw) else old) ∧
      (newValue .inc aw old c = if old < c.toNat % 2 ^ (8 * atBytes aw) then old + 1 else 0) ∧
      (∀ j, (newValue .and aw old c).testBit j = (old.testBit j && (c.toNat % 2 ^ (8 * atBytes aw)).testBit j)) ∧
      (∀ j, (newValue .xor aw old c).testBit j = (old.testBit j != (c.toNat % 2 ^ (8 * atBytes aw)).testBit j)) ∧
      (∀ j, (newValue .or aw old c).testBit j = (old.testBit j || (c.toNat % 2 ^ (8 * atBytes aw)).testBit j)) ∧
      (let x := c.toNat % 2 ^ (8 * atBytes aw);
        let signed := fun n => (BitVec.ofNat (8 * atBytes aw) n).toInt
        let f := if aw = .bf16 then bf16 else fp32
        newValue .min aw old c = (if signed x < signed old then x else old) ∧ newValue .max aw old c = (if signed old < signed x then x else old) ∧
        newValue .fadd aw old c = roundTo f ((f.value old).add (f.value x) .rne) .rne { ovf := false, fres := false } noDraw))

/-- R156 to R159, R264, R384: atomics in flight. A wave's own request, one for each address that its lanes name, goes on at its home; a peer's is answered from its record, or refused for poison, or performed and
recorded, or waits for room in the tag store or for an earlier record of its own core on its line; one lost on the way is sent again under its tag while 2 ms have not passed and a route is usable;
one that is not answered within 2 ms ends with INDETERMINATE, whether or not a notice of its loss came (Log 47), the requests of a wave are numbered in the order
in which they were sent (Log 35), and an answer ends it with its status, in the lanes of its address. -/
def Claim.AtomicEvents : Prop :=
  ∀ (s : State) (k n : Nat),
    (∀ w c x, s.wave? k = some w → (s.atReady w)[n]? = some (c, x) → exec (.atHomePerform (.own k n)) s = .next (settleAt (atOwn s w c x) k)) ∧
    (∀ w c o aw sc pa t, c.op = .atm o aw sc .relaxed → c.st = .queued → w.canPerform c = true → w.trails = false → s.poisoned pa = false →
      drainFor s w.core 0 pa (atBytes aw) none = some t →
      let r := applyAt t o aw false pa ((c.atLanes 0 pa).map (fun L => (L, laneAt c.c L)))
      atOwn s w c (some (0, pa)) = ((r.1.join w.core r.2.2).served (r.1.tractOf pa) w.core (atBytes aw)).atLanesDone w c
        (r.2.1.map (fun e => (e.1, atLane e.2 0)))) ∧
    (∀ (r : PeerAt), isHbm r.pa = true → r.pa % atBytes r.w = 0 → s.atHeld = [] →
      let known := s.tagStore.find? (fun (x : TagRec) =>
        x.pkg == r.pkg && x.core == r.core && x.tag == r.tag && decide (s.cycle < x.time + Config.cycles2ms))
      let ans := fun (st : Nat) (ret : List (Nat × Word)) => s.send r.pkg (r.pa / 64) (.atAns r.pkg r.core r.tag st ret)
      (∀ x, known = some x → exec (.atHomePerform (.peer r)) s = .next (ans 1 x.ret)) ∧
      (known = none → s.poisoned r.pa = true →
        exec (.atHomePerform (.peer r)) s = .next (ans 4 [])) ∧
      (known = none → s.poisoned r.pa = false → s.tagRoom = false →
        exec (.atHomePerform (.peer r)) s = .next { s with atHeld := [(s.cycle, r)] }) ∧
      (∀ x ∈ s.recHeld, ∀ g ∈ peerParts x, x.pkg = r.pkg → x.core = r.core → x.kind ≠ 0x11 → g.1 / 4 = r.pa / 64 → known = none →
        s.poisoned r.pa = false → exec (.atHomePerform (.peer r)) s = .next { s with atHeld := [(s.cycle, r)] }) ∧
      (known = none → s.poisoned r.pa = false → s.tagRoom = true → s.recHeld = [] → r.sc = none → ∃ t ret, exec (.atHomePerform (.peer r)) s = .next t ∧
        ret = (atFold r.op r.w r.lanes (s.homeNat r.pa (atBytes r.w))).2.map (fun e => (e.1, BitVec.ofNat 64 e.2)) ∧
        t.wire = (ans 0 ret).wire ∧
        t.tagStore.head? = some { pkg := r.pkg, core := r.core, tag := r.tag, ret := ret, time := s.cycle })) ∧
    (∀ core q, s.nthSent k n = some (core, q) →
      (q.lost = true → s.reachable q.pkg = true → s.cycle < q.time + 2100000 → exec (.atResend k n) s =
        .next ((s.send q.pkg (q.pa / 64) (.atReq q.pkg q.tag q.wave q.cmd q.pa)).modReq core q (fun x => { x with lost := false }))) ∧
      exec (.atResendTimeout k n) s = .next (if q.time + 2100000 ≤ s.cycle then settleAt (atEnd s core q 2 []) k else s)) ∧
    (∀ pkg core tag, s.atHeld = [] → ∃ t, exec (.atTagExpire pkg core tag) s = .next t ∧ { t with tagStore := s.tagStore } = s ∧
      ∀ x, x ∈ t.tagStore ↔ x ∈ s.tagStore ∧ ¬ (x.pkg = pkg ∧ x.core = core ∧ x.tag = tag ∧ x.time + 2100000 ≤ s.cycle)) ∧
    (∀ key st ret core q, s.sentTo key = some (core, q) → exec (.atResponseArrive key st ret) s = .next (settleAt (atEnd s core q st ret) q.wave)) ∧
    (∀ core q st ret w c, s.cmd? q.wave q.cmd = some (w, c) → atEnd s core q st ret =
      (if st ≤ 1 then (s.dropReq core q).joinRemote core 2 else s.dropReq core q).atLanesDone w c
      ((c.atLanes (q.pkg + 1) q.pa).map (fun L => (L, atLane (if st ≤ 1 then (Tab.getD ret L 0).toNat else 0) st))))

/-- Atomics at their home, and their life on the fabric (order and end of requests: the model's, Logs 35 and 47). -/
def Obligations.Atomics : Prop := Claim.AtomicFold ∧ Claim.AtomicEvents

/-- R148, R262, R264, R275, R276: what peers ask of this home. A peer's load is answered from home memory, or reported poisoned; a peer's record that no
publication covers is applied, with that of its trigger in the same 32-byte block as one step, or, where its granule is poisoned, discarded and recorded;
one behind an earlier record of its log for its tract waits. The announcement of a mark, a message with no byte enabled in the model (Log 75), is kept, and
its stamp raises the stamps taken later; none comes below the stamp of a completed operation at SYSTEM scope (Log 75). The record of a discarded one is on the die of the granule's tract (the model's reading, Log 102). -/
def Obligations.PeerRequests : Prop :=
  ∀ (s : State),
    (∀ pkg core pa n, isHbm pa = true → isHbm (pa + n) = true → s.poisoned pa = true →
      exec (.remoteLoadRequest pkg core pa n) s = .next (s.send pkg (pa / 64) (.ldAns pkg core [] true))) ∧
    (∀ pkg core pa n, isHbm pa = true → isHbm (pa + n) = true → s.poisoned pa = false → ∃ t,
      exec (.remoteLoadRequest pkg core pa n) s = .next t ∧ t.wire = (s.send pkg (pa / 64) (.ldAns pkg core (s.homeBytes pa n) false)).wire ∧
      t.home = s.home ∧ t.waves = s.waves ∧ t.cores = s.cores) ∧
    (∀ r, s.peerBehind r = true → peerParts r ≠ [] → peerApply s r = none) ∧
    (∀ r, s.tooLate r = true → exec (.remoteRecordReceive r) s = .next s) ∧
    (∀ r : PeerRecord, isHbm (16 * r.gran) = true → s.recHeld = [] →
      (r.stamp = none → r.ben ≠ 0 → r.also = none → s.poisoned (16 * r.gran) = true → exec (.remoteRecordReceive r) s =
        .next (s.fb { cls := 5, code := 2, addr := r.gran, detail := 1, vi := none, core := none, on := some (s.tractOf (16 * r.gran) / 4) }).standPeers) ∧
      (r.stamp = none → r.ben ≠ 0 → r.also = none → s.poisoned (16 * r.gran) = false → ∃ t, exec (.remoteRecordReceive r) s = .next t ∧
        t.home = (s.applyHome s.nextId r.gran r.ben r.data (r.kind == 3)).home ∧ t.waves = s.waves ∧ t.cores = s.cores ∧ t.recHeld = []) ∧
      (∀ b d, r.stamp = none → r.ben ≠ 0 → r.also = some (b, d) → s.poisoned (16 * r.gran) = false →
        s.poisoned (16 * (r.gran / 2 * 2 + (1 - r.gran % 2))) = false → ∃ t, exec (.remoteRecordReceive r) s = .next t ∧
        t.home = ((s.applyHome s.nextId r.gran r.ben r.data (r.kind == 3)).applyHome (s.nextId + 1) (r.gran / 2 * 2 + (1 - r.gran % 2)) b d
          (r.kind == 3)).home ∧ t.waves = s.waves ∧ t.cores = s.cores ∧ t.recHeld = []) ∧
      (∀ k, r.stamp = some k → r.ben = 0 → r.also = none → s.tooLate r = false → ∃ t m, exec (.remoteRecordReceive r) s = .next t ∧
        t.lastStamp = max s.lastStamp k ∧ m ∈ t.marks ∧ m.pkg = r.pkg + 1 ∧ m.stamp = k ∧ m.tail = r.left ∧ t.home = s.home ∧ t.waves = s.waves ∧
        t.cores = s.cores))

/-- R256, R264, R265, R276: a record of this package whose granule is not poisoned is applied: exactly the bytes it enables take its data, and it
leaves the log of its core; one that no publication covers still counts as unpublished for its wave (R166). Every other byte of home memory keeps its value. One whose granule is poisoned is discarded and recorded in the
field book; one of another package leaves on the fabric. The placement is one to one, as every placement is that commands leave (Placement). -/
def Obligations.RecordApplied : Prop :=
  ∀ (s : State) (core : Nat) (r : Rec),
    (r.pkg = 0 → s.poisoned (16 * r.gran) = false → isHbm (16 * r.gran + 15) = true → Mem.wf s.home = true →
      (∀ a b, isHbm a = true → isHbm b = true → s.homeIndex a = s.homeIndex b → a = b) →
      (∀ a, isHbm a = true → (s.applyRec core r).homeByte a =
        if a / 16 = r.gran ∧ r.ben.getLsbD (a % 16) = true then BitVec.ofNat 8 (r.data.toNat / 2 ^ (8 * (a % 16))) else s.homeByte a) ∧
      (∀ x, x ∈ ((s.applyRec core r).core core).log ↔ x ∈ (s.core core).log ∧ x.wid ≠ r.wid) ∧
      (r.engine = true ∨ r.stamp.isSome = true → (s.applyRec core r).waves = s.waves) ∧
      (∀ w, r.engine = false → r.stamp = none → s.wave? r.wave = some w →
        (s.applyRec core r).wave? r.wave = some { w with unpub := w.unpub + 1 })) ∧
    (r.pkg = 0 → s.poisoned (16 * r.gran) = true → (s.applyRec core r).home = s.home ∧
      s.applyRec core r = ((s.unlog core r.wid).noteUnpub r).fb
        { cls := 5, code := 2, addr := r.gran, detail := 1, vi := s.recVi core r, core := some core } ∧
      (∀ x, x ∈ ((s.applyRec core r).core core).log ↔ x ∈ (s.core core).log ∧ x.wid ≠ r.wid)) ∧
    (r.pkg ≠ 0 → (s.applyRec core r).home = s.home ∧ (s.applyRec core r).wire = (s.send (r.pkg - 1) (r.gran / 4) (.logRec (r.pkg - 1) core r)).wire ∧
      (∀ x, x ∈ ((s.applyRec core r).core core).log ↔ x ∈ (s.core core).log ∧ x.wid ≠ r.wid) ∧
      (∀ m ∈ s.marks, m.pkg = 0 → r.wid ∈ m.wids → m.gone = false → { m with away := r.wid :: m.away } ∈ (s.applyRec core r).marks))

/-- R257, R259: room in a core's logs. While a store waits, the oldest 64 records of the window move to the spill area where they fit;
else a drain goes on with the same oldest 8,192 records: it waits while the compactor has those of standing marks to apply, then applies the rest in log
order, until none is left but those that R276 holds in the log (Log 111, the model's choice). The records and their order are kept by a move. -/
def Claim.LogSpace : Prop :=
  ∀ (s : State) (core : Nat),
    (storeWaits s core = true → (s.core core).draining = none → canSpill (s.core core) = true →
      exec (.spillMove core) s = .next (settleCore (spill s core) core)) ∧
    (canSpill (s.core core) = true →
      ((spill s core).core core).window + 64 = (s.core core).window ∧ ((spill s core).core core).spill = (s.core core).spill + 64 ∧
      ((spill s core).core core).log.map (fun (r : Rec) => { r with spilled := false }) =
        (s.core core).log.map (fun (r : Rec) => { r with spilled := false })) ∧
    ((s.core core).draining.isSome = true ∨ (storeWaits s core = true ∧ canSpill (s.core core) = false) →
      exec (.logFullDrain core) s = .next (settleCore (fullDrain s core) core)) ∧
    (let last := match (s.core core).draining with
        | some w => w
        | none => (((s.core core).log.take 8192).map (fun r => r.wid)).foldl max 0
      let left := fun (u : State) => ((u.core core).log.map (fun (x : Rec) => x.wid)).filter (fun w => decide (w ≤ last) && !u.fabric.heldFar.contains w)
      ((∃ w ∈ left s, s.standing w = true) → fullDrain s core = s.modCore core (fun c => { c with draining := some last })) ∧
      ((∀ w ∈ left s, s.standing w = false) →
        let u := (State.drainList (left s) s).1
        (left u = [] → ((fullDrain s core).core core).draining = none ∧ ((fullDrain s core).core core).log = (u.core core).log ∧
          (fullDrain s core).home = u.home ∧ (fullDrain s core).waves = u.waves) ∧
        (left u ≠ [] → fullDrain s core = u.modCore core (fun c => { c with draining := some last })))) ∧
    (storeWaits s core = false → (s.core core).draining = none →
      exec (.spillMove core) s = .next s ∧ exec (.logFullDrain core) s = .next s)

/-- R318: a record of a log that cannot be read is discarded and recorded; its launch faults with LOG_LOST and the core is retired. -/
def Claim.LostRecords : Prop :=
  ∀ (s : State) (core n : Nat) (r : Rec), (s.core core).log[n]? = some r →
    let t := (s.unlog core r.wid).fb { cls := 3, code := 2, addr := 0, detail := 0, vi := s.launchVi r.launch, core := some core }
    exec (.logLost core n) s = .next (retireCore t core codeLogLost (some r.launch) (t.lastSeq (core / 160))).retireMarks ∧
    (∀ x, x ∈ (t.core core).log ↔ x ∈ (s.core core).log ∧ x.wid ≠ r.wid)

/-- Spill, log-full drain, lost records (a drain whose rest is held far: the model's reading, Log 111). -/
def Obligations.LogSpace : Prop := Claim.LogSpace ∧ Claim.LostRecords

/-- R261, R264, R265, R381: a mark of this package stands, one of SYSTEM scope once the count has passed its tick, and the PUB that waits for it then has its entry. A tract compacts a
mark that stands when no mark of a lower stamp has records left there: its records there are applied one after another, each after all that must be
applied before it. A mark of which a record has left for another package leaves its tables only with the word that it is applied there, which the next turn
of its own tract's compactor tells (Log 112, the model's choice). -/
def Claim.MarkEvents : Prop :=
  ∀ (s : State) (id tract : Nat) (m : Mark), s.mark? id = some m →
    (m.stands = false → m.pkg = 0 → (m.scope ≠ 6 ∨ s.tickPassed 6 m.stamp = true) →
      exec (.markStand id) s = .next (settleCore (pubEntry (s.standMark id) m) m.core)) ∧
    (m.stands = true ∨ m.pkg ≠ 0 ∨ (m.scope = 6 ∧ s.tickPassed 6 m.stamp = false) → exec (.markStand id) s = .next s) ∧
    (m.stands = false ∨ m.gone = true ∨ s.lowerLeft m tract = true → exec (.compactMark tract id) s = .next (settleCore s m.core)) ∧
    (m.stands = true → m.gone = false → s.lowerLeft m tract = false →
      exec (.compactMark tract id) s = .next (settleCore (compactList (if m.core / 40 = tract ∧ s.markLeft m = [] then
          s.modMark id (fun x => { x with away := [] }) else s)
        (((s.markLeft m).filter (fun r => if r.pkg = 0 then s.tractOf (16 * r.gran) == tract else m.core / 40 == tract)).map (fun r => r.wid))).retireMarks
        m.core)) ∧
    (∀ u w, compactList u [w] = (if (u.withNeeded noneExempt (fun p => p.r.wid == w)).any (fun p => u.stuck p.r) = true then u
      else u.applyCounted 11 (u.withNeeded noneExempt (fun p => p.r.wid == w)))) ∧
    (∀ x ∈ s.marks, (x.away ≠ [] ∨ s.markLeft x ≠ []) → x ∈ s.retireMarks.marks) ∧
    (∀ k, ((s.standMark id).marks.find? (fun x => x.id == k)).isSome = (s.mark? k).isSome) ∧
    ∃ x, (s.standMark id).mark? id = some x ∧ x.stands = true ∧ x.wids = m.wids ∧ x.stamp = m.stamp

/-- R162, R163, R262, R263: acquires. One completes when its tick has come and the marks it replays stand; the writes and horizons of the marks,
and no others, then join the horizon of the core, and its entry is the highest stamp replayed. Until then it waits. -/
def Claim.Acquires : Prop :=
  ∀ (s : State) (k : Nat) (w : Wave) (c : Cmd) (sc : Scope) (a : Nat), s.wave? k = some w → c.op = .acq sc → c.st = stageSt 2 a →
    w.cmds.find? (fun c => c.st.stage.1 == 2 || c.st.stage.1 == 5) = some c →
    (s.acquireReady w.core sc.code a none = false → exec (.acquireComplete k) s = .next (settleAt s k)) ∧
    (s.acquireReady w.core sc.code a none = true → exec (.acquireComplete k) s =
      .next (settleAt ((((s.replay w.core sc.code a none).settleStamp (if sc.code = 6 then a else 0)).dropCmd c.wave c.id).deliverFwd c .ready
        (sameLanes w.phys (BitVec.ofNat 128 (s.replayTop w.core sc.code a none)))) k)) ∧
    (∀ x, x ∈ ((s.replay w.core sc.code a none).core w.core).horizon ↔
      x ∈ (s.core w.core).horizon ∨ ∃ m ∈ s.toReplay w.core sc.code a none, x ∈ m.hor ∨ x ∈ m.wids) ∧
    (s.replay w.core sc.code a none).home = s.home

/-- R165, R276: LG.DRAIN applies the records it covers in log order, those of the survey log at its push and those of the engine log that no command then
running appended. It ends when all are applied, and its entry is their count; at one that cannot be applied it waits, but one that only an unreachable home keeps is passed by. -/
def Claim.Drains : Prop :=
  ∀ (s : State) (k : Nat) (w : Wave) (c : Cmd) (n : Nat), s.wave? k = some w → c.st = stageSt 4 n →
    w.cmds.find? (fun c => c.st.stage.1 == 4) = some c →
    let rs := (s.core w.core).log.filter (drainCovers n c.drainGot.2)
    let d := State.drainList (rs.map (fun x => x.wid)) s
    let count := c.drainGot.1 + (rs.filter (fun x => !s.lost x && !(d.1.core w.core).log.any (fun y => y.wid == x.wid))).length
    (d.2 = true → exec (.drainComplete k) s = .next (settleAt ((d.1.dropCmd c.wave c.id).deliverFwd c .ready
      (sameLanes w.phys (BitVec.ofNat 128 count))) k)) ∧
    (d.2 = false → exec (.drainComplete k) s = .next (settleAt (d.1.modCmd c.wave c.id (fun x => { x with got := some (count, none, c.drainGot.2) })) k)) ∧
    (∀ x y u, s.drainOne x = some u → State.drainList [x, y] s = State.drainList [y] u) ∧
    (∀ x y, s.drainOne x = none → s.passesBy x = false → State.drainList [x, y] s = (s, false)) ∧
    (∀ x y, s.drainOne x = none → s.passesBy x = true → State.drainList [x, y] s = ((State.drainList [y] s).1, false))

/-- Marks stand and are compacted, acquires complete, drains end (the second turn of a compaction: the model's choice, Log 112). -/
def Obligations.MarksAndAcquires : Prop := Claim.MarkEvents ∧ Claim.Acquires ∧ Claim.Drains

/-- R260: stamps. One taken by a core lies above every stamp taken or seen before, is not below the domain count, names the core, and is the least such; the
count's warning and its stop are recorded once each. -/
def Claim.Stamps : Prop :=
  ∀ (s : State) (core : Nat), core < 1024 →
    s.lastStamp < (s.takeStamp core).1 ∧ s.domCount * 1024 ≤ (s.takeStamp core).1 ∧ (s.takeStamp core).1 % 1024 = core ∧
    (∀ t, s.lastStamp < t → t % 1024 = core → s.domCount ≤ t / 1024 → (s.takeStamp core).1 ≤ t) ∧
    (s.takeStamp core).2.lastStamp = (s.takeStamp core).1 ∧ ((s.takeStamp core).2.core core).lastStamp = (s.takeStamp core).1 ∧
    (2 ^ 54 - 2 ^ 40 ≤ s.domCount → s.fabric.warned = false → exec .domainCountWarning s =
      .next (({ s with fabric := { s.fabric with warned := true } } : State).fb { cls := 5, code := 4, addr := 0, detail := 0, vi := none, core := none })) ∧
    (s.domCount < 2 ^ 54 - 2 ^ 40 ∨ s.fabric.warned = true → exec .domainCountWarning s = .next s) ∧
    (2 ^ 54 - 2 ^ 32 ≤ s.domCount → s.fabric.stopped = false → exec .stampLimitStop s =
      .next (({ s with fabric := { s.fabric with stopped := true } } : State).fb
        { cls := 5, code := 5, addr := 0, detail := s.domCount, vi := none, core := none })) ∧
    (s.domCount < 2 ^ 54 - 2 ^ 32 ∨ s.fabric.stopped = true → exec .stampLimitStop s = .next s)

/-- R153, R154, R269: an SC operation takes its stamp at a position of the wheel that its core owns, one operation a cycle, after its push: LDSC its
acquire's, STSC, whose records are appended, and an atomic with .sc a mark of SYSTEM scope. At any other position nothing is taken. STSC is complete once its mark stands
and every record of the mark is applied. -/
def Claim.ScLoads : Prop :=
  ∀ (s : State) (core : Nat) (w : Wave) (c : Cmd), nextSc s core = some (w, c) → c.st = .queued →
    (s.ownsPos core s.wheelPos = true → (s.core core).lastSc ≠ some s.cycle → c.pushed < s.cycle → w.canPerform c = true → s.canStamp 6 = true →
      s.waveHeld w c.wave = false →
      let done := fun (t : State) => settleCore ((t.modCore core (fun k => { k with lastSc := some s.cycle })).tally (core / 40) 15
        (s.cycle - c.pushed) (some core)) core
      (∀ sz sx, c.op = .ld .ldsc sz sx → exec (.scPerform core) s =
        .next (done ((s.takeStamp core).2.modCmd c.wave c.id (fun d => { d with st := stageSt 2 (s.takeStamp core).1 })))) ∧
      ((∃ o aw sc, c.op = .atm o aw sc .sc) ∨ (∃ sz, c.op = .st .stsc sz) ∧ (s.core core).roomFor (storeRecs c).length = true ∧ w.twin = none →
        s.markRoom 6 core = false → exec (.scPerform core) s = .next (settleCore ((s.noteWait 6 core (.cmd c.id)).getD s) core)) ∧
      (∀ sz, c.op = .st .stsc sz → (s.core core).roomFor (storeRecs c).length = true → w.twin = none → s.markRoom 6 core = true →
        exec (.scPerform core) s = .next (done (publishStsc (appendAll s c 3) w c))) ∧
      (∀ o aw sc, c.op = .atm o aw sc .sc → s.markRoom 6 core = true → exec (.scPerform core) s = .next (done (relStart s w c 6)))) ∧
    (s.ownsPos core s.wheelPos = false ∨ (s.core core).lastSc = some s.cycle ∨ s.cycle ≤ c.pushed →
      exec (.scPerform core) s = .next (settleCore s core)) ∧
    (∀ d m, d.st = stageSt 8 m → tryCmd s w d =
      (if s.markDone m = true then some ((s.dropCmd d.wave d.id).settleStamp (s.markStamp m)) else none))

/-- R160 to R166, R261, R271: a command of LG of a wave that is no trailing twin, at the head of its order. A publication, acquire or ACQN of a scope no wider than the party is done at
once with 0, a publication once no record of the wave is held for its twin; one of a wider scope takes its mark or its stamp and waits for it, and a PUB that finds a mark table full waits at its queue. -/
def Claim.LgCommands : Prop :=
  ∀ (s : State) (w : Wave) (c : Cmd) (sc : Scope), s.wave? c.wave = some w → c.st = .queued → w.canPerform c = true → w.trails = false →
    let done := some ((s.dropCmd c.wave c.id).deliverFwd c .ready (sameLanes w.phys 0))
    ((c.op = .acq sc ∨ c.op = .acqn sc) → sc.code ≤ 1 → tryCmd s w c = done) ∧
    (c.op = .pub sc → sc.code ≤ 1 → s.waveHeld w c.wave = false → tryCmd s w c = done) ∧
    (c.op = .pub sc → s.waveHeld w c.wave = true → tryCmd s w c = none) ∧
    (c.op = .pub sc → 1 < sc.code → s.canStamp sc.code = true → s.waveHeld w c.wave = false → s.markRoom sc.code w.core = true →
      let r := s.takeMark w.core { scope := sc.code, launch := w.launch, engine := false, hor := (s.core w.core).horizon } 0 []
      tryCmd s w c = some (r.2.modCmd c.wave c.id (fun d => { d with st := stageSt 1 r.1.id })) ∧
      (∀ x, x ∈ r.1.wids ↔ ∃ e ∈ (s.core w.core).log, e.engine = false ∧ e.held = false ∧ e.wid = x) ∧
      r.1.stamp = (s.takeStamp w.core).1 ∧ r.1.stands = false) ∧
    (c.op = .pub sc → 1 < sc.code → s.canStamp sc.code = true → s.waveHeld w c.wave = false → s.markRoom sc.code w.core = false →
      ∃ t, tryCmd s w c = some t ∧ t.marks = s.marks ∧ t.home = s.home) ∧
    (c.op = .acq sc ∨ c.op = .acqn sc → 1 < sc.code → s.canStamp sc.code = true →
      tryCmd s w c = some ((s.takeStamp w.core).2.modCmd c.wave c.id (fun d => { d with st := stageSt 2 (s.takeStamp w.core).1 }))) ∧
    (c.op = .drain → tryCmd s w c =
      some (s.modCmd c.wave c.id (fun d => { d with st := stageSt 4 s.nextId, got := some (0, none, s.runningCmds w.core) })))

/-- Stamps rise; an SC load is performed at a position of its core. -/
def Obligations.StampsAndWheel : Prop := Claim.Stamps ∧ Claim.ScLoads ∧ Claim.LgCommands

/-- R169 to R171, R176, Table 5.10: the arithmetic of barriers and buffers. A credit completes a phase exactly when both counts reach zero,
and then restarts them; the counts of a buffer's slots always sum to the same. -/
def Claim.BarrierArithmetic : Prop :=
  (∀ (b : Bar), 0 < b.aleft →
    (b.credit true 0).1 = (if b.aleft = 1 ∧ b.bleft = 0 then
      { b with phase := (b.phase + 1) % 2 ^ 16, aleft := b.aexp, bleft := b.bexp } else { b with aleft := b.aleft - 1 }) ∧
    ((b.credit true 0).2 = true ↔ b.aleft = 1 ∧ b.bleft = 0)) ∧
  (∀ (b : Bar) n, n ≤ b.bleft →
    ((b.credit false n).2 = true ↔ b.aleft = 0 ∧ b.bleft = n) ∧
    ((b.credit false n).2 = false → (b.credit false n).1 = { b with bleft := b.bleft - n })) ∧
  (∀ (b : Bar) n, b.bleft < n → 0 < b.aleft → b.credit false n = ({ b with overflow := true, bleft := 0 }, false)) ∧
  (∀ (b : Bar), b.aleft = 0 → 0 < b.bleft → b.credit true 0 = ({ b with extra := true }, false)) ∧
  (∀ (b : Bar), b.phase < 2 ^ 16 → b.aexp < 2 ^ 16 → b.aleft < 2 ^ 16 → b.bexp < 2 ^ 32 → b.bleft < 2 ^ 32 → Bar.ofNat b.toNat = b) ∧
  ∀ (c : Cb),
    let n := c.free + c.resv + c.filled + c.tak
    (0 < c.free → c.reserve.1.free + c.reserve.1.resv + c.reserve.1.filled + c.reserve.1.tak = n ∧ c.reserve.1.resv = c.resv + 1) ∧
    (c.fill.free + c.fill.resv + c.fill.filled + c.fill.tak = n ∧ (c.resv = 0 → c.fill = { c with ef := true })) ∧
    (0 < c.filled → c.take.1.free + c.take.1.resv + c.take.1.filled + c.take.1.tak = n ∧ c.take.1.tak = c.tak + 1) ∧
    (c.release.free + c.release.resv + c.release.filled + c.release.tak = n ∧ (c.tak = 0 → c.release = { c with efr := true }))

/-- R167, R171, R173, R176: the waits of BA. WAIT ends when its barrier is live and past the phase, or was so when it was last evaluated, and no earlier one of the barrier is to end first; PBAR when every wave of the party that has not
exited stands at one; CBRESV when a slot is free and no earlier one waits. Until then nothing changes. -/
def Claim.BarrierWaits : Prop :=
  ∀ (s : State) (k : Nat) (w : Wave) (p : Party) (c : Cmd) (cb : Nat), s.wave? c.wave = some w → s.party? w.party = some p → w.trails = false →
    let lane := (lowest c.mask).getD 0
    let x := baAddr (laneAt c.a lane)
    let d := (s.bar p x).ahead ((laneAt c.b lane).toNat % 2 ^ 16)
    let entry := fun (n : Nat) => settleAt ((s.dropCmd c.wave c.id).deliverFwd c .ready (sameLanes w.phys (BitVec.ofNat 128 n))) k
    ((s.wave? k).bind (fun v => v.baWaiting (· == .wait)) = some (c, .wait, cb) →
      (c.st.stage.1 = 1 → s.waitAhead p c.id (baAddr c.opA) = false →
        exec (.baWaitSatisfy k) s = .next (if s.barLive p x = true ∧ 1 ≤ d then entry d.toNat else s)) ∧
      (∀ n, c.st = stageSt 6 n → exec (.baWaitSatisfy k) s = .next (if s.waitAhead p c.id (baAddr c.opA) = true then s else entry n))) ∧
    (∀ core (n : BitVec 4), nextOnBuffer s core .cbresv n.toNat = some c → ((s.core w.core).cb n.toNat).free ≠ 0 →
      s.cbAhead w.core c.id .cbresv n.toNat = false →
      exec (.cbSlotReady core n) s = .next (settleCore (((s.dropCmd c.wave c.id).modCb w.core n.toNat
        (fun _ => ((s.core w.core).cb n.toNat).reserve.1)).deliver c .ready (sameLanes w.phys ((s.core w.core).cb n.toNat).reserve.2)) core)) ∧
    (∀ core (n : BitVec 4), nextOnBuffer s core .cbresv n.toNat = none → nextOnBuffer s core .cbtake n.toNat = some c →
      ((s.core w.core).cb n.toNat).filled ≠ 0 → s.cbAhead w.core c.id .cbtake n.toNat = false →
      exec (.cbSlotReady core n) s = .next (settleCore (((s.dropCmd c.wave c.id).modCb w.core n.toNat
        (fun _ => ((s.core w.core).cb n.toNat).take.1)).deliver c .ready (sameLanes w.phys ((s.core w.core).cb n.toNat).take.2)) core)) ∧
    (∀ party q, s.party? party = some q →
      let ws := (s.partyWaves party).filter (fun e => !e.2.exited)
      (ws = [] ∨ (∃ e ∈ ws, e.2.baWaiting (· == .pbar) = none) → exec (.baPbarComplete party) s = .next s) ∧
      (ws ≠ [] → (∀ e ∈ ws, (e.2.baWaiting (· == .pbar)).isSome = true) →
        let cs := ws.filterMap (fun e => (e.2.baWaiting (· == .pbar)).map (fun y => (e.2, y.1)))
        let u := cs.foldl (fun v y => (v.dropCmd y.2.wave y.2.id).deliver y.2 .ready (sameLanes y.1.phys 0)) s
        exec (.baPbarComplete party) s = .next (settleCore u q.core) ∧ cs.length = ws.length ∧ u.home = s.home ∧ u.cores = s.cores ∧
        ∀ y ∈ cs, ∀ v, u.wave? y.2.wave = some v → ∀ z ∈ v.cmds, z.id ≠ y.2.id))

/-- R167, R169 to R176, Table 5.10: a command of BA of a wave that is no trailing twin, at the head of its order. BINIT makes or ends a live barrier and raises EVC, ARRIVE credits
one, TEST answers the barrier's bytes and clears its error bits, CBINIT, CBFILL and CBFREE change their buffer; a WAIT that is satisfied answers how far the phase
has moved on, CBRESV and CBTAKE answer a slot, and those that find none wait. -/
def Claim.BaCommands : Prop :=
  ∀ (s : State) (w : Wave) (c : Cmd) (p : Party) (o : BaOp) (cb : Nat), s.wave? c.wave = some w → s.party? w.party = some p → c.op = .ba o cb →
    c.st = .queued → w.canPerform c = true → w.trails = false →
    let lane := (lowest c.mask).getD 0
    let b := laneAt c.b lane
    let x := baAddr (laneAt c.a lane)
    let t := s.dropCmd c.wave c.id
    let d := (s.bar p x).ahead (b.toNat % 2 ^ 16)
    let k := (s.core w.core).cb cb
    let wait := some (s.modCmd c.wave c.id (fun e => { e with st := stageSt 1 0 }))
    (o = .binit → tryCmd s w c = some (performBinit t p w.party x b)) ∧
    (o = .arrive → tryCmd s w c = some (t.creditBar w.party x true (b.toNat % 2 ^ 32))) ∧
    (o = .wait → s.waitAhead p c.id (baAddr c.opA) = false → s.barLive p x = true → 1 ≤ d →
      tryCmd s w c = some (t.deliverFwd c .ready (sameLanes w.phys (BitVec.ofNat 128 d.toNat)))) ∧
    (o = .wait → s.barLive p x = false ∨ d < 1 → tryCmd s w c = wait) ∧
    (o = .test → tryCmd s w c = some ((if s.barLive p x = true then t.setBar p x { s.bar p x with overflow := false, extra := false } else t).deliverFwd
      c .ready (sameLanes w.phys (BitVec.ofNat 128 (s.spadNat p x 16))))) ∧
    (o = .pbar → tryCmd s w c = wait) ∧
    (o = .cbinit → (s.core w.core).loops = [] → tryCmd s w c = some ((s.modCb w.core cb (fun _ =>
      Cb.init x (b.toNat % 2 ^ 6) (b.toNat / 2 ^ 16 % 2 ^ 16))).dropCmd c.wave c.id)) ∧
    (o = .cbresv → k.free ≠ 0 → s.cbAhead w.core c.id o cb = false →
      tryCmd s w c = some ((t.modCb w.core cb (fun _ => k.reserve.1)).deliver c .ready (sameLanes w.phys k.reserve.2))) ∧
    (o = .cbtake → k.filled ≠ 0 → s.cbAhead w.core c.id o cb = false →
      tryCmd s w c = some ((t.modCb w.core cb (fun _ => k.take.1)).deliver c .ready (sameLanes w.phys k.take.2))) ∧
    ((o = .cbresv ∧ k.free = 0) ∨ (o = .cbtake ∧ k.filled = 0) → tryCmd s w c = wait) ∧
    (o = .cbfill → tryCmd s w c = some (t.modCb w.core cb Cb.fill)) ∧
    (o = .cbfree → tryCmd s w c = some (t.modCb w.core cb Cb.release)) ∧
    (∀ q, p.spad x = some q → (b.toNat % 2 ^ 16 ≠ 0 ∨ b.toNat / 2 ^ 32 % 2 ^ 32 ≠ 0) → (s.core p.core).bars.length < 64 →
      q ∈ ((performBinit s p w.party x b).core p.core).bars) ∧
    (∀ q, p.spad x = some q → (b.toNat % 2 ^ 16 ≠ 0 ∨ b.toNat / 2 ^ 32 % 2 ^ 32 ≠ 0) → (s.core p.core).bars.length < 64 →
      ∃ v, (performBinit s p w.party x b).party? w.party = some v ∧ v.evc = p.evc + 1) ∧
    (∀ q, p.spad x = some q → b.toNat % 2 ^ 16 = 0 → b.toNat / 2 ^ 32 % 2 ^ 32 = 0 → q ∉ ((performBinit s p w.party x b).core p.core).bars ∧
      (q ∈ (s.core p.core).bars → ∃ v, (performBinit s p w.party x b).party? w.party = some v ∧ v.evc = p.evc + 1))

/-- Credits of barriers and slots of circular buffers; WAIT, PBAR, CBRESV and CBTAKE end when their condition holds; BINIT. -/
def Obligations.BarrierWaits : Prop := Claim.BarrierArithmetic ∧ Claim.BarrierWaits ∧ Claim.BaCommands

/-- R68, R185, R187, R188, R190: one accumulated row. Element n of the row takes the K-step of its old value, the A row and column n; every other element
of the accumulators keeps its value. -/
def Claim.AccumulatorRows : Prop :=
  (∀ (at' bt : ETy) (m r : Nat) (a : KOp) (cols : List KOp) (e : MxEngine) (m' r' n : Nat), cols.length ≤ 32 → r < 64 → r' < 64 → n < 32 →
    (accRow at' bt m r a cols e).elem m' r' n =
      if m' = m ∧ r' = r ∧ n < cols.length then kStep at' bt (e.elem m r n) a (cols.getD n a) else e.elem m' r' n) ∧
  (∀ (m : Nat) (rs : List Nat) (e : MxEngine) (m' r n : Nat), r < 64 → n < 32 →
    (e.zeroRows m rs).elem m' r n = if m' = m ∧ r ∈ rs then 0 else e.elem m' r n) ∧
  (∀ (m r n : Nat) (x : BitVec 32) (e : MxEngine), (e.setElem m r n x).elem m r n = x ∧ (e.setElem m r n x).bl = e.bl ∧
    (e.setElem m r n x).atype = e.atype ∧ (e.setElem m r n x).btype = e.btype)

/-- R68, R69, R182, R185 to R188, R191: what the matrix commands read and write. LDB loads 32 columns, and of BFP their scales; a latch that nothing loaded holds zeros, and what a load under a narrower type left beyond it is free (Log 8). An active lane L
takes rows 2L and 2L + 1, at the base and stride of the lowest active lane of its quarter, or of the wave; each is accumulated chunk by chunk against the 32 columns, and no other row changes. STACC writes each taken row, scaled and
converted (the draws of the second half of a group: the model's reading, Log 95). -/
def Claim.MatrixOperands : Prop :=
  ∀ (s : State) (core : Nat) (p : Party) (c : Cmd) (bl m h : Nat), h < 2 → (∀ L, c.mask.getLsbD L = true → L / 32 = h) →
    let e := (s.core core).mx
    let bytes := fun (ty : ETy) => if ty.isBfp = true then 64 * ty.bfpM else 64
    let taken := fun (r : Nat) => c.mask.getLsbD (32 * h + r / 2)
    (let u := performLdb s core p c bl;
      let v := (u.core core).mx
      ∃ l, Tab.get? v.bl bl = some l ∧ (∀ k, k ≠ bl → Tab.get? v.bl k = Tab.get? e.bl k) ∧ v.acc = e.acc ∧ v.atype = e.atype ∧ v.btype = e.btype ∧
        u.waves = s.waves ∧ (u.core core).sram = (s.core core).sram ∧ ∀ j, j < 32 →
        nth l.cols j [] = s.spadRead p (c.opA.toNat % 2 ^ 64 + j * (c.opB.toNat % 2 ^ 16)) (bytes e.btype) ∧
        (e.btype.isBfp = true → nth l.scales j [] = s.spadRead p (c.opB.toNat / 2 ^ 16 % 2 ^ 20 + j * (c.opB.toNat / 2 ^ 36 % 2 ^ 16)) 32)) ∧
    (∀ (ty : ETy) (n : Nat), bColumn none ty s.fresh n = { elems := 0, slots := 0 } ∧
      ∀ l, (nth l.cols n []).length = bytes ty → (ty.isBfp = true → (nth l.scales n []).length = 32) →
        bColumn (some l) ty s.fresh n = { elems := ofBytes (nth l.cols n []), slots := if ty.isBfp = true then ofBytes (nth l.scales n []) else 0 }) ∧
    (∀ whole : Bool, let rows := mmRows whole c.mask h
      (∀ r, r < 64 → taken r = true → ∃ x ∈ rows, x.r = r) ∧ (rows.map (fun x => x.r)).Nodup ∧
      (∀ x ∈ rows, x.r < 64 ∧ taken x.r = true ∧ x.num = (if whole = true then x.r else x.r % 16) ∧ c.mask.getLsbD x.from' = true ∧
        (whole = false → x.from' % 32 / 8 = x.r / 16) ∧
        (∀ J, J < x.from' → c.mask.getLsbD J = true → whole = false ∧ J % 32 / 8 ≠ x.r / 16) ∧
        (let b := (laneAt c.b x.from').toNat;
          let i := if b.testBit 36 = true then (laneAt c.a (32 * h + x.r / 2)).toNat / 2 ^ (16 * (x.r % 2)) % 2 ^ 16 else x.num
          mmRowAddr c.a c.b h x = b % 2 ^ 20 + i * (b / 2 ^ 20 % 2 ^ 16)) ∧
        mmScaleAddr c.c x = (laneAt c.c x.from').toNat % 2 ^ 20 + x.num * ((laneAt c.c x.from').toNat / 2 ^ 20 % 2 ^ 16)) ∧
      (let v := ((performMm s core p c bl m whole).core core).mx;
        v.bl = e.bl ∧ v.atype = e.atype ∧ v.btype = e.btype ∧
        (∀ x ∈ rows, ∀ n, n < 32 → v.elem m x.r n = kStep e.atype e.btype (e.elem m x.r n)
          { elems := s.spadNat p (mmRowAddr c.a c.b h x) (bytes e.atype), slots := if e.atype.isBfp = true then s.spadNat p (mmScaleAddr c.c x) 32 else 0 }
          (bColumn (Tab.get? e.bl bl) e.btype s.fresh n)) ∧
        ∀ m' r n, r < 64 → n < 32 → m' ≠ m ∨ taken r = false → v.elem m' r n = e.elem m' r n)) ∧
    (∀ (at' bt : ETy) (acc : BitVec 32) (a b : KOp) (sum : Nat → BitVec 32), let n := if at'.isBfp = true ∨ at'.isInt = true then 32 else 16
      sum 0 = acc → (∀ k, sum (k + 1) = BitVec.ofNat 32 (roundTo fp32 ((fp32.value (sum k).toNat).add (fp32.value (chunkCode ((List.range n).map (fun i =>
        (a.value at' (k * n + i)).mul (b.value bt (k * n + i)))))) .rne) .rne RoundOpts.none noDraw)) → kStep at' bt acc a b = sum (mxK at' / n)) ∧
    (∀ l, (∃ x ∈ l, XVal.isNan x = true) ∨ (.inf true ∈ l ∧ .inf false ∈ l) → chunkCode l = fp32.nan) ∧
    (∀ r, (h, r) ∈ takenRows c ↔ r < 64 ∧ taken r = true) ∧ (∀ x ∈ takenRows c, x.1 = h) ∧
    (∀ lane, lowest c.mask = some lane → let b := (laneAt c.b lane).toNat
      performStacc s core p c m = (takenRows c).foldl (staccOne core p c m) (if b.testBit 56 = true then s.saveAcc core c m else s) ∧
      ∀ r ty rm, (h, r) ∈ takenRows c → staccType (laneAt c.b lane) = some ty → Rm.ofCode (b / 2 ^ 53 % 8) = some rm →
        let w := ETy.width ty
        ∃ row : List Byte, row.length = 4 * w ∧ (∀ n, n < 32 → ofBytes row / 2 ^ (w * n) % 2 ^ w = staccElem c.fpc ty (Rm.mode rm c.fpc) (b % 2 ^ 32) (e.elem m r n).toNat
          { seed := fpcSeed c.fpc, t := c.t, slot := c.slot, lane := 32 * h + r / 2 } (32 * (r % 2) + n) % 2 ^ w) ∧
          (let t := s.spadWrite p ((laneAt c.a lane).toNat % 2 ^ 64 + r * (b / 2 ^ 32 % 2 ^ 16)) row;
            staccOne core p c m s (h, r) = if b.testBit 56 = true then t.modMx core (fun x => x.zeroRows m [r]) else t)) ∧
    (∀ fpc (ty : ETy) rm scale acc d k, let x := (fp32.value acc).mul (fp32.value scale)
      let o := staccElem fpc ty rm scale acc d k
      (ty.isInt = false → o = roundTo (fmtOf ty) x rm { ovf := fpcOvf fpc, fres := false } (fun _ => draw8 d k)) ∧
      (ty.isInt = true → (x = .nan → o = 0) ∧ (x = .inf false → ETy.read ty o = ETy.imax ty) ∧ (x = .inf true → ETy.read ty o = ETy.imin ty) ∧
        ∀ neg num den ex, x = .fin neg num den ex →
          ETy.read ty o = max (ETy.imin ty) (min (ETy.imax ty) (roundIntegral neg num den ex rm (fun _ => draw8 d k)))))

/-- R45, R180, R182 to R194, R319, R395: the submission at the head of an awake matrix engine's queue is performed, once the earlier STSs of its wave are, MMQ and MMW only in cycles that DUTY allows: CFG, LDB, MMQ, MMW,
ZACC, STACC, RDACC, KAT and QSTAT. One that answers and is the last of its trigger makes its entry ready. A KAT that finds another signature is
counted and is a detected error of its wave, whether it zeroes the accumulator or not. -/
def Claim.MatrixCommands : Prop :=
  ∀ (s : State) (core n : Nat) (p : Party) (w : Wave) (c : Cmd) (rest : List Cmd), (s.core core).mx.power = .awake n → (s.core core).mxq = c :: rest →
    s.party? c.party = some p → s.wave? c.wave = some w →
    let pass := ∃ l m, c.op = .mxMmq l m ∨ c.op = .mxMmw l m
    (s.waitsSts c = true ∨ (s.issuing = false ∧ pass) → exec (.mxCommandPerform core) s = .next s) ∧
    (s.waitsSts c = false → s.issuing = true ∨ ¬ pass →
    let t := s.modCore core (fun k => { k with mxq := k.mxq.erase c })
    let u := t.modMx core (fun e => closePasses e c)
    let ends := fun (x : State) => exec (.mxCommandPerform core) s = .next (settleCore (x.modMx core (fun e => { e with power := .awake s.cycle })) core)
    let sig := kSig (s.core core).mx (c.opB.toNat % 16)
    let kat := fun (ok : Bool) => u.deliverMx core w c false (sameLanes w.phys (BitVec.ofNat 128 (sig.toNat + ok.toNat * 2 ^ 64)))
    (∀ g, c.op = .mxCfg → mxConfig c.opA = some g → ends (u.modMx core (fun e => { e with atype := g.1, btype := g.2 }))) ∧
    (∀ l, c.op = .mxLdb l → ends (performLdb u core p c l)) ∧
    (∀ l m, c.op = .mxMmq l m → ends (performMm t core p c l m false)) ∧
    (∀ l m, c.op = .mxMmw l m → ends (performMm u core p c l m true)) ∧
    (∀ m, c.op = .mxZacc m → ends ((u.saveAcc core c m).modMx core (fun e => e.zeroRows m ((takenRows c).map (fun x => x.2))))) ∧
    (∀ m, c.op = .mxStacc m → ends (performStacc u core p c m)) ∧
    (∀ m, c.op = .mxRdacc m → ends (u.deliverMx core w c false ((List.range w.phys).map (rdaccLane (s.core core).mx m (c.opB.toNat % 16))))) ∧
    (c.op = .mxKat → c.opB.getLsbD 4 = false → sig.toNat % 2 ^ 40 = c.opA.toNat % 2 ^ 40 → ends (kat true)) ∧
    (c.op = .mxKat → c.opB.getLsbD 4 = true → sig.toNat % 2 ^ 40 = c.opA.toNat % 2 ^ 40 →
      ends (((kat true).saveAcc core c (c.opB.toNat % 16)).modMx core (fun e => e.zeroRows (c.opB.toNat % 16) (List.range 64)))) ∧
    (c.op = .mxKat → c.opB.getLsbD 4 = false → sig.toNat % 2 ^ 40 ≠ c.opA.toNat % 2 ^ 40 → exec (.mxCommandPerform core) s =
      .next (settleCore (detectError (((kat false).countMxErr core).modMx core (fun e => { e with power := .awake s.cycle })) c.wave) core)) ∧
    (c.op = .mxKat → c.opB.getLsbD 4 = true → sig.toNat % 2 ^ 40 ≠ c.opA.toNat % 2 ^ 40 → exec (.mxCommandPerform core) s =
      .next (settleCore (detectError (((((kat false).saveAcc core c (c.opB.toNat % 16)).modMx core (fun e => e.zeroRows (c.opB.toNat % 16) (List.range 64))).countMxErr
        core).modMx core (fun e => { e with power := .awake s.cycle })) c.wave) core)) ∧
    (c.op = .mxQstat → w.trails = false → ends (u.deliverMx core w c true (sameLanes w.phys
      (if p.matrix = true then mxStatus (s.core core).mx (min 31 ((s.core core).mxq.erase c).length) else 0)))) ∧
    (c.op = .mxQstat → w.trails = true → (t.core core).mxMore c.id = true → ends u) ∧
    (∀ x, c.op = .mxQstat → w.trails = true → (t.core core).mxMore c.id = false → w.fwdFor c = some x → ends (u.takeFwd c x))) ∧
    (∀ x f vals, (x : State).wave? c.wave = some w → (x.core core).mxMore c.id = false → ∃ all,
      x.deliverMx core w c f vals = (if f = true then x.deliverFwd c .ready all else x.deliver c .ready all) ∧
      ∀ L, L < w.phys → c.mask.getLsbD L = true → laneAt all L = laneAt vals L)

/-- R393: the power of matrix engines. One without a command for 8,192 cycles goes idle; at most 8 wakes of a tract are admitted in a window of 64
cycles, the earliest request first; an admitted engine is awake 4,096 cycles later, in a cycle that DUTY allows. -/
def Claim.MatrixPower : Prop :=
  ∀ (s : State) (core tract : Nat),
    (∀ n, (s.core core).mx.power = .awake n → (s.core core).mxq = [] →
      exec (.mxIdle core) s = .next (if n + 8192 ≤ s.cycle then s.modMx core (fun e => { e with power := .idle }) else s)) ∧
    (∀ n, (s.core core).mx.power = .admitted n →
      exec (.mxWakeStart core) s = .next (if n + 4096 ≤ s.cycle ∧ s.issuing = true then s.modMx core (fun e =>
        { e with power := .awake (if (s.core core).mxq = [] then e.lastHeld else s.cycle) }) else s)) ∧
    (∀ k, nextWake s tract = some k → Tab.getD (s.tract tract).wakes (s.cycle / 64) 0 < 8 → exec (.mxWakeAdmit tract) s =
      .next ((s.modMx k (fun e => { e with power := .admitted s.cycle })).modTract tract
        (fun t => { t with wakes := [(s.cycle / 64, Tab.getD (s.tract tract).wakes (s.cycle / 64) 0 + 1)] }))) ∧
    (8 ≤ Tab.getD (s.tract tract).wakes (s.cycle / 64) 0 → exec (.mxWakeAdmit tract) s = .next s)

/-- One accumulated row, the commands of an awake matrix engine, and its power. -/
def Obligations.MatrixCommands : Prop := Claim.AccumulatorRows ∧ Claim.MatrixOperands ∧ Claim.MatrixCommands ∧ Claim.MatrixPower

/-- R195 to R198, R217, R319: gathers and special functions, a gather once the earlier STSs of its wave are performed. GIDX gives each lane in range its table row, and zeros out of range; GROWS copies the rows to the
scratchpad, lane by lane in increasing order, each row read after the rows before it (the model's choice, Log 96), and tells which were in range; GSTAT answers the counts, and of a leading twin forwards them; SF applies its function to the elements of the active lanes. -/
def Claim.GatherAndSf : Prop :=
  ∀ (s : State) (core : Nat) (p : Party) (w : Wave) (c : Cmd) (rest : List Cmd), s.party? c.party = some p → s.wave? c.wave = some w →
    let t := s.modCore core (fun k => { k with gaq := k.gaq.filter (fun d => d.id != c.id) })
    ((s.core core).gaq = c :: rest → s.waitsSts c = false → c.op = .gaGidx → exec (.gaComplete core) s =
      .next (settleCore ((t.countGa c).deliver c .ready ((List.range w.phys).map (fun L =>
        if c.mask.getLsbD L = true then BitVec.ofNat 128 (ofBytes (if (laneAt c.a L).toNat % 2 ^ 32 < gaCount c.opB
          then s.spadRead p (gaBase c.opB + (laneAt c.a L).toNat % 2 ^ 32 * gaStride c.opB) 16 else bytesOf 16 0)) else 0))) core)) ∧
    ((s.core core).gaq = c :: rest → s.waitsSts c = false → c.op = .gaGrows → exec (.gaComplete core) s =
      .next (settleCore ((((lanesOf c.mask).foldl (fun u L =>
        u.spadWrite p (gaDbase c.opC + L * gaDstride c.opC) (gaRow u p c (gaRowBytes c.opC) L)) t).countGa c).deliver c .ready
          ((List.range w.phys).map (fun L => if gaIndex (laneAt c.a L) < gaCount c.opB then 1 else 0))) core)) ∧
    ((s.core core).gaq = c :: rest → s.waitsSts c = false → c.op = .gaGstat → w.trails = false → exec (.gaComplete core) s =
      .next (settleCore (t.deliverFwd c .ready (sameLanes w.phys (BitVec.ofNat 128 (p.gaDone * 2 ^ 32 + p.gaOut)))) core)) ∧
    ((s.core core).gaq = c :: rest → s.waitsSts c = true → exec (.gaComplete core) s = .next s) ∧
    (∀ f ty, (s.core core).sfq = c :: rest → c.op = .sf f ty → exec (.sfResult core) s =
      .next (settleCore ((s.modCore core (fun k => { k with sfq := k.sfq.filter (fun d => d.id != c.id) })).deliver c .ready
        ((List.range w.phys).map (fun L => if c.mask.getLsbD L = true
          then mapElems (ETy.width ty) (fun i => sfElem f ty c.fpc (elem (ETy.width ty) (laneAt c.a L) i)) else 0))) core))

/-- R217, Table 6.13: the special values of SF, for .f32 with FIN and FRES off. A NaN gives the canonical NaN in every function. -/
def Claim.SfElements : Prop :=
  let sf := fun (f : SfFn) (c : Nat) => sfElem f .f32 0 c
  let int := fun (k : Int) => roundTo fp32 (XVal.ofInt k) .rne RoundOpts.none noDraw
  let pow := fun (k : Int) => (k + 127).toNat * 2 ^ 23
  (∀ f c, fp32.value c = .nan → sf f c = 0x7FC00000) ∧
  (∀ k : Int, -126 ≤ k → k < 128 → sf .ex2 (int k) = pow k) ∧
  (∀ c, 0x43000000 ≤ c → c ≤ 0x7F800000 → sf .ex2 c = 0x7F800000) ∧
  (∀ c, 0xC3160001 ≤ c → c ≤ 0xFF800000 → sf .ex2 c = 0) ∧
  (∀ k : Int, -126 ≤ k → k < 128 → sf .lg2 (pow k) = int k) ∧
  sf .lg2 0 = 0xFF800000 ∧ sf .lg2 0x80000000 = 0xFF800000 ∧ sf .lg2 0x7F800000 = 0x7F800000 ∧
  (∀ k : Int, -126 ≤ k → k < 127 → sf .rcp (pow k) = pow (-k)) ∧
  sf .rcp 0 = 0x7F800000 ∧ sf .rcp 0x80000000 = 0xFF800000 ∧ sf .rcp 0x7F800000 = 0 ∧ sf .rcp 0xFF800000 = 0x80000000 ∧
  sf .rsq 0 = 0x7F800000 ∧ sf .rsq 0x80000000 = 0xFF800000 ∧ sf .rsq 0x7F800000 = 0 ∧
  sf .sqrt 0 = 0 ∧ sf .sqrt 0x80000000 = 0x80000000 ∧ sf .sqrt 0x7F800000 = 0x7F800000 ∧
  (∀ k : Int, -63 ≤ k → k < 64 → sf .sqrt (pow (2 * k)) = pow k) ∧
  (∀ x, isqrt x * isqrt x ≤ x ∧ x < (isqrt x + 1) * (isqrt x + 1)) ∧
  (∀ c, 0x80000000 < c → c ≤ 0xFF800000 → sf .lg2 c = 0x7FC00000 ∧ sf .rsq c = 0x7FC00000 ∧ sf .sqrt c = 0x7FC00000) ∧
  sf .sinpi 0 = 0 ∧ sf .sinpi 0x80000000 = 0x80000000 ∧ sf .sinpi 0x3F800000 = 0 ∧ sf .sinpi 0xBF800000 = 0x80000000 ∧
  sf .sinpi 0x3F000000 = 0x3F800000 ∧ sf .sinpi 0xBF000000 = 0xBF800000 ∧
  sf .cospi 0 = 0x3F800000 ∧ sf .cospi 0x3F800000 = 0xBF800000 ∧ sf .cospi 0x3F000000 = 0 ∧ sf .cospi 0xBF000000 = 0 ∧
  (∀ c, c = 0x7F800000 ∨ c = 0xFF800000 → sf .sinpi c = 0x7FC00000 ∧ sf .cospi c = 0x7FC00000) ∧
  sf .tanh 0 = 0 ∧ sf .tanh 0x80000000 = 0x80000000 ∧ sf .erf 0 = 0 ∧ sf .erf 0x80000000 = 0x80000000 ∧
  (∀ c, 0x41100000 ≤ c → c ≤ 0x7F800000 → sf .tanh c = 0x3F800000 ∧ sf .tanh (c + 2 ^ 31) = 0xBF800000) ∧
  (∀ c, 0x40800000 ≤ c → c ≤ 0x7F800000 → sf .erf c = 0x3F800000 ∧ sf .erf (c + 2 ^ 31) = 0xBF800000)

/-- Gathers and special functions (GROWS lane by lane: the model's choice, Log 96). -/
def Obligations.GatherAndSf : Prop := Claim.GatherAndSf ∧ Claim.SfElements

/-- R180, R199, R204 to R206, R261: copies. COPY2D starts when it is at the head of its party's queue, COPY2DW once its barrier is live and past its phase. A started
copy whose log has room moves its bytes; one to the scratchpad is then credited, recorded and gone, and so is one to global memory once its mark
stands. It waits while an earlier STS of its wave, or a send of the party to its own core, is not performed, and for the walk of an address that misses
(R370). That its bytes all move in one event is the model's choice (Log 27). -/
def Claim.CopyEvents : Prop :=
  ∀ (s : State) (party : Nat) (p : Party) (c : Cmd),
    let k := SxCopy.ofLanes c.opA c.opB c.opC
    let going := (sxHead s party = some (p, c, .copy2d) ∧ c.st = .queued) ∨ (sxHead s party = some (p, c, .copy2dw) ∧ c.st = copyBegun)
    (going → (∀ t, performCopy s c = some t → exec (.sxCopyComplete party) s = .next (settleCore t p.core)) ∧
      (performCopy s c = none → exec (.sxCopyComplete party) s = .next s)) ∧
    (∀ l, going → c.party = party → s.launch? p.launch = some l → c.got = none → (s.cmdTrails c = false ∨ k.dsp = true) → s.copyFed c k.ssp = true →
      s.waitsSts c = false → p.sendsHome s = false →
      let r := runCopy s p.core p l c k.ssp k.dsp false (copyChunks k.src k.dst k.sstride k.dstride k.rows k.rowbytes)
      let noted := fun (t : State) => settleCore (t.modSx c (fun d => { d with got := some (r.bytes, r.fault, r.wids) })) p.core
      (∀ va, r.stuck = false → r.miss = some va → exec (.sxCopyComplete party) s = .next (settleCore (s.noteSxMiss p.core c.id p.launch va) p.core)) ∧
      (r.stuck = false → r.miss = none →
        (k.dsp = true → exec (.sxCopyComplete party) s = .next (noted (finishCopy r.st c k p.core p 0 r.bytes r.fault r.wids))) ∧
        (∀ m t, k.dsp = false → publish r.st p.core { scope := k.pscope, launch := p.launch, engine := true, hor := c.he } c.id r.wids = some (m, t) →
          (t.markStands m.id = true → exec (.sxCopyComplete party) s = .next (noted (finishCopy t c k p.core p m.stamp r.bytes r.fault r.wids))) ∧
          (t.markStands m.id = false → exec (.sxCopyComplete party) s = .next (noted (t.modSx c (fun d => { d with st := stageSt 1 m.id }))))))) ∧
    (sxHead s party = some (p, c, .copy2dw) → c.st = .queued →
      (s.barLive p (16 * k.waitbar) = true → 1 ≤ (s.bar p (16 * k.waitbar)).ahead k.waitph → exec (.copy2dwStart party) s =
        .next (s.modParty party (fun q => { q with sxq := q.sxq.map (fun d => if d.id = c.id then { d with st := copyBegun } else d) }))) ∧
      (s.barLive p (16 * k.waitbar) = false ∨ (s.bar p (16 * k.waitbar)).ahead k.waitph < 1 → exec (.copy2dwStart party) s = .next s) ∧
      (c.got = none → exec (.sxCopyComplete party) s = .next s)) ∧
    (sxHead s party = none → exec (.sxCopyComplete party) s = .next s ∧ exec (.copy2dwStart party) s = .next s)

/-- R207, R208: LOOPCOPY. A running loop that is asked to stop ends with status 2 and the blocks done so far; one whose buffer has no free slot
waits, and so does every one while its core halts (R358) or an address of its block is walked (R370). That a block is copied whole in one event is the
model's choice (Log 27). -/
def Claim.LoopCopies : Prop :=
  ∀ (s : State) (core i : Nat) (x : LoopCtx), Tab.get? (s.core core).loops i = some x →
    let c := x.cmd
    let k := SxCopy.ofLanes c.opA c.opB c.opC
    (x.stop = true → exec (.loopcopyIteration core i) s =
      .next (settleCore (endLoop s core i c 2 0 x.i (x.i * (k.rows * k.rowbytes))) core)) ∧
    (∀ n p l, x.stop = false → c.op = .sx .loopcopy n → s.party? c.party = some p → s.launch? p.launch = some l →
      ((s.core core).cb n).free = 0 → exec (.loopcopyIteration core i) s = .next s) ∧
    (∀ n p l, x.stop = false → c.op = .sx .loopcopy n → s.party? c.party = some p → s.launch? p.launch = some l →
      ((s.core core).cb n).free ≠ 0 → s.cbAhead core c.id .cbresv n = false → s.copyFed c k.ssp = true → s.waitsSts c = false →
      (s.core core).haltAt = none →
      let b := (s.core core).cb n
      let r := runCopy (s.modCb core n (fun b => b.reserve.1)) core p l c k.ssp true x.noted
        (copyChunks (loopSrc c.opA c.opB x.i) (b.base + b.pix * b.size * 256) k.sstride k.dstride k.rows k.rowbytes)
      (∀ va, r.miss = some va → exec (.loopcopyIteration core i) s = .next (settleCore (s.noteSxMiss core c.id p.launch va) core)) ∧
      (∀ q, r.miss = none → r.fault = some q → exec (.loopcopyIteration core i) s =
        .next (settleCore (endLoop r.st core i c 1 q x.i (x.i * (k.rows * k.rowbytes) + r.bytes)) core)) ∧
      (r.miss = none → r.fault = none → x.i + 1 ≠ loopCount c.opB → exec (.loopcopyIteration core i) s =
        .next (settleCore ((r.st.modCb core n Cb.fill).modCore core (fun q => { q with loops := Tab.set q.loops i { x with i := x.i + 1, noted := r.noted } })) core)) ∧
      (r.miss = none → r.fault = none → x.i + 1 = loopCount c.opB → exec (.loopcopyIteration core i) s =
        .next (settleCore (endLoop (r.st.modCb core n Cb.fill) core i c 0 0 (x.i + 1) ((x.i + 1) * (k.rows * k.rowbytes))) core)))

/-- R204: a block from scratchpad to scratchpad. Every byte of its rows is read, from the state that the chunks before leave, and written; it
cannot stop at a fault, and no memory at home, no log and no other core changes. -/
def Claim.ScratchpadCopies : Prop :=
  ∀ (s : State) (core : Nat) (p : Party) (l : Launch) (c : Cmd) (noted : Bool) (chunks : List (Nat × Nat)),
    let r := runCopy s core p l c true true noted chunks
    r.fault = none ∧ r.miss = none ∧ r.stuck = false ∧ r.bytes = 16 * chunks.length ∧
    r.st = chunks.foldl (fun (t : State) (x : Nat × Nat) => t.spadWrite p x.2 (t.spadRead p x.1 16)) s.choose.2 ∧
    r.st.home = s.home ∧ r.st.waves = s.waves ∧ (r.st.core p.core).log = (s.core p.core).log ∧
    (∀ n, n ≠ p.core → r.st.core n = s.core n)

/-- R200, R202, R357: the completion ring. A record is written at once where the party is resident, no record waits and the ring has room, and is held
else; without a ring, or for a party that has ended, there is none. A held record is written at HEAD of its party's ring once there is room, HEAD moves on and EVC rises, and the queue it held goes on; a WAITC that
waits takes the record at TAIL as soon as there is one. -/
def Claim.CompletionRing : Prop :=
  ∀ (s : State) (party : Nat) (p : Party), s.party? party = some p →
    (∀ own r, (cringLog p.cring = 0 ∨ p.ended = true → s.pushRecord party own r = s) ∧ (cringLog p.cring ≠ 0 → p.ended = false →
      (p.resident = true → p.held = [] → cringRoom p.cring = true → s.pushRecord party own r = s.ringWrite party r.pack) ∧
      (p.resident = false ∨ p.held ≠ [] ∨ cringRoom p.cring = false → s.pushRecord party own r =
        s.modParty party (fun q => { q with held := q.held ++ [{ own := own, rec' := r.pack }] })))) ∧
    (∀ r t, p.held = r :: t → cringLog p.cring ≠ 0 → p.resident = true → cringRoom p.cring = true → ∃ u,
      exec (.completionRecordWrite party) s = .next (settleCore u p.core) ∧ u.home = s.home ∧ u.waves = s.waves ∧
      u.party? party = some
        { p with held := t, evc := p.evc + 1,
                 cring := cringPack (cringHead p.cring + 1) (cringTail p.cring) (cringLog p.cring) (cringBase p.cring) } ∧
      (u.core p.core).sram = (s.spadWrite p (cringBase p.cring + 32 * (cringHead p.cring % 2 ^ cringLog p.cring)) (bytesOf 32 r.rec'.toNat) |>.core p.core).sram) ∧
    (p.held = [] ∨ (cringLog p.cring ≠ 0 ∧ (p.resident = false ∨ cringRoom p.cring = false)) →
      exec (.completionRecordWrite party) s = .next s) ∧
    (∀ c w, p.resident = true → p.sxWait.find? (fun c => c.op.entry) = some c → c.party = party → s.wave? c.wave = some w → w.trails = false →
      cringLog p.cring ≠ 0 → cringHead p.cring ≠ cringTail p.cring →
      exec (.waitcSatisfy party) s = .next (settleCore (((s.dropSx c).modParty c.party (fun q =>
        { q with cring := cringPack (cringHead q.cring) (cringTail q.cring + 1) (cringLog q.cring) (cringBase q.cring) })).deliverFwd c .ready
          (recordLanes w.phys (s.spadNat p (cringBase p.cring + 32 * (cringTail p.cring % 2 ^ cringLog p.cring)) 32))) p.core)) ∧
    (cringLog p.cring = 0 ∨ cringHead p.cring = cringTail p.cring → ∀ c, p.sxWait.find? (fun c => c.op.entry) = some c → c.party = party →
      exec (.waitcSatisfy party) s = .next s)

/-- COPY2D, COPY2DW and LOOPCOPY (whole in one event: the model's choice, Log 27), the completion ring. -/
def Obligations.Copies : Prop := Claim.CopyEvents ∧ Claim.LoopCopies ∧ Claim.ScratchpadCopies ∧ Claim.CompletionRing

/-- R199, R207, R210 to R212, R214, R382: what a streamer command at the head of its party's queue does when it starts. LANDRESV, LANDSEND and a remote
LANDCLR send their message, on this package or, over a route, to a peer, or end with UNREACH; a send reads its bytes at that time (Log 107, the model's
choice). A local LANDCLR and ZONEINIT clear their plots at once where no accepted send stands before them: of an open zone each RESERVED plot is torn, in
increasing order, with a record of reason CLOSE for the party that the zone is granted to; then the plots are FREE, each of the 64 with GEN raised (Log 30, DEDUCED), and the zone opens with
its geometry or is closed. LOOPCOPY takes the lowest free loop context of the core's four, of which contexts saved with a party count (Log 79, DEDUCED). -/
def Obligations.EngineStarts : Prop :=
  ∀ (s : State) (party z : Nat) (p : Party) (c : Cmd) (rest : List Cmd), s.party? party = some p → p.sxq = c :: rest → p.copyHeld = false →
    c.party = party → s.cmdTrails c = false → s.waitsSts c = false → p.sendsHome s = false →
    let t := s.modParty party (fun q => { q with sxq := q.sxq.filter (fun d => d.id != c.id), sxWait := q.sxWait ++ [c] })
    let me := coreIdent p.core
    let a := c.opA.toNat
    let b := c.opB.toNat
    let sent := fun (pkg : Nat) (m : LandMsg) =>
      (pkg = s.fabric.pkgid → startHead s party = some { t with net := t.net ++ [m] }) ∧
      (pkg ≠ s.fabric.pkgid → s.reachable pkg = true → startHead s party = some (t.send pkg c.landKey (.land pkg m))) ∧
      (pkg ≠ s.fabric.pkgid → s.reachable pkg = false → startHead s party = some (finishLand t c (landAns 0x13 0 0 0)))
    (∀ n u, startHead s party = some u → startSx (n + 1) s party = startSx n u party) ∧
    (c.op = .sx .landresv z → sent (a % 2 ^ 16) (.resv s.fabric.pkgid me c.id (a / 2 ^ 16 % 2 ^ 10) z (b % 2 ^ 19))) ∧
    (c.op = .sx .landsend z → sent (b % 2 ^ 16) (.send s.fabric.pkgid me c.id (b / 2 ^ 16 % 2 ^ 10) z (b / 2 ^ 26 % 2 ^ 6) (b / 2 ^ 32 % 2 ^ 16)
      (b / 2 ^ 48 % 2 ^ 18) (s.spadRead p (a % 2 ^ 64) (c.opC.toNat % 2 ^ 19)))) ∧
    (c.op = .sx .landclr z → c.opB.getLsbD 6 = true →
      sent (a % 2 ^ 16) (.clr s.fabric.pkgid me c.id (a / 2 ^ 16 % 2 ^ 10) z (b % 2 ^ 6) (b / 2 ^ 32 % 2 ^ 16))) ∧
    (c.op = .sx .landclr z → c.opB.getLsbD 6 = false → ((s.core p.core).sends.filter (ClearOp.localClr z (b % 2 ^ 6)).covers) = [] →
      startHead s party = some ((t.freePlot p.core z (b % 2 ^ 6)).endLand c.id)) ∧
    (c.op = .sx .zoneinit z → ((s.core p.core).sends.filter (fun x => x.zone == z)) = [] →
      ∃ u, startHead s party = some u ∧ u.home = s.home ∧ u.waves = s.waves ∧
        (let y := (s.core p.core).zone z;
          let torn := if y.isOpen = true then (List.range (y.plotsm1 + 1)).filter (fun q => (y.plot q).st == .reserved) else []
          let r := torn.foldl (fun t q => t.pushRecord party none
            { aux := landAux q (y.plot q).gen, tag := 0, bytes := (y.plot q).arrived, op := 0xFF, unit := z, fault := 4, status := 0x21 }) s
          y.granted = some party → (u.core p.core).sram = (r.core p.core).sram ∧ ∀ v, r.party? party = some v → ∃ w, u.party? party = some w ∧
            w.held = v.held ∧ w.cring = v.cring ∧ w.evc = v.evc) ∧
        (∀ q, q < 64 → ((u.core p.core).zone z).plot q =
          { Plot.reset with gen := ((((s.core p.core).zone z).plot q).gen + 1) % 2 ^ 16, since := s.cycle }) ∧
        (let y := (u.core p.core).zone z;
          y.isOpen = b.testBit 7 ∧ y.granted = ((s.core p.core).zone z).granted ∧
          (b.testBit 7 = true → y.base = a % 2 ^ 64 ∧ y.plotsm1 = b % 2 ^ 6 ∧ y.psz = b / 2 ^ 8 % 2 ^ 3 ∧ y.barix = b / 2 ^ 16 % 2 ^ 16 ∧
            y.baren = b.testBit 32 ∧ y.lease = b / 2 ^ 40 % 2 ^ 8))) ∧
    (∀ i, c.op = .sx .loopcopy z → (s.core p.core).loops.length + ((s.coreParties p.core).map (fun e => e.2.heldLoops)).sum < 4 → i < 4 →
      Tab.get? (s.core p.core).loops i = none → (∀ j, j < i → (Tab.get? (s.core p.core).loops j).isSome = true) →
      startHead s party = some ((s.dropSx c).modCore p.core (fun k =>
        { k with loops := Tab.set k.loops i { cmd := c, i := 0, stop := false, noted := false } }))) ∧
    (c.op = .sx .loopcopy z → 4 ≤ (s.core p.core).loops.length + ((s.coreParties p.core).map (fun e => e.2.heldLoops)).sum → startHead s party = none)

/-- R211, R299: a reservation that arrives from a peer is judged at the end of its cycle, those of one cycle by sender package and then by core: NO_ZONE where the zone is closed, or closing for a party that has ended (R386); REJECTED where its EXPECT is no multiple of 16 of at
least 16 that the plot holds; FULL where no plot is free; else the lowest free plot becomes reserved for the sender, and it is granted
with its generation. -/
def Claim.Reservations : Prop :=
  ∀ (s : State) (sPkg sCore tag id c zone expect : Nat), sPkg ≠ s.fabric.pkgid → coreLinear id = some c →
    let z := (s.core c).zone zone
    let m : LandMsg := .resv sPkg sCore tag id zone expect
    let ans := fun (t : State) (a : LandAns) => t.send sPkg (landKey sCore 0) (.landAns sPkg (sCore * 2 ^ 32 + tag) { a with cmd := tag })
    (s.net = [] → exec (.landresvReceive m) s = .next { s with resvs := insertResv m s.resvs }) ∧
    (∀ p q a b ta tb i j za zb ea eb, p < q ∨ (p = q ∧ a < b) →
      insertResv (.resv p a ta i za ea) [.resv q b tb j zb eb] = [.resv p a ta i za ea, .resv q b tb j zb eb] ∧
      insertResv (.resv q b tb j zb eb) [.resv p a ta i za ea] = [.resv p a ta i za ea, .resv q b tb j zb eb]) ∧
    (s.resvs = [m] →
      let t : State := { s with resvs := [] }
      (s.zoneOpen z = false → judgeResvs s = ans t (landAns 0x12 0 0 0)) ∧
      (s.zoneOpen z = true → s.zoneForbidden sPkg sCore z.vi = false →
        ((expect % 16 ≠ 0 ∨ expect < 16 ∨ z.plotSize < expect) → judgeResvs s = ans t (landAns 0x15 7 0 0)) ∧
        (expect % 16 = 0 → 16 ≤ expect → expect ≤ z.plotSize → z.firstFree = none → judgeResvs s = ans t (landAns 0x11 0 0 0)) ∧
        (∀ q, expect % 16 = 0 → 16 ≤ expect → expect ≤ z.plotSize → z.firstFree = some q →
          judgeResvs s = ans (t.modPlot c zone q (fun x =>
            { x with st := .reserved, ownPkg := sPkg, ownCore := sCore, expect := expect, arrived := 0, since := s.cycle }))
              (landAns 0x10 0 (landAux q (z.plot q).gen + z.psz % 8 * 2 ^ 32) 0)))) ∧
    (s.zoneOpen z = true ↔ z.isOpen = true ∧ ∀ g p, z.granted = some g → s.party? g = some p → p.ended = false) ∧
    (∀ q, z.firstFree = some q ↔ q ≤ z.plotsm1 ∧ (z.plot q).st = .free ∧ ∀ j, j < q → (z.plot j).st ≠ .free)

/-- R212, R213: a send that arrives is refused with the first reason of the list that holds, or accepted to be written, before any clear of its plot that waits. Its write waits for the earlier sends of its sender to the same bytes. -/
def Claim.Sends : Prop :=
  ∀ (s : State) (sPkg sCore tag id c zone plot gen off : Nat) (data : List Byte), sPkg ≠ s.fabric.pkgid → s.net = [] → coreLinear id = some c →
    let z := (s.core c).zone zone
    let m : LandMsg := .send sPkg sCore tag id zone plot gen off data
    let rej := fun (r : Nat) => s.answer sPkg sCore tag (landAns 0x15 r 0 0)
    s.zoneForbidden sPkg sCore z.vi = false →
    (s.zoneOpen z = false → exec (.landsendReceive m) s = .next (rej 6)) ∧
    (∀ r, plotReason s z sPkg sCore plot gen = some r → exec (.landsendReceive m) s = .next (rej r)) ∧
    (∀ g p, s.zoneOpen z = true → z.granted = some g → s.party? g = some p → p.resident = false → exec (.landsendReceive m) s = .next (rej 5)) ∧
    (∀ g p, s.zoneOpen z = true → z.granted = some g → s.party? g = some p → p.resident = true →
      (z.plotsm1 < plot ∨ (z.plot plot).st ≠ .reserved ∨ (z.plot plot).gen ≠ gen → exec (.landsendReceive m) s = .next (rej 1)) ∧
      (plot ≤ z.plotsm1 → (z.plot plot).st = .reserved → (z.plot plot).gen = gen →
        ((z.plot plot).ownPkg ≠ sPkg ∨ (z.plot plot).ownCore ≠ sCore → exec (.landsendReceive m) s = .next (rej 2)) ∧
        ((z.plot plot).ownPkg = sPkg → (z.plot plot).ownCore = sCore →
          (z.plotSize < off + data.length → exec (.landsendReceive m) s = .next (rej 3)) ∧
          (off + data.length ≤ z.plotSize → (s.core c).sends = [] → (z.plot plot).arrived + data.length ≤ (z.plot plot).expect →
            let x : SendIn := { id := s.nextId, sPkg := sPkg, sCore := sCore, tag := tag, zone := zone, plot := plot, offset := off, data := data }
            exec (.landsendReceive m) s = .next (({ s with nextId := s.nextId + 1 } : State).modCore c (fun k =>
              { k with sends := k.sends ++ [x], clears := k.clears.map (fun (r : ClearReq) =>
                  if r.op.covers x then { r with sends := r.sends ++ [x.id] } else r) })))))) ∧
    (∀ n x, (s.core c).sends[n]? = some x → ((s.core c).sends.take n).any x.overlaps = true → exec (.landsendWriteComplete c n) s = .next s) ∧
    (∀ n x, (s.core c).sends[n]? = some x → ((s.core c).sends.take n).any x.overlaps = false →
      exec (.landsendWriteComplete c n) s = .next (finishSend s c x))

/-- R212, R213, Tables 6.6 and 6.9: an accepted send is written. Its bytes stand in the zone at its plot and offset, ARRIVED rises by their number, and its
sender is answered DELIVERED with AUX 1; with the last byte that a RESERVED plot expects the plot is LANDED, and the answer's AUX is 2. That all bytes of a
send are written in one event is the model's choice (Log 104). -/
def Claim.SendWritten : Prop :=
  ∀ (s : State) (c n g : Nat) (x : SendIn) (p : Party), (s.core c).sends[n]? = some x → ((s.core c).sends.take n).any x.overlaps = false →
    ((s.core c).zone x.zone).granted = some g → s.party? g = some p →
    let z := (s.core c).zone x.zone
    let q := z.plot x.plot
    ∃ t, exec (.landsendWriteComplete c n) s = .next t ∧
      (t.core c).sends = (s.core c).sends.filter (fun y => y.id != x.id) ∧ t.home = s.home ∧
      (let aux := if q.st = .reserved ∧ q.arrived + x.data.length = q.expect then 2 else 1;
        let a : LandAns := { cmd := x.tag, status := 0x14, reason := 0, aux := aux, bytes := x.data.length }
        (x.sPkg = s.fabric.pkgid → t.answers = s.answers ++ [a] ∧ t.wire = s.wire) ∧
        (x.sPkg ≠ s.fabric.pkgid → t.wire = (s.send x.sPkg (landKey x.sCore 0) (.landAns x.sPkg (x.sCore * 2 ^ 32 + x.tag) a)).wire ∧
          t.answers = s.answers)) ∧
      (¬ (q.st = .reserved ∧ q.arrived + x.data.length = q.expect) →
        ((t.core c).zone x.zone).plot x.plot = { q with arrived := q.arrived + x.data.length, since := s.cycle } ∧
        (t.core p.core).sram = ((s.spadWrite p (z.base + x.plot * z.plotSize + x.offset) x.data).core p.core).sram) ∧
      (q.st = .reserved → q.arrived + x.data.length = q.expect →
        ((t.core c).zone x.zone).plot x.plot = { q with arrived := q.expect, since := s.cycle, st := .landed } ∧
        (z.baren = false → cringLog p.cring = 0 →
          (t.core p.core).sram = ((s.spadWrite p (z.base + x.plot * z.plotSize + x.offset) x.data).core p.core).sram) ∧
        (z.baren = false → p.resident = true → p.ended = false → p.held = [] → cringLog p.cring ≠ 0 → cringRoom p.cring = true →
          (t.core p.core).sram = (((s.spadWrite p (z.base + x.plot * z.plotSize + x.offset) x.data).spadWrite p
            (cringBase p.cring + 32 * (cringHead p.cring % 2 ^ cringLog p.cring))
            (bytesOf 32 (CRec.pack { aux := landAux x.plot q.gen, tag := 0, bytes := q.expect, op := 0xFF, unit := x.zone, fault := 0, status := 0x20
              }).toNat)).core p.core).sram))

/-- R214, R215, R300: clears. One waits for the sends accepted before it, and takes effect when they are done; a plot reserved and unchanged for
LEASE milliseconds is torn. -/
def Claim.PlotClears : Prop :=
  ∀ (s : State) (core : Nat),
    (∀ n r, (s.core core).clears[n]? = some r →
      ((s.core core).sends.any (fun x => r.sends.contains x.id) = true → exec (.plotClearEffect core n) s = .next s) ∧
      ((s.core core).sends.any (fun x => r.sends.contains x.id) = false → exec (.plotClearEffect core n) s =
        .next (settleCore (clearAct (s.modCore core (fun k => { k with clears := k.clears.eraseIdx n })) core r.op) core))) ∧
    (∀ o, ((s.core core).sends.filter o.covers) = [] → startClear s core o = clearAct s core o) ∧
    (∀ o, ((s.core core).sends.filter o.covers) ≠ [] → startClear s core o =
      s.modCore core (fun k => { k with clears := k.clears ++ [{ op := o, sends := ((s.core core).sends.filter o.covers).map (fun x => x.id) }] })) ∧
    (∀ sPkg sCore tag id zone plot gen, sPkg ≠ s.fabric.pkgid → s.net = [] → coreLinear id = some core →
      exec (.landclrRemoteReceive (.clr sPkg sCore tag id zone plot gen)) s =
        .next (startClear s core (.remoteClr zone plot gen sPkg sCore tag))) ∧
    (∀ zone plot, let z := (s.core core).zone zone
      (z.isOpen = true → z.lease ≠ 0 → plot ≤ z.plotsm1 → (z.plot plot).st = .reserved → (z.plot plot).since + z.lease * 1050000 ≤ s.cycle →
        (s.core core).clears = [] → exec (.plotLeaseExpire core zone plot) s = .next (startClear s core (.lease zone plot))) ∧
      (z.isOpen = false ∨ z.lease = 0 ∨ (z.plot plot).st ≠ .reserved ∨ s.cycle < (z.plot plot).since + z.lease * 1050000 →
        exec (.plotLeaseExpire core zone plot) s = .next s)) ∧
    (∀ zone plot, ((s.freePlot core zone plot).core core).zone zone =
      { (s.core core).zone zone with
        plots := Tab.set ((s.core core).zone zone).plots plot
          { Plot.reset with gen := ((((s.core core).zone zone).plot plot).gen + 1) % 2 ^ 16, since := s.cycle } })

/-- R148, R159, R201, R215, R383: answers and failure notices. An answer ends the landfall command it names; a notice tears the plot that its sender has reserved, ends a landfall command with
LINKFAIL and the bytes acknowledged, marks an atomic to be sent again, or sends a load again; that of a record changes nothing, since its sender sends
it again, and that of a packet nothing, since its submission is answered or ends (Log 122, DESIGN CHOICE). -/
def Claim.AnswersAndNotices : Prop :=
  ∀ (s : State),
    (∀ a c, (({ s with answers := s.answers.erase a } : State).landCmd a.cmd) = some c →
      let t : State := { s with answers := s.answers.erase a }
      exec (.landfallResponse a) s = .next (settleCore (finishLand t c a) (t.partyCore c.party))) ∧
    (∀ a, (({ s with answers := s.answers.erase a } : State).landCmd a.cmd) = none →
      exec (.landfallResponse a) s = .next { s with answers := s.answers.erase a }) ∧
    (∀ pkg core id c zone plot gen reason, coreLinear id = some c →
      ((((s.core c).zone zone).plot plot).isFor pkg core gen = false → exec (.failureNoticeReceive (.plot pkg core id zone plot gen reason)) s = .next s) ∧
      ((((s.core c).zone zone).plot plot).isFor pkg core gen = true → exec (.failureNoticeReceive (.plot pkg core id zone plot gen reason)) s =
        .next ((s.modCore c (fun k => { k with sends := k.sends.filter (fun x =>
          !(x.zone == zone && x.plot == plot && x.sPkg == pkg && x.sCore == core)) })).tear c zone plot reason false))) ∧
    (∀ n acked c, s.landCmd n = some c → exec (.failureNoticeReceive (.landCmd n acked)) s =
      .next (settleCore (finishLand s c (landAns 0x16 0 0 acked)) (s.partyCore c.party))) ∧
    (∀ k n core q, s.nthSent k n = some (core, q) →
      exec (.failureNoticeReceive (.atomic k n)) s = .next (s.modReq core q (fun x => { x with lost := true }))) ∧
    (∀ k n w c tag pkg t lost, s.wave? k = some w → w.nthLoad n = some c → c.st = .sent tag pkg t lost →
      exec (.failureNoticeReceive (.load k n)) s = .next (s.sendAll c.ldReqs)) ∧
    (∀ a b c, exec (.failureNoticeReceive (.record a b c)) s = .next s ∧ exec (.failureNoticeReceive (.packet a)) s = .next s)

/-- Reservations, sends (written whole at their end: the model's choice, Log 104), clears, leases, answers and failure notices. -/
def Obligations.Landfall : Prop := Claim.Reservations ∧ Claim.Sends ∧ Claim.SendWritten ∧ Claim.PlotClears ∧ Claim.AnswersAndNotices

/-- R238, R239, R240, R305: the end and the start of a phase. A wave that stands at the boundary with its commands performed writes its waypoint record, or faults the
launch where the record lies beyond the area; when every wave of the party that has not exited has, and its publication at PACKAGE scope can be made, its task
retires and its waves leave. At the end of the cycle its next phase is queued, its route picked. A phase starts once its party has a task, its core has room (Log 51)
and an acquire at PACKAGE scope can complete. That step 2 is taken wave by wave and that the next phase is queued at the end of the cycle are the model's choices
(Log 46). Stated of a party without a twin. -/
def Claim.PhaseBoundaries : Prop :=
  ∀ (s : State) (id : Nat) (p : Party) (l : Launch), s.party? id = some p → s.launch? p.launch = some l → l.twin = false → p.lead = true →
    (p.ended = false → p.resident = true → p.phaseOver = false → (s.core p.core).haltAt = none →
      (s.toCarry id = [] → s.atBoundary id = false → exec (.phaseEnd id) s = .next s) ∧
      (∀ e, s.toCarry id = [e] → (carryWave s id e).atBoundary id = false → exec (.phaseEnd id) s = .next (carryWave s id e)) ∧
      (∀ e t q, s.toCarry id = [] → s.atBoundary id = true → publishTail s p.core p.launch 5 = some e → t = retireTask (e.agreeKeep id l p) p.launch p true →
        t.party? id = some q → exec (.phaseEnd id) s = .next ((t.dropCarried id).modParty id (fun y =>
          { y with phaseOver := true, waypoints := q.waypoints, spkeep := keepOf q.waypoints }))) ∧
      (s.toCarry id = [] → s.atBoundary id = true → publishTail s p.core p.launch 5 = none →
        exec (.phaseEnd id) s = .next ((s.noteWait 5 p.core (.tail id p.phaseno 5)).getD s))) ∧
    (∀ e : Nat × Wave,
      let x := e.2.waypoint l.func p
      (l.wpkib * 1024 < recordOffset l p e.2.num + x.bytes.length → carryWave s id e = s.faultLaunch p.launch codeWaypoint p.core) ∧
      (recordOffset l p e.2.num + x.bytes.length ≤ l.wpkib * 1024 →
        carryWave s id e = ((s.writeWaypoint l p e.2.num x).modWave e.1 (fun w => { w with carried := true, io := { w.io with res := [] } })).modParty id
          (fun q => { q with waypoints := Tab.set (if (s.partyWaves id).any (fun y => y.2.carried) = true then q.waypoints else []) e.2.num x }))) ∧
    nextPhase s id = s.modParty id (fun q => { q with
      route := if q.launch = p.launch then selectRoute l q.routeReq else match s.launch? q.launch with | some y => selectRoute y q.routeReq | none => q.route
      routeReq := 4, phaseno := (q.phaseno + 1) % 2 ^ 32, waiting := true, waitSince := s.cycle, firstBundle := none, phaseOver := false }) ∧
    (s.phaseReady id p = true → s.canStamp 5 = true → s.acquireReady p.core 5 (s.takeStamp p.core).1 none = true →
      exec (.phaseStart id) s = .next (beginPhase s id)) ∧
    (s.phaseReady id p = false → exec (.phaseStart id) s = .next s)

/-- R243, R305, R306, R349: a party whose waves have exited with everything performed, or that waits when every task has been assigned, publishes at SYSTEM
scope; once the marks of that stand its task retires, if it ran one, and it ends. A launch completes, once its marks are applied, with a done record: cause and
core where it faulted. -/
def Claim.PartyAndLaunchEnd : Prop :=
  (∀ (s : State) (id : Nat) (p : Party) (l : Launch), s.party? id = some p → s.launch? p.launch = some l → l.twin = false → p.lead = true →
    p.ended = false → p.resident = true → (s.core p.core).haltAt = none →
    let ends := s.allExited id p = true ∨ (p.waiting = true ∧ l.assigned.length = l.xs * l.ys)
    let close := fun (u : State) => ((if s.allExited id p = true then retireTask u p.launch p false else u).dropWaves id).endParty id
    (∀ t, ends → p.ending = none → publishTail s p.core p.launch 6 = some t →
      let ids := (t.marks.filter (fun m => decide (s.nextId ≤ m.id))).map (fun m => m.id)
      let u := t.modParty id (fun q => { q with ending := some ids })
      ((∀ m ∈ ids, u.markStands m = true) → exec (.partyEnd id) s = .next (close u)) ∧
      ((∃ m ∈ ids, u.markStands m = false) → exec (.partyEnd id) s = .next u)) ∧
    (ends → p.ending = none → publishTail s p.core p.launch 6 = none →
      exec (.partyEnd id) s = .next ((s.noteWait 6 p.core (.tail id p.phaseno 6)).getD s)) ∧
    (∀ ids, ends → p.ending = some ids →
      ((∀ m ∈ ids, s.markStands m = true) → exec (.partyEnd id) s = .next (close s)) ∧
      ((∃ m ∈ ids, s.markStands m = false) → exec (.partyEnd id) s = .next s)) ∧
    (¬ ends → exec (.partyEnd id) s = .next s)) ∧
  ∀ (s : State) (n : Nat) (l : Launch), s.launch? n = some l → l.completed = false → s.marksGone n = true →
    s.parties.all (fun e => e.2.launch != n || e.2.ended) = true →
    let out := fun (core cause status : Nat) => ((s.modLaunch n (fun x => { x with completed := true })).freeEditions).dueRecord l.queue (some n)
      (doneRecord s.cycle l.start l.index core l.tag cause status)
    (l.cancelled = true → exec (.launchComplete n) s = .next (out 0 0 3)) ∧
    (∀ cause core, l.cancelled = false → l.fault = some (cause, core) → exec (.launchComplete n) s = .next (out core cause 1)) ∧
    (l.cancelled = false → l.fault = none → l.retired.length = l.xs * l.ys → exec (.launchComplete n) s = .next (out 0 0 0)) ∧
    (l.cancelled = false → l.fault = none → l.retired.length ≠ l.xs * l.ys → exec (.launchComplete n) s = .next s)

/-- Boundaries of phases, ends of parties and launches (wave by wave, next phase in the same cycle: the model's choice, Logs 46 and 51). -/
def Obligations.PhasesAndLaunches : Prop := Claim.PhaseBoundaries ∧ Claim.PartyAndLaunchEnd

/-- R239, R294, R344, R348, Table 1.1: a wave at the start of a phase. s1 to s4 and a1 to a4 hold the words of the packet, a5 and a6 the scratch text and the
data, every lane of vn the argument for n where the allocation exceeds n; every other register, the guards, the k registers, the loop counts, RRB, SSIG and the trap registers are zero; all lanes of its width are on. The PC is that of the route, or of the
entry, relative to the text base (the model's reading, Log 73). In a later phase the carried registers take their carried values, the PC without a route table is the saved target, and all else is the same. -/
def Claim.WaveStart : Prop :=
  ∀ (s : State) (n : Nat) (l : Launch) (id : Nat) (p : Party) (num role regs rslot : Nat),
    let w := startWave s n l id p num role regs rslot none
    let width := if l.func.width = 0 then 32 else l.func.width
    (∀ k, k < 4 → w.readS (k + 1) = l.words.getD (12 + k) 0 ∧ w.readA (k + 1) = l.words.getD (8 + k) 0) ∧
    (∀ k, k = 0 ∨ 4 < k → Tab.getD w.s k 0 = 0) ∧
    w.readA 5 = BitVec.ofNat 64 l.scratch ∧ w.readA 6 = BitVec.ofNat 64 l.dataBase ∧ (∀ k, k = 0 ∨ 6 < k → w.readA k = 0) ∧
    (∀ k x, (l.args.map (fun e => e.1)).Nodup → (k, x) ∈ l.args → k < regs → Tab.get? w.v k = some (List.replicate (if width = 64 then 64 else 32) x)) ∧
    (∀ k, regs ≤ k ∨ (∀ x, (k, x) ∉ l.args) → Tab.get? w.v k = none) ∧
    w.width = width ∧ w.exm = lanesBelow width ∧ w.exs = 0 ∧ w.g = [] ∧ w.k = [] ∧ w.rrb = 0 ∧ w.lc = 0 ∧ w.ec = 0 ∧ w.ssig = 0 ∧
    w.fpc = Config.fpcReset ∧ w.trap = TrapSt.reset ∧ w.hmode = false ∧ w.io = WaveIo.start ∧ w.xfer = none ∧ w.table = none ∧ w.segEntry = true ∧
    (l.func.routes = [] → w.pc = BitVec.ofNat 56 (l.textBase + l.func.entry)) ∧
    (∀ b, l.func.routes[p.route]? = some b → w.pc = BitVec.ofNat 56 (l.textBase + b)) ∧
    ∀ x : Waypoint, let y := startWave s n l id p num role regs rslot (some x)
      { y with v := w.v, s := w.s, a := w.a, pc := w.pc } = w ∧
      ((x.v.map (fun e => e.1)).Nodup → ∀ k u, (k, u) ∈ x.v → Tab.get? y.v k = some u) ∧ (∀ k, (∀ u, (k, u) ∉ x.v) → Tab.get? y.v k = Tab.get? w.v k) ∧
      ((x.s.map (fun e => e.1)).Nodup → ∀ k u, (k, u) ∈ x.s → Tab.get? y.s k = some u) ∧ (∀ k, (∀ u, (k, u) ∉ x.s) → Tab.get? y.s k = Tab.get? w.s k) ∧
      ((x.a.map (fun e => e.1)).Nodup → ∀ k u, (k, u) ∈ x.a → Tab.get? y.a k = some u) ∧ (∀ k, (∀ u, (k, u) ∉ x.a) → Tab.get? y.a k = Tab.get? w.a k) ∧
      (l.func.routes = [] → y.pc = BitVec.ofNat 56 x.header.toNat) ∧ (∀ b, l.func.routes[p.route]? = some b → y.pc = BitVec.ofNat 56 (l.textBase + b))

/-- R238 to R240, R301, R308, R348: the start of a phase. Its core acquires at PACKAGE scope: what the marks that it replays hold joins its horizon. Without SPKEEP the banks of the party are zeroed. Every wave that takes part is placed in a free slot, as WaveStart
says, with its waypoint record read back; such a record reads back as it was written. The route is the one requested; else the lowest that has not been measured; else the one of least time, the lowest of equals. A phase that retired in a cycle
sets the time of its route. -/
def Claim.PhaseStart : Prop :=
  (∀ (s : State) (id : Nat) (p : Party) (l : Launch), s.party? id = some p → s.launch? p.launch = some l →
    let t := (if p.spkeep = true then s else s.clearBanks p).takeStamp p.core
    let u := t.2.replay p.core 5 t.1 none
    let r := beginPhase s id
    (p.spkeep = true → (r.core p.core).sram = (s.core p.core).sram) ∧
    (p.spkeep = false → Mem.wf (s.core p.core).sram = true → ∀ b ∈ p.banks, ∀ i, i < 32768 → Mem.read (r.core p.core).sram (b.2 * 32768 + i) = 0) ∧
    (∀ x ∈ (s.core p.core).horizon, x ∈ (r.core p.core).horizon) ∧
    (∀ m ∈ t.2.toReplay p.core 5 t.1 none, ∀ x, x ∈ m.wids ∨ x ∈ m.hor → x ∈ (r.core p.core).horizon) ∧
    (∀ e ∈ (phaseWaves l { p with waypoints := u.readBack l p }).zip (s.freeSlots p.core), ∃ k v, r.wave? k = some v ∧
      v = { startWave s p.launch l id p e.1.1 e.1.2.1 e.1.2.2 e.2 (Tab.get? (u.readBack l p) e.1.1) with inSet := v.inSet }) ∧
    (∀ e ∈ p.waypoints, ∀ bs, u.readGpa l.vi (pktWpbase l.words + recordOffset l p e.1) e.2.bytes.length = some bs →
      (e.1, Waypoint.ofBytes (match e.2.v with | x :: _ => x.2.length | [] => 32) bs) ∈ u.readBack l p)) ∧
  (∀ (f : Func) (p : Party) (w : Wave) (target : BitVec 56) (keep : Bool), let x := waypointOf f p w target keep
    Waypoint.ofBytes w.phys x.bytes = x ∧ x.header.toNat % 2 ^ 56 = target.toNat ∧
    (∀ k, (∃ u, (k, u) ∈ x.v) ↔ k < 96 ∧ k ∈ f.carryV) ∧ (∀ k, (∃ u, (k, u) ∈ x.s) ↔ k < 64 ∧ k ∈ f.carryS) ∧ (∀ k, (∃ u, (k, u) ∈ x.a) ↔ k < 16 ∧ k ∈ f.carryA)) ∧
  (∀ (l : Launch) (req : Nat), let n := l.func.routes.length
    let r := selectRoute l req
    let time := fun k => Tab.getD l.routesT k 0
    (req < n → r = req) ∧
    (n ≤ req → (∃ k, k < n ∧ Tab.get? l.routesT k = none) → r < n ∧ Tab.get? l.routesT r = none ∧ ∀ k, k < r → (Tab.get? l.routesT k).isSome = true) ∧
    (n ≤ req → 0 < n → (∀ k, k < n → (Tab.get? l.routesT k).isSome = true) → r < n ∧ ∀ k, k < n → time r < time k ∨ (time r = time k ∧ r ≤ k)) ∧
    (∀ e, l.timed = [e] → Tab.get? l.closeCycle.routesT e.2.1 = some e.2.2 ∧ ∀ k, k ≠ e.2.1 → Tab.get? l.closeCycle.routesT k = Tab.get? l.routesT k) ∧
    (l.timed = [] → l.closeCycle.routesT = l.routesT))

/-- A wave at the start of a phase (addresses relative to the text base: the model's reading, Log 73). -/
def Obligations.WaveStart : Prop := Claim.WaveStart ∧ Claim.PhaseStart

/-- R304 to R307: tasks. A released task goes to the party of its launch that has waited longest, of those that wait since an earlier cycle; a task is released when every predecessor under the stencil has
retired or lies outside the grid, and only once. Those that begin to wait in a cycle are served from the next on, and of equals the lowest core first: the model's order at the end of a cycle (Log 46). A packet whose mask has a bit outside 14:0 is refused. -/
def Obligations.TaskRelease : Prop :=
  (∀ (s : State) (n : Nat) (l : Launch) (x y : Nat) (rest : List (Nat × Nat)) (p : Nat), s.launch? n = some l → l.active = true →
    l.released = (x, y) :: rest → s.nextWaiting n = some p → s.twinParty p = none →
    exec (.taskAssign n) s = .next ((s.modLaunch n (fun y' => { y' with released := rest, assigned := y'.assigned ++ [(x, y)] })).modParty p
      (fun q => { q with waiting := false, taskx := x, tasky := y, firstBundle := none }))) ∧
  (∀ (s : State) (n p : Nat), s.nextWaiting n = some p → ∃ q : Party, (p, q) ∈ s.parties ∧ q.launch = n ∧ q.ended = false ∧ q.waiting = true ∧
    q.waitSince < s.cycle ∧ ∀ e ∈ s.parties, e.2.launch = n → e.2.ended = false → e.2.lead = true → e.2.waiting = true → e.2.waitSince < s.cycle →
      q.waitSince * 1024 + q.core ≤ e.2.waitSince * 1024 + e.2.core) ∧
  (∀ (s : State) (n : Nat) (l : Launch), s.launch? n = some l → (l.active = false ∨ l.released = [] ∨ s.nextWaiting n = none) →
    exec (.taskAssign n) s = .next s) ∧
  (∀ (l : Launch) (x y : Nat), (x, y) ∈ l.release.released ↔
    (x, y) ∈ l.released ∨ (x < l.xs ∧ y < l.ys ∧ (x, y) ∉ l.assigned ∧ l.taskFree x y = true)) ∧
  (∀ (l : Launch) (x y : Nat), l.taskFree x y = true ↔ ∀ k, k < 15 → l.stencil.testBit k = true →
    ∀ px py : Nat, px + 3 = x + k % 4 → py + 3 = y + k / 4 → px < l.xs → py < l.ys → (px, py) ∈ l.retired) ∧
  (∀ (s : State) (q : WQueue) (o : Origin) (ws : List Word) (args : Option (List (Nat × Lane) × Bool)), (pktWord ws 2).testBit 39 = true →
    (refusal s q o ws args).isSome = true)

/-- R262, R341, R344 to R346, R381: the head of a queue. A packet with an argument block first takes the stamp of an acquire at SYSTEM scope, with core number 0
(Log 110, the model's choice), and waits for it to complete; no mark below it comes to light after that. Then the packet at HEAD becomes head, or is refused with the first reason of Table 14.5 that holds and a
done record of status 2; its level rises by one every 10 ms up to the queue's ceiling. -/
def Claim.PacketHeads : Prop :=
  ∀ (s : State) (q : Nat),
    let x := s.queue q
    let ws := s.packetAt x x.head
    let a := s.astabEntry q
    let n := min (pktArgn ws) 32
    let raw := s.argBytes (x.acq.getD 0) x.vi a.2 (bits a.1.toNat 51 12 * 4096) (a.1.getLsbD 0) (pktArgs ws) (32 * n)
    let args := raw.map (argEntries n)
    let reads := n ≠ 0 ∧ refusal s x (x.origin x.head) ws (some ([], true)) ≠ some 1
    let acquired := ∀ k, x.acq = some k → s.launchAcquired k = true
    (x.enable = false ∨ x.headPkt.isSome = true ∨ x.head = x.tail → exec (.packetHead q) s = .next s) ∧
    (x.enable = true → x.headPkt = none → x.waiting ≠ 0 →
      (reads → x.acq = none → exec (.packetHead q) s = .next (if s.canStamp 6 = true then
        ({ s with lastStamp := s.stampFor 0 } : State).modQueue q (fun y => { y with acq := some (s.stampFor 0) }) else s)) ∧
      (reads → x.acq.isSome = true → ¬ acquired → exec (.packetHead q) s = .next s) ∧
      (∀ r, refusal s x (x.origin x.head) ws args = some r →
        let out := fun (u : State) => (u.refresh.dueRecord q none (doneRecord s.cycle 0 x.head 0 (pktTag ws) r 2)).modQueue q WQueue.pop
        (¬ reads → exec (.packetHead q) s = .next (out s)) ∧
        (∀ k, reads → x.acq = some k → acquired → exec (.packetHead q) s = .next (out (s.settleStamp k)))) ∧
      ((¬ reads ∨ (x.acq.isSome = true ∧ acquired)) → refusal s x (x.origin x.head) ws args = none → ∃ t, exec (.packetHead q) s = .next t ∧
        (∀ k, reads → x.acq = some k → k ≤ t.fabric.acqTop) ∧
        (t.queue q).headPkt = some ws ∧ (t.queue q).headSince = s.cycle ∧ (t.queue q).headLevel = pktPrio ws ∧ (t.queue q).head = x.head ∧
        (t.queue q).tail = x.tail ∧ (∀ k, k ≠ q → t.queue k = s.queue k) ∧ t.waves = s.waves ∧ t.home = s.home)) ∧
    (∀ k, s.launchAcquired k = true ↔ s.tickPassed 6 k = true ∧
      ∀ m ∈ s.marks, s.stampBelow m k = true → (6 ≤ m.scope ∨ (m.scope = 5 ∧ m.pkg = 0)) → m.stands = true) ∧
    (∀ v, x.headPkt = some v → exec (.packetAge q) s = .next (if x.headLevel = pktPrio v + min ((s.cycle - x.headSince) / 10500000) (x.ceil - pktPrio v) then s
      else s.modQueue q (fun y => { y with headLevel := pktPrio v + min ((s.cycle - x.headSince) / 10500000) (x.ceil - pktPrio v) })))

/-- R339, R341, R342, R351, R353: what reaches a queue. A doorbell that claims more packets than the ring holds sets OVF and changes no index, else it moves TAIL; KILL cancels what
waits and ends what runs, on every core and in every saved context; a packet of a peer brings its submitter's publication, which is known from then on, is written at TAIL and accepted where the
queue admits peers and has room, and is answered (one without its publication, or with one too late, is none that a peer sends: Log 75, DEDUCED); a due done record is written at DHEAD where there
is room for it. -/
def Claim.QueueWrites : Prop :=
  ∀ (s : State) (q : Nat),
    (∀ t : BitVec 32, ∃ u, exec (.wqtailWrite q t) s = .next u ∧ (∀ k, k ≠ q → u.queue k = s.queue k) ∧ u.home = s.home ∧ (u.queue q).head = (s.queue q).head ∧
      (2 ^ ringLog (s.queue q).ring < (t.toNat + 2 ^ 32 - (s.queue q).head) % 2 ^ 32 → u.queue q = { s.queue q with ovf := true }) ∧
      ((t.toNat + 2 ^ 32 - (s.queue q).head) % 2 ^ 32 ≤ 2 ^ ringLog (s.queue q).ring → (u.queue q).tail = t.toNat ∧ (u.queue q).ovf = (s.queue q).ovf)) ∧
    (∃ u, exec (.queueKill q) s = .next u ∧ (u.queue q).head = (s.queue q).tail ∧ (u.queue q).enable = false ∧
      (u.queue q).headPkt = none ∧ (u.queue q).due.length = (s.queue q).due.length + (s.queue q).waiting ∧
      ∀ n l, s.launch? n = some l → l.queue = q → l.completed = false →
        (∃ y, u.launch? n = some y ∧ y.cancelled = true) ∧ (∀ e ∈ u.waves, e.2.launch ≠ n) ∧
        (∀ k p, u.party? k = some p → p.launch = n → p.ended = true) ∧ (∀ y ∈ u.saved, ∀ e ∈ y.waves, e.2.launch ≠ n)) ∧
    (∀ pkg (p : PeerPacket), p.pub.stamp = none ∨ p.pub.pkg ≠ pkg ∨ s.tooLate p.pub = true → exec (.peerPacketReceive pkg q p) s = .next s) ∧
    (∀ pkg (p : PeerPacket) k, p.pub.stamp = some k → p.pub.pkg = pkg → s.tooLate p.pub = false →
      let t := (s.announce p.pub k).standPeers
      (∃ m ∈ t.marks, m.pkg = pkg + 1 ∧ m.stamp = k ∧ m.tail = p.pub.left) ∧ k ≤ t.lastStamp ∧ t.home = s.home ∧ t.queues = s.queues ∧
      (q < 4096 → (s.queue q).peers = true → (s.queue q).room = true →
        exec (.peerPacketReceive pkg q p) s = .next ((t.submit q 0 none (packetBytes p.words)).send pkg q (.pktAns pkg true))) ∧
      (4096 ≤ q ∨ (s.queue q).peers = false ∨ (s.queue q).room = false →
        exec (.peerPacketReceive pkg q p) s = .next (t.send pkg q (.pktAns pkg false)))) ∧
    ((s.queue q).due = [] → exec (.doneRecordWrite q) s = .next s) ∧
    (∀ d rest, (s.queue q).due = d :: rest → ((s.queue q).dhead + 2 ^ 32 - (s.queue q).dtail) % 2 ^ 32 = 2 ^ ringLog (s.queue q).done →
      exec (.doneRecordWrite q) s = .next s) ∧
    (∀ d rest, (s.queue q).due = d :: rest → d.launch = none → ((s.queue q).dhead + 2 ^ 32 - (s.queue q).dtail) % 2 ^ 32 ≠ 2 ^ ringLog (s.queue q).done →
      let t := ((s.writeGpa (s.queue q).vi (ringBase (s.queue q).done + 32 * ((s.queue q).dhead % 2 ^ ringLog (s.queue q).done))
        (bytesOf 32 d.record.toNat)).modQueue q (fun y => { y with due := rest, dhead := (y.dhead + 1) % 2 ^ 32 }))
      let irq := (s.queue q).irq
      exec (.doneRecordWrite q) s = .next (if bits irq.toNat 11 0 = 0 then t else { t with irqs := t.irqs ++
        [(bits irq.toNat 19 16, if irq.getLsbD 20 = true then some (s.queue q).vi else none, bits irq.toNat 11 0)] }))

/-- Heads of queues, refusals, levels, doorbells, KILL, peers' packets, done records (the acquire's package part: the model's choice, Log 110). -/
def Obligations.Queues : Prop := Claim.PacketHeads ∧ Claim.QueueWrites

/-- R2, R12, R347, R350: the scheduler of an enabled interface, while no core of it is being halted (Log 61, the model's choice), places the first item of its order that has cores with room, on the lowest-numbered of
them (Log 136, the model's choice), never on one that holds a party of its launch; where it has none but a core may be pre-empted for it, that core halts. -/
def Claim.Scheduling : Prop :=
  (∀ (s : State) (vi : Nat), (s.vi vi).enable = false ∨ s.halting vi = true → exec (.schedulePlace vi) s = .next s) ∧
  (∀ (s : State) (vi : Nat) (i : Item) (rest : List Item) (n : Need), (s.vi vi).enable = true → s.halting vi = false →
    sortItems s vi (s.items vi) = i :: rest → s.need vi i = some n →
    (∀ cs, s.coresFor vi n = some cs → exec (.schedulePlace vi) s = .next (placeItem s vi i cs)) ∧
    (∀ c, s.coresFor vi n = none → s.preemptCore vi n = some c → exec (.schedulePlace vi) s = .next (startHalt s c))) ∧
  (∀ (s : State) (vi : Nat) (n : Need) (c : Nat), n.twin = false → s.coresFor vi n = some [c] →
    (∀ e ∈ s.coreParties c, some e.2.launch ≠ n.of') ∧ c ∈ s.usableCores vi ∧ s.hasRoom vi c n.of' n.f n.rs = true ∧ ∀ d, d ∈ s.usableCores vi → s.hasRoom vi d n.of' n.f n.rs = true → c ≤ d)

/-- R41, R42, R325, R350, R355, R357 to R359: halting. A core that is to halt, and the cores of its twins, save their contexts together once all have carried out their
commands, but for those behind a withdrawn wait (Log 108, the model's choice): the waves stand in the saved context, and the logs go with it. One that has not halted within HALTLIM has its
launches faulted. Of the contexts saved from a core the first saved (Log 123, the model's choice) that may resume, with those of its twins, returns to it: the core is empty (Log 59) and no work of a
higher level could be placed there. At the end of a slice a core turns to the next partition with work. -/
def Claim.Preemption : Prop :=
  ∀ (s : State) (core : Nat),
    ((∃ c ∈ s.haltsWith core, (s.core c).haltAt = none ∨ s.coreQuiet c = false) → exec (.preemptHaltComplete core) s = .next s) ∧
    ((∀ c ∈ s.haltsWith core, (s.core c).haltAt.isSome = true ∧ s.coreQuiet c = true) →
      exec (.preemptHaltComplete core) s = .next ((s.haltsWith core).foldl saveContext s)) ∧
    core ∈ s.haltsWith core ∧ (∀ e ∈ s.coreParties core, ∀ d, s.partnerCore e.1 e.2 = some d → d ∈ s.haltsWith core) ∧
    ((∀ e ∈ s.coreParties core, s.partnerCore e.1 e.2 = none) → s.haltsWith core = [core]) ∧
    (∀ v e ps, (s.core core).running = some v → s.coreParties core = e :: ps →
      (∀ k w, s.wave? k = some w → w.core ≠ core → (saveContext s core).wave? k = some w) ∧ (saveContext s core).coreWaves core = [] ∧
      (∃ x, x ∈ (saveContext s core).saved ∧ x.core = core ∧ x.vi = v ∧ x.coreSt = s.core core ∧ x.parties = (e :: ps).map (fun y => y.1) ∧
        x.waves.map (fun y => y.1) = (s.coreWaves core).map (fun y => y.1)) ∧
      ((saveContext s core).core core).log = [] ∧ ((saveContext s core).core core).haltAt = none ∧ (saveContext s core).home = s.home) ∧
    (∀ t v, (s.core core).haltAt = some t → (s.core core).running = some v → s.coreQuiet core = false →
      exec (.haltTimeout core) s = .next (if t + (if (s.vi v).haltlim = 0 then 2000 else (s.vi v).haltlim) * 1050 ≤ s.cycle then
        saveContext (((s.coreParties core).map (fun e => e.2.launch)).foldl (fun x l => x.faultLaunch l codeHaltTimeout core) s).preserve core else s)) ∧
    ((∀ y ∈ s.saved, y.core = core → s.alive y = true ∨ y.coreSt.log ≠ []) →
      let may := fun (y : SavedCtx) => y.core = core ∧ s.alive y = true ∧ ∀ z ∈ s.resumesWith y, s.mayResume z = true
      (∀ l x r, s.saved = l ++ x :: r → (∀ y ∈ l, ¬ may y) → may x → exec (.contextResume core) s = .next ((s.resumesWith x).foldl restoreContext s)) ∧
      ((∀ y ∈ s.saved, ¬ may y) → exec (.contextResume core) s = .next s)) ∧
    (∀ x, (∀ p ∈ x.parties, s.otherTwin p = none) → s.resumesWith x = [x]) ∧
    (∀ x, s.mayResume x = true ↔ (s.core x.core).haltAt = none ∧ s.zonesEnding x.core = false ∧ s.coreParties x.core = [] ∧
      ((s.core x.core).running = none ∨ (s.core x.core).running = some x.vi) ∧ ∀ n ∈ s.placeable x.vi x.core, n.level ≤ s.levelOfParties x.parties) ∧
    (∀ v u, (s.core core).running = some v → (s.core core).haltAt = none → (s.vi v).slice ≠ 0 → s.nextVi v core = some u →
      (s.core core).sliceStart + (s.vi v).slice * 105000 ≤ s.cycle →
      exec (.sliceSwitch core) s = .next (if (s.coreParties core).isEmpty = true then s.modCore core (fun k => { k with running := some u, sliceStart := s.cycle })
        else startHalt s core)) ∧
    (∀ v, (s.core core).running = some v → (s.vi v).slice ≠ 0 → s.cycle < (s.core core).sliceStart + (s.vi v).slice * 105000 →
      exec (.sliceSwitch core) s = .next s)

/-- The scheduler, halting, saving and resuming contexts (the model's: Logs 59, 61, 108, 123; the lowest core with room, Log 136). -/
def Obligations.Scheduling : Prop := Claim.Scheduling ∧ Claim.Preemption

/-- R338, R360 to R363, R389, R397: the accesses of the control complex. A core that has not been released makes none. An access to home memory loads or stores its bytes, where the
worlds allow it, and each line of it counts at its tract; one of whose bytes a secure block holds is, for a non-secure core, recorded, reads zero and stores nothing. Eight bytes elsewhere go to the
register there; any other access reads zero and changes nothing (Log 71). The record is on the core's die, four cores to a die (the model's reading, Log 102). -/
def Claim.ControlComplex : Prop :=
  ∀ (s : State) (cc addr n : Nat) (d : Word), (∀ st, Tab.get? s.ccWorld cc = none ∨ n = 0 → exec (.controlComplexAccess cc addr st n d) s = .next s) ∧
    ∀ b, Tab.get? s.ccWorld cc = some b → 0 < n → n ≤ 8 →
    let line := fun (u : State) (lo m : Nat) => (u.tally (s.tractOf lo) (cc / 4 % 4) m none).tally (s.tractOf lo) (4 + cc / 4 % 4) 1 none
    let t := if addr % 64 + n ≤ 64 then line s addr n
      else line (line s addr (64 - addr % 64)) (64 * (addr / 64 + 1)) (addr + n - 64 * (addr / 64 + 1))
    (isHbm (addr + n - 1) = true → (s.securePa addr = false ∧ s.securePa (addr + n - 1) = false) ∨ b = true →
      exec (.controlComplexAccess cc addr true n d) s = .next (t.writeHome addr (bytesOf n d.toNat)) ∧
      exec (.controlComplexAccess cc addr false n d) s = .next { t with ccData := BitVec.ofNat 64 (t.homeNat addr n) }) ∧
    (isHbm (addr + n - 1) = true → s.securePa addr = true ∨ s.securePa (addr + n - 1) = true → b = false →
      exec (.controlComplexAccess cc addr true n d) s = .next (s.fb { cls := 6, code := 2, addr := addr, detail := cc, vi := none, core := none, on := some (cc / 4) }) ∧
      exec (.controlComplexAccess cc addr false n d) s =
        .next { s.fb { cls := 6, code := 1, addr := addr, detail := cc, vi := none, core := none, on := some (cc / 4) } with ccData := 0 }) ∧
    (isHbm (addr + n - 1) = false → n = 8 → exec (.controlComplexAccess cc addr true n d) s = .next (regStore s addr d b cc) ∧
      exec (.controlComplexAccess cc addr false n d) s = .next { (regLoad s addr b cc).2 with
        ccData := BitVec.ofNat 64 (regLoad s addr b cc).1.toNat }) ∧
    (isHbm (addr + n - 1) = false → n ≠ 8 → exec (.controlComplexAccess cc addr true n d) s = .next s ∧
      exec (.controlComplexAccess cc addr false n d) s = .next { s with ccData := 0 })

/-- R338, R360, R363, Tables 14.2, 14.7, 15.1 and 16.5: register writes, of the number that the tape gives the core that makes them, once one is released. An address without a register changes nothing; ROUTE, SHARE,
LIMIT, TAIL and the enables take what is written; a secure register takes nothing from a core of the non-secure world, and the attempt is recorded. The number from the tape is the model's choice (Log 62), and so is an address without a register (Log 71). -/
def Claim.RegisterStores : Prop :=
  ∀ (s : State) (addr : Nat) (d : Word) (secure : Bool), (s.ccWorld = [] → exec (.registerWrite addr d secure) s = .next s) ∧
    (s.ccWorld ≠ [] →
    let t := s.choose.2
    let cc := s.choose.1 % 16
    (regAt t addr = none → exec (.registerWrite addr d secure) s = .next t) ∧
    (∀ k, regAt t addr = some (.route k) →
      exec (.registerWrite addr d secure) s = .next { t with routes := Tab.set t.routes k (d &&& 0xBFBFBFBF#64) }) ∧
    (∀ k, regAt t addr = some (.tract k 8) → exec (.registerWrite addr d secure) s = .next (t.modTract k (fun x => { x with share := d.toNat % 256 }))) ∧
    (regAt t addr = some (.power 0) → exec (.registerWrite addr d secure) s =
      .next (if secure = true then { t with mgmt := { t.mgmt with limit := d.toNat % 4096 } } else t.noteReg 8 addr cc)) ∧
    (∀ k, regAt t addr = some (.worldleg k) → exec (.registerWrite addr d secure) s =
      .next (if secure = true then { t with worldleg := Tab.set t.worldleg k d } else t.noteReg 8 addr cc)) ∧
    (∀ q off, regAt t addr = some (.queue q off true) → secure = false → t.secureQueue q = true →
      exec (.registerWrite addr d secure) s = .next (t.noteReg 7 addr cc (some (t.queue q).vi))) ∧
    (∀ q, regAt t addr = some (.queue q 0x28 false) → (secure = true ∨ t.secureQueue q = false) → exec (.registerWrite addr d secure) s =
      .next (t.modQueue q (fun x => { x with dtail := d.toNat / 2 ^ 32 })))) ∧
    (∀ v, (s.vi v).enable = false → exec (.partitionEnable v) s = .next (s.modVi v (fun x => { x with enable := true, counters := [] }))) ∧
    (∀ v, (s.vi v).enable = true → exec (.partitionEnable v) s = .next s) ∧
    regAt s 0x00F000000008 = some (.queue 0 8 false) ∧ regAt s 0x00F000A00000 = some (.power 0) ∧ regAt s 0x00F000800010 = some (.route 2)

/-- Accesses of the control complex and register writes (core from the tape, no register: the model's choices, Logs 62 and 71; a record's die: Log 102). -/
def Obligations.RegisterSpace : Prop := Claim.ControlComplex ∧ Claim.RegisterStores

/-- R370, R371: an invalidation. While DONE is 0 the write is ignored; else DONE goes to 0 and every translation that the write covers is gone from the TLBs of every core and sheet, and no other. DONE returns to 1 when
no access that translated before the write, or after it by a translation that the write covers, is unperformed, and no record made before is left; no TLB then holds a covered translation. -/
def Obligations.TlbInvalidation : Prop :=
  ∀ (s : State) (vi asid page count : Nat),
    let gone := fun (t : State) (p : TlbEntry → Prop) => (∀ c e, e ∈ (t.core c).tlb ↔ e ∈ (s.core c).tlb ∧ ¬ p e) ∧
      ∀ k e, e ∈ Tab.getD t.l2tlb k [] ↔ e ∈ Tab.getD s.l2tlb k [] ∧ ¬ p e
    ((s.vi vi).tlbinv.getLsbD 63 = false → exec (.tlbinvInterface vi) s = .next s ∧ exec (.tlbinvAsid vi asid) s = .next s ∧
      exec (.tlbinvVaRange vi asid page count) s = .next s ∧ exec (.tlbinvGpaRange vi page count) s = .next s) ∧
    ((s.vi vi).tlbinv.getLsbD 63 = true →
      (∃ t, exec (.tlbinvInterface vi) s = .next t ∧ (t.vi vi).tlbinv.getLsbD 63 = false ∧ (t.vi vi).tlbBusy = some s.nextId ∧ gone t (fun e => e.vi = vi)) ∧
      (∃ t, exec (.tlbinvAsid vi asid) s = .next t ∧ (t.vi vi).tlbinv.getLsbD 63 = false ∧ gone t (fun e => e.vi = vi ∧ e.asid = asid)) ∧
      (∃ t, exec (.tlbinvVaRange vi asid page count) s = .next t ∧ (t.vi vi).tlbinv.getLsbD 63 = false ∧
        gone t (fun e => e.vi = vi ∧ e.asid = asid ∧ page ≤ e.vpage ∧ e.vpage < page + max 1 count)) ∧
      (∃ t, exec (.tlbinvGpaRange vi page count) s = .next t ∧ (t.vi vi).tlbinv.getLsbD 63 = false ∧
        gone t (fun e => e.vi = vi ∧ page ≤ e.gpage ∧ e.gpage < page + max 1 count))) ∧
    ((s.vi vi).tlbBusy = none → exec (.tlbinvComplete vi) s = .next s) ∧
    (∀ n, (s.vi vi).tlbBusy = some n → s.oldAccess vi n = true → exec (.tlbinvComplete vi) s = .next s) ∧
    (∀ n, (s.vi vi).tlbBusy = some n → s.oldAccess vi n = false → s.oldRecs vi n = [] → ∃ t, exec (.tlbinvComplete vi) s = .next t ∧
      (t.vi vi).tlbinv.getLsbD 63 = true ∧ (t.vi vi).tlbBusy = none ∧ gone t (fun e => (s.vi vi).covers vi e = true))

/-- R327, R372, R373: poison. SET marks the granule; CLEAR writes zeros to its 4 KiB and unmarks it; an error that HBM cannot correct marks the granule. The bits of no other granule change.
A command acts at once, with its DONE later: the model's choice (Log 71); the record is on the die of the granule's stack (Log 102). -/
def Claim.PoisonCommands : Prop :=
  ∀ (s : State) (g : Nat), g < 2 ^ 28 → isHbm (4096 * g) = true →
    (s.poisonCmd.getLsbD 63 = false → exec (.poisonSet g) s = .next s ∧ exec (.poisonClear g) s = .next s) ∧
    (s.poisonCmd.getLsbD 63 = true → ∃ t u, exec (.poisonSet g) s = .next t ∧ exec (.poisonClear g) s = .next u ∧
      (∀ f, f ∈ t.poison ↔ f = g ∨ f ∈ s.poison) ∧ (∀ f, f ∈ u.poison ↔ f ∈ s.poison ∧ f ≠ g) ∧
      t.poisonCmd.getLsbD 63 = false ∧ u.poisonCmd.getLsbD 63 = false ∧
      u = (({ s with poisonCmd := BitVec.ofNat 64 (g * 2 ^ 12 + 2) } : State).writeHome (4096 * g) (List.replicate 4096 0)).setPoison g false) ∧
    (∃ t, exec .poisonCmdComplete s = .next t ∧ t.poisonCmd.getLsbD 63 = true ∧ { t with poisonCmd := s.poisonCmd } = s) ∧
    (∀ pa, pa / 4096 = g → isHbm pa = true → exec (.uncorrectableHbmError pa) s =
      .next ((s.setPoison g true).fb { cls := 3, code := 4, addr := pa, detail := 1, vi := none, core := none, on := some (s.tractOf pa / 4) }))

/-- R361, R376 to R378: legend registers and mark tables. A commit from the right world whose range may stand makes it valid; one that may not changes nothing but the field book. A withdrawal of a range in force
is first in progress and, once no load of the window is under way, complete. MTCAP takes shares that fit its bound, and no others. A publication that waits for a place in a mark table is counted once in WAITS of its tract. That a withdrawal waits for
the loads pushed to the window is the model's reading (Log 77), and that the record of a refused register is on the die of its tract, Log 102. -/
def Claim.LegendsAndMarkTables : Prop :=
  ∀ (s : State) (n : Nat) (top : Word) (secure : Bool),
    (s.secureLegend n = true → secure = false → exec (.legendCommit n top secure) s = .next s ∧ exec (.legendClear n top secure) s = .next s) ∧
    (s.secureLegend n = false ∨ secure = true →
      let new : Legend := { s.legend n with top := (top &&& 0xC01F1FFFFFFFFFFF#64) ||| 0x8000000000000000#64 }
      ((s.legend n).clearing.isSome = true → exec (.legendCommit n top secure) s = .next s) ∧
      ((s.legend n).clearing = none → s.legendOk n new = true → exec (.legendCommit n top secure) s = .next (s.modLegend n (fun _ => new))) ∧
      ((s.legend n).clearing = none → s.legendOk n new = false → exec (.legendCommit n top secure) s =
        .next (s.fb { cls := 12, code := 1, addr := 0x00F000500000 + 32 * n + 24, detail := top.toNat, vi := none, core := none, on := some (n / 64 / 4) })) ∧
      exec (.legendClear n top secure) s = .next (s.modLegend n (fun l => if l.valid = true then { l with clearing := some (top &&& 0xC01F1FFFFFFFFFFF#64 &&& 0x7FFFFFFFFFFFFFFF#64) }
        else { l with top := (top &&& 0xC01F1FFFFFFFFFFF#64) &&& 0x7FFFFFFFFFFFFFFF#64 }))) ∧
    (∀ w, (s.legend n).clearing = some w → s.viewing n = false → exec (.legendClearComplete n) s =
      .next (s.modLegend n (fun l => { l with top := w, clearing := none }))) ∧
    ((s.legend n).clearing = none ∨ s.viewing n = true → exec (.legendClearComplete n) s = .next s) ∧
    (∀ t (v : Word), let w := v.toNat / 2 ^ 24 % 4096
      let r := v.toNat / 2 ^ 12 % 4096
      let h := v.toNat % 4096
      exec (.mtcapWrite t v) s = .next (if 4096 < 5 * h + r + 3 * w ∨ w = 0 ∨ r = 0 ∨ h = 0 then s
        else s.modTract t (fun x => { x with widecap := w, tractcap := r, sheetcap := h }))) ∧
    (∀ scope core k, (s.canStamp scope = true → k ∉ (s.core core).pubWaits → ∃ u, s.noteWait scope core k = some u ∧ u.waves = s.waves ∧ u.home = s.home ∧
        (u.tract (core / 40)).waits = min 65535 ((s.tract (core / 40)).waits + 1) ∧ k ∈ (u.core core).pubWaits) ∧
      (s.canStamp scope = false ∨ k ∈ (s.core core).pubWaits → s.noteWait scope core k = none))

/-- Poison commands, legend registers, mark tables (DONE, a withdrawal's end, the die of a record: the model's, Logs 71, 77 and 102). -/
def Obligations.PoisonAndLegends : Prop := Claim.PoisonCommands ∧ Claim.LegendsAndMarkTables

/-- R374, R375: placement. Under each mode no two bytes of HBM lie in one place, and every byte lies in one of the 16 stacks. A placement command gives the set of its frame the mode; the frames
that leave the old set go back to mode 0. -/
def Claim.Placement : Prop :=
  (∀ m a b, m ≤ 2 → isHbm a = true → isHbm b = true → locateMode m a = locateMode m b → a = b) ∧
  (∀ m a, m ≤ 2 → isHbm a = true → (locateMode m a).1 < 16 ∧ (locateMode m a).2 < Config.stackBytes) ∧
  (∀ a, isHbm a = true → let st := a / 0xC00000000
    let o := a % 0xC00000000
    let fb := o - o % 2 ^ 21
    locateMode 0 a = (st, o) ∧
    (let x := st % 4 * 2 ^ 21 + o % 2 ^ 21; locateMode 1 a = (4 * (st / 4) + x / 256 % 4, fb + x / 256 / 4 * 256 + x % 256)) ∧
    (let x := st * 2 ^ 21 + o % 2 ^ 21; locateMode 2 a = (x / 256 % 16, fb + x / 256 / 16 * 256 + x % 256))) ∧
  locateMode 0 0x006100001340 = (8, 0x100001340) ∧ locateMode 1 0x006100001340 = (11, 0x100000440) ∧ locateMode 2 0x006100001340 = (3, 0x100100140) ∧
  (∀ s : State, (∀ a, s.homeIndex a = (locateMode (s.placeMode a) a).1 * 0xC00000000 + (locateMode (s.placeMode a) a).2) ∧
    (∀ f i, f < 2 ^ 19 → isHbm (f * 2 ^ 21) = true →
      (i ∈ frameSet f 0 ↔ i = f * 2 ^ 21) ∧
      (i ∈ frameSet f 1 ↔ i % 0xC00000000 = f * 2 ^ 21 % 0xC00000000 ∧ i / 0xC00000000 / 4 = f * 2 ^ 21 / 0xC00000000 / 4) ∧
      (i ∈ frameSet f 2 ↔ i % 0xC00000000 = f * 2 ^ 21 % 0xC00000000 ∧ i / 0xC00000000 < 16))) ∧
  ∀ (s : State) (f : Nat) (m : BitVec 2), f < 2 ^ 19 → isHbm (f * 2 ^ 21) = true →
    (m.toNat ≠ 3 → ∃ t, exec (.placeSet f m) s = .next t ∧
      (∀ a, a ∈ frameSet f m.toNat → Tab.getD t.placeModes (a / 2 ^ 21) 0 = m.toNat) ∧
      (∀ a, a ∈ frameSet f (s.placeMode (f * 2 ^ 21)) → a ∉ frameSet f m.toNat → Tab.getD t.placeModes (a / 2 ^ 21) 0 = 0) ∧
      t.waves = s.waves ∧ t.cores = s.cores) ∧
    (m.toNat = 3 → ∃ t, exec (.placeSet f m) s = .next t ∧ t.placeModes = s.placeModes ∧ t.home = s.home) ∧
    exec (.placeQuery f) s = .next { s with placeCmd := BitVec.ofNat 64 (2 ^ 63 + f * 2 ^ 21 + Tab.getD s.placeModes f 0 * 4 + 2) }

/-- R374, R375: every frame of a set has its mode. A placement of which this holds puts no two bytes of HBM in one place; it holds after reset, and placement commands, resets and a loss of power keep it. -/
def Claim.PlacementKept : Prop :=
  let whole := fun (s : State) => ∀ f, isHbm (f * 2 ^ 21) = true → s.placeMode (f * 2 ^ 21) ≤ 2 ∧
    ∀ a, a ∈ frameSet f (s.placeMode (f * 2 ^ 21)) → s.placeMode a = s.placeMode (f * 2 ^ 21)
  whole State.reset ∧ ∀ s : State, whole s →
    (∀ a b, isHbm a = true → isHbm b = true → s.homeIndex a = s.homeIndex b → a = b) ∧
    (∀ f m t, exec (.placeSet f m) s = .next t → whole t) ∧ (∀ f t, exec (.placeQuery f) s = .next t → whole t) ∧
    (∀ d secure t, exec (.registerWrite 0x00F000400010 d secure) s = .next t → whole t) ∧
    (∀ t, exec .moduleReset s = .next t → whole t) ∧ ∀ t, exec .powerLoss s = .next t → whole t

/-- Placement: where a byte lies, that it is one to one, what PLACECMD changes, and that every set keeps one mode. -/
def Obligations.Placement : Prop := Claim.Placement ∧ Claim.PlacementKept

/-- R380, R383: the states of a port. ENABLE takes it from DOWN to training, and its withdrawal back to DOWN from any state; in training the peer's identity brings it UP, unless the peer has this package's number; 200 ms without one,
or a loss of lock, make it FAILED. -/
def Claim.PortStates : Prop :=
  ∀ (s : State) (i pkg port : Nat),
    (∃ t, exec (.portEnable i) s = .next t ∧ (t.port i).enable = true ∧
      (t.port i).st = (if (s.port i).st = .down then .train else (s.port i).st)) ∧
    ((s.port i).st ≠ .up → ∃ t, exec (.portDisable i) s = .next t ∧ (t.port i).enable = false ∧ (t.port i).st = .down ∧ ∀ k, k ≠ i → t.port k = s.port k) ∧
    ((s.port i).st = .up → exec (.portDisable i) s =
      .next (failTransactions (portGo (s.modPort i (fun p => { p with enable := false })) i .down) i)) ∧
    (∀ (_ : (s.port i).st = .train), pkg < 2 ^ 16 → port < 2 ^ 8 → s.cycle ≤ (s.port i).since + 210000000 → ∃ t, exec (.portTrainUp i pkg port) s = .next t ∧
      (t.port i).st = (if pkg = s.fabric.pkgid then .failed else .up) ∧ (t.port i).peerPkg = pkg ∧ (t.port i).peerPort = port ∧
      (∀ k, k ≠ i → t.port k = s.port k)) ∧
    ((s.port i).st = .train → (s.port i).since + 210000000 ≤ s.cycle → ∃ t, exec (.portTrainTimeout i) s = .next t ∧ (t.port i).st = .failed ∧
      (t.port i).fails = min 65535 ((s.port i).fails + 1)) ∧
    ((s.port i).st ≠ .train ∨ s.cycle < (s.port i).since + 210000000 → exec (.portTrainTimeout i) s = .next s) ∧
    ((s.port i).st = .up → exec (.portFail i) s = .next (failTransactions (portGo s i .failed) i)) ∧
    ((s.port i).st ≠ .up → exec (.portFail i) s = .next s)

/-- R260, R381, R382, R385: the domain and the fabric. DOMUP at the master starts the domain count at zero with SYNC, and where no mark stands no stamp of the old count is left; a package that is up and not the master joins over a
port that is UP with the count it gets; a submission goes out where a route is usable, else its result is 2 at once; its answer or 2 ms end it; a flit goes on while hops are left. A route of an entry is usable
where its V is 1 and its port UP; a message leaves by one of them, or not at all where there is none (Log 121). A submission to the package's own number gets result 2 (the model's reading, Log 69); the hops left are an operand, and the key of a forwarded flit's route is free (the model's choices, Logs 67 and 11). -/
def Claim.DomainAndFabric : Prop :=
  ∀ (s : State),
    let fresh := fun (t : State) (f : Fabric) => t.fabric.sync = true ∧ t.fabric.warned = false ∧ t.fabric.stopped = false ∧
      (s.marks.all (fun m => m.gone) = true → t.marks = [] ∧ t.lastStamp = 0 ∧ (∀ c, (t.core c).lastStamp = 0)) ∧
      (s.marks.all (fun m => m.gone) = false → { t with fabric := f } = s)
    (s.fabric.master = true → s.fabric.sync = false → ∃ t, exec .domainBringUp s = .next t ∧ t.domCount = 0 ∧ t.fabric.domup = true ∧ fresh t s.fabric) ∧
    (s.fabric.master = false ∨ s.fabric.sync = true → exec .domainBringUp s = .next { s with fabric := { s.fabric with domup := true } }) ∧
    (∀ i n, s.fabric.domup = true → s.fabric.sync = false → s.fabric.master = false → (s.port i).st = .up → ∃ t, exec (.domainJoin i n) s = .next t ∧
      t.domCount = n ∧ fresh t s.fabric) ∧
    (∀ i n, s.fabric.domup = false ∨ s.fabric.sync = true ∨ s.fabric.master = true ∨ (s.port i).st ≠ .up → exec (.domainJoin i n) s = .next s) ∧
    exec .domainDown s = .next { s with fabric := { s.fabric with domup := false, sync := false } } ∧
    (∀ v : Word, let q := v.toNat / 2 ^ 16 % 4096
      let k := v.toNat % 2 ^ 16
      (s.fabric.busy = true → exec (.fabricSubmit v) s = .next s) ∧
      (s.fabric.busy = false → (s.usable k = [] ∨ k = s.fabric.pkgid) →
        exec (.fabricSubmit v) s = .next { s with fabric := { s.fabric with fqueue := q, fpkg := k, busy := false, result := 2 } }) ∧
      (s.fabric.busy = false → s.usable k ≠ [] → k ≠ s.fabric.pkgid → exec (.fabricSubmit v) s =
        .next (({ s with fabric := { s.fabric with fqueue := q, fpkg := k, busy := true, fsince := s.cycle } } : State).send k (s.fabric.fsuba / 64)
          (.packet k q (packetWords (s.homeBytes s.fabric.fsuba 128)))))) ∧
    (∀ b, s.fabric.busy = true →
      exec (.fabricSubmitAnswer b) s = .next { s with fabric := { s.fabric with busy := false, result := (if b = true then 0 else 1) } } ∧
      exec .fabricSubmitTimeout s = .next (if s.fabric.fsince + 2100000 ≤ s.cycle then { s with fabric := { s.fabric with busy := false, result := 2 } } else s)) ∧
    (s.fabric.busy = false → ∀ b, exec (.fabricSubmitAnswer b) s = .next s ∧ exec .fabricSubmitTimeout s = .next s) ∧
    (∀ dst hop, exec (.fabricForward dst hop) s =
      .next (if dst ≠ s.fabric.pkgid ∧ 0 < hop ∧ s.usable dst ≠ [] then s.choose.2.send dst s.choose.1 (.fwd dst (hop - 1)) else s)) ∧
    s.usable s.fabric.pkgid = [] ∧
    (∀ k p, k ≠ s.fabric.pkgid → (p ∈ s.usable k ↔ ∃ j, j < 4 ∧ (Tab.getD s.routes k 0).getLsbD (8 * j + 7) = true ∧
      p = (Tab.getD s.routes k 0).toNat / 2 ^ (8 * j) % 64 ∧ (s.port p).st = .up)) ∧
    (∀ k key (x : Wire), (s.usable k = [] → k ≠ s.fabric.pkgid → s.send k key x = s) ∧
      (s.usable k ≠ [] → ∃ p ∈ s.usable k, s.send k key x = { s with wire := s.wire ++ [(x, some p)] }))

/-- States of ports, the domain, submissions and forwarding (own number, hops: the model's, Logs 67 and 69). -/
def Obligations.Fabric : Prop := Claim.PortStates ∧ Claim.DomainAndFabric

/-- R386, R397 to R399: zone commands and counters. A read shows a plot in ZPLOT, and a close closes the zone at once where no accepted send of it is under way, and else waits with BUSY 1; a command while BUSY is ignored. CLEAR zeroes a
tract's counters, SNAP copies them with the cycle, and SNAPALL does so for all 16. An event adds to its live counter; one in the cycle of a snapshot adds to that too, and after a CLEAR that followed it in this cycle to that alone. -/
def Claim.ZonesAndCounters : Prop :=
  ∀ (s : State) (c z p t vi : Nat),
    ((s.core c).zoneBusy = false → exec (.zonePlotRead c z p) s = .next (s.modCore c (fun k =>
      { k with zcmd := BitVec.ofNat 64 (p % 64 * 16 + z % 8), zplot := zplotWord ((k.zone (z % 8)).plot (p % 64)) }))) ∧
    ((s.core c).zoneBusy = true → exec (.zonePlotRead c z p) s = .next s ∧ exec (.zoneClose c z) s = .next s) ∧
    ((s.core c).zoneBusy = false → (s.core c).sends.any (fun x => x.zone == z % 8) = false →
      ∃ u, exec (.zoneClose c z) s = .next u ∧ ((u.core c).zone (z % 8)).isOpen = false) ∧
    ((s.core c).zoneBusy = false → (s.core c).sends.any (fun x => x.zone == z % 8) = true →
      ∃ u, exec (.zoneClose c z) s = .next u ∧ (u.core c).zoneBusy = true) ∧
    exec (.counterClear t) s = .next (s.modTract t (fun x =>
      { x with counters := [], clearAt := if x.snapAt = some s.cycle then some s.cycle else x.clearAt })) ∧
    exec (.counterSnap t) s = .next (s.modTract t (fun x =>
      { x with snap := x.counters, snapCyc := BitVec.ofNat 64 s.cycle, snapAt := some s.cycle, clearAt := none })) ∧
    (∃ u, exec .snapall s = .next u ∧ (∀ k, k < 16 → u.tract k =
      { s.tract k with snap := (s.tract k).counters, snapCyc := BitVec.ofNat 64 s.cycle, snapAt := some s.cycle, clearAt := none }) ∧
      { u with tracts := s.tracts } = s) ∧
    (∀ (x : Tract) (now idx n : Nat), let y := x.count now idx n
      { y with counters := x.counters, snap := x.snap } = x ∧ (∀ k, k ≠ idx → Tab.getD y.counters k 0 = Tab.getD x.counters k 0 ∧
        Tab.getD y.snap k 0 = Tab.getD x.snap k 0) ∧
      Tab.getD y.counters idx 0 = (if x.clearAt = some now then Tab.getD x.counters idx 0 else bumpCounter idx n (Tab.getD x.counters idx 0)) ∧
      Tab.getD y.snap idx 0 = (if x.snapAt = some now then bumpCounter idx n (Tab.getD x.snap idx 0) else Tab.getD x.snap idx 0)) ∧
    (∀ idx n (x : Word), idx ≠ 14 → bumpCounter idx n x = x + BitVec.ofNat 64 n) ∧
    (∀ n (x : Word), n < 2 ^ 32 → (bumpCounter 14 n x).toNat / 2 ^ 32 = x.toNat / 2 ^ 32 ∧
      (bumpCounter 14 n x).toNat % 2 ^ 32 = (x.toNat % 2 ^ 32 + n) % 2 ^ 32) ∧
    exec (.vcounterSnap vi) s = .next (s.modVi vi (fun v => { v with snap := v.counters, snapCyc := BitVec.ofNat 64 s.cycle, snapAt := some s.cycle }))

/-- R400 to R402: the field book. A record goes to the ring of its die, with the ring's next SEQ and the fields of Table 17.3, and, of classes 1, 3, 5 and 10, to the ring of its interface; one of class 6, which names a secure
block, only to that of a secure partition (the model's reading, Log 120). Nothing else changes. The newest record's words are written in order: word 0 with CLASS 0, words 1 to 3, word 0 with the CLASS. -/
def Claim.FieldBook : Prop :=
  (∀ (s : State) (e : FbEvent), let d := e.die
    let old := Tab.getD s.fieldBook d FbRing.empty
    let r := fbRecord e 0 false old.seq s.cycle
    let t := s.fb e
    let shown := fun (v : Nat) => e.vi = some v ∧ (e.cls ∈ [1, 3, 5, 10] ∨ e.cls = 6 ∧ (s.vi v).secure = true)
    Tab.getD t.fieldBook d FbRing.empty = { seq := (old.seq + 1) % 2 ^ 22, recs := (r :: old.recs).take 8192, todo := min 20480 (old.todo + 5) } ∧
    (∀ k, k ≠ d → Tab.getD t.fieldBook k FbRing.empty = Tab.getD s.fieldBook k FbRing.empty) ∧
    (∀ v, shown v → t.vi v =
      { s.vi v with ring := (ringInsert r (s.vi v).ring).take 256, ringHead := (s.vi v).ringHead + 1, ringTodo := min 640 ((s.vi v).ringTodo + 5) }) ∧
    (∀ v, ¬ shown v → t.vi v = s.vi v) ∧ { t with fieldBook := s.fieldBook, vis := s.vis } = s ∧
    (e.on = none → d = match e.core with | some c => c / 160 % 4 | none => 0) ∧ (∀ k, e.on = some k → d = k % 4) ∧
    r.toNat % 2 ^ 22 = old.seq % 2 ^ 22 ∧ r.toNat / 2 ^ 22 % 4 = d ∧ r.toNat / 2 ^ 24 % 1024 = (match e.core with | some c => c % 1024 | none => 0x3FF) ∧
    r.toNat / 2 ^ 34 % 64 = (match e.vi with | some v => v % 64 | none => 0) ∧ r.toNat / 2 ^ 40 % 16 = 0 ∧ r.toNat / 2 ^ 44 % 16 = e.cls % 16 ∧
    r.toNat / 2 ^ 48 % 2 ^ 16 = e.code % 2 ^ 16 ∧ r.toNat / 2 ^ 64 % 2 ^ 64 = e.detail % 2 ^ 64 ∧ r.toNat / 2 ^ 128 % 2 ^ 64 = e.addr % 2 ^ 64 ∧
    r.toNat / 2 ^ 192 = s.cycle % 2 ^ 64) ∧
  ∀ (recs : List (BitVec 256)) (next size n : Nat), 0 < size → n < 4 →
    let word := fun (todo : Nat) => ringWord recs next size todo (32 * ((next + size - 1) % size) + 8 * n)
    let new := recWord recs[0]? n
    let old := recWord recs[size]? n
    word 0 = new ∧ word 5 = old ∧ ∀ todo, 0 < todo → todo < 5 →
      word todo = if n = 0 then new &&& ~~~ 0x0000F00000000000#64 else if todo + n ≤ 4 then new else old

/-- R276, R313, R395, R396, R403 to R405: resets, power and errors. A module reset keeps home memory, so that a byte of a frame in mode 0 reads as before, the fused values, RETMAP, the operator list and the preserved slots; a loss of power keeps the fused values, RETMAP, the operator list, the slots and the corrected errors reported. At 105 degrees or above the limit
DUTY falls by one, to 4 at the least; well below both it rises, to 16 at most. At 115 degrees a die trips: a trip preserves the book and resets. A corrected error is recorded, on the die of its core, of its stack of HBM or of its port (Log 102), and counted where a core is named. What a module reset, a loss of power and a trip
keep is read from several rules (the model's reading, Log 64). -/
def Claim.ResetsAndPower : Prop :=
  ∀ (s : State),
    (∃ t, exec .moduleReset s = .next t ∧ t.home = s.home ∧ t.mgmt.fused = s.mgmt.fused ∧ t.mgmt.retmap = s.mgmt.retmap ∧ t.mgmt.operators = s.mgmt.operators ∧
      t.mgmt.slots = s.mgmt.slots ∧ t.mgmt.corrected = s.mgmt.corrected ∧ t.mgmt.before = s.mgmt.before + s.cycle ∧ t.mgmt.powered = false ∧ t.waves = [] ∧ t.cores = [] ∧ t.queues = [] ∧ t.vis = [] ∧ t.marks = [] ∧ t.poison = [] ∧ t.cycle = 0 ∧
      ∀ pa, s.placeMode pa = 0 → t.homeByte pa = s.homeByte pa) ∧
    (∃ t, exec .powerLoss s = .next t ∧ t.home = [] ∧ t.mgmt.fused = s.mgmt.fused ∧ t.mgmt.retmap = s.mgmt.retmap ∧ t.mgmt.operators = s.mgmt.operators ∧ t.mgmt.slots = s.mgmt.slots ∧ t.waves = [] ∧ t.cores = [] ∧
      t.mgmt.corrected = s.mgmt.corrected ∧ t.mgmt.before = s.mgmt.before + s.cycle) ∧
    (∀ power tmax, 115 ≤ tmax → exec (.dutyUpdate power tmax) s = exec .thermalTrip { s with mgmt := { s.mgmt with power := power, tmax := tmax } }) ∧
    (∀ power tmax, tmax < 115 → ∃ t, exec (.dutyUpdate power tmax) s = .next t ∧ t.waves = s.waves ∧ t.home = s.home ∧ t.mgmt.power = power ∧ t.mgmt.tmax = tmax ∧
      (105 ≤ tmax ∨ s.mgmt.effLimit < power → t.mgmt.duty = max 4 (s.mgmt.duty - 1)) ∧
      (tmax ≤ 100 → power * 100 < s.mgmt.effLimit * 95 → t.mgmt.duty = min 16 (s.mgmt.duty + 1)) ∧
      (tmax < 105 → power ≤ s.mgmt.effLimit → (100 < tmax ∨ s.mgmt.effLimit * 95 ≤ power * 100) → t.mgmt.duty = s.mgmt.duty)) ∧
    (∃ t, exec .thermalTrip s = .next t ∧ t.waves = [] ∧ t.cores = [] ∧ t.mgmt.powered = false ∧
      t.mgmt.slots = (s.fb { cls := 8, code := 3, addr := 0, detail := s.mgmt.duty % 32 + max 115 s.mgmt.tmax % 256 * 256, vi := none, core := none }).preserve.mgmt.slots) ∧
    (∀ site core addr,
      let e := fun (vi die who : Option Nat) =>
        ({ cls := 2, code := site, addr := if site = 5 then 0 else addr, detail := 1, vi := vi, core := who, on := die } : FbEvent)
      (core < 640 → let t := s.fb (e (s.coreVi core) (if site = 5 then some (addr / 12) else if site = 4 then some (s.tractOf addr / 4) else none) (some core))
        exec (.correctedError site core addr) s = .next
          { t with mgmt := { t.mgmt with corrected := t.mgmt.corrected ++ [(core, s.mgmt.before + s.cycle)] } }) ∧
      (640 ≤ core → exec (.correctedError site core addr) s =
        .next (s.fb (e none (if site = 5 then some (addr / 12) else if site = 3 ∨ site = 4 then some (s.tractOf addr / 4) else none) none))))

/-- Zone commands, counters, duty, trips, and what resets keep (the model's reading, Log 64). -/
def Obligations.CountersAndPower : Prop := Claim.ZonesAndCounters ∧ Claim.FieldBook ∧ Claim.ResetsAndPower

/-- R387 to R391: the stages of boot, each only after the one before it. An image of the wrong magic number or KIND stops the boot with code 1, one whose version is below the fused minimum with code 4, a failed rail with 5 and a failed training
with 6; an accepted image is measured, and its body stands in memory. Core 0 starts at CCFW's ENTRY, and in stage 3 at that of the OS. An image of CCFW outside tract 0 stops the boot too (the model's choice, Log 94). -/
def Claim.BootStages : Prop :=
  ∀ (s : State) (img : Image),
    (s.mgmt.atStage 0 = true → (∀ c, imageFails s.mgmt img 1 [Config.rootDigest] = some c → exec (.standbyPowerOn img) s = .next (bootStop s c 1)) ∧
      (imageFails s.mgmt img 1 [Config.rootDigest] = none → exec (.standbyPowerOn img) s = .next { s with mgmt := { s.mgmt.measure 0 img with stage := 1 } })) ∧
    (s.mgmt.atStage 0 = false → exec (.standbyPowerOn img) s = .next s) ∧
    (s.mgmt.atStage 1 = true → (∀ b, exec (.mcfwStart false b img) s = .next (bootStop s 5 2)) ∧ exec (.mcfwStart true false img) s = .next (bootStop s 6 2) ∧
      (∀ c, imageFails s.mgmt img 2 [Config.rootDigest] = some c → exec (.mcfwStart true true img) s = .next (bootStop (powerUp s) c 2)) ∧
      (imageFails s.mgmt img 2 [Config.rootDigest] = none → inTract0 img = false → exec (.mcfwStart true true img) s = .next (bootStop (powerUp s) 1 2)) ∧
      (imageFails s.mgmt img 2 [Config.rootDigest] = none → inTract0 img = true → exec (.mcfwStart true true img) s =
        .next { (powerUp s).writeHome img.load img.body with mgmt := { (powerUp s).mgmt.measure 1 img with stage := 2, ccEntry := img.entry } })) ∧
    (s.mgmt.atStage 1 = false → ∀ a b, exec (.mcfwStart a b img) s = .next s) ∧
    (s.mgmt.atStage 2 = true → exec .ccCore0Release s = .next { s with
      mgmt := { s.mgmt with stage := 3 }, ccWorld := Tab.set s.ccWorld 0 true, ccStart := Tab.set s.ccStart 0 s.mgmt.ccEntry }) ∧
    (s.mgmt.atStage 2 = false → exec .ccCore0Release s = .next s) ∧
    (∀ os, s.mgmt.atStage 3 = true →
      (∀ c, imageFails s.mgmt img 4 [Config.rootDigest] = some c → exec (.ccfwStage3 img os) s = .next (bootStop s c 4)) ∧
      (imageFails s.mgmt img 4 [Config.rootDigest] = none → keyListOk img.body = false → exec (.ccfwStage3 img os) s = .next (bootStop s 1 4)) ∧
      (imageFails s.mgmt img 4 [Config.rootDigest] = none → keyListOk img.body = true →
        imageFails s.mgmt os 3 ((keysOf img.body).map keyDigest) = none → ∃ t, exec (.ccfwStage3 img os) s = .next t ∧ t.mgmt.stage = 4 ∧
          t.mgmt.trust = keysOf img.body ∧ Tab.get? t.ccStart 0 = some os.entry ∧ t.ccWorld.length = 16)) ∧
    (∀ os, s.mgmt.atStage 3 = false → exec (.ccfwStage3 img os) s = .next s) ∧
    (∀ (m : Mgmt) (k : Nat) (ds : List (BitVec 256)), img.magic ≠ 0x544F4F42#32 ∨ img.kind.toNat ≠ k → imageFails m img k ds = some 1) ∧
    (∀ (m : Mgmt) (k : Nat) (ds : List (BitVec 256)), imageFails m img k ds = none → m.minVersion k ≤ img.version.toNat)

/-- R328, R403 to R407: the management port. A request whose code Table 17.7 does not have gets result 1, one of another row waits for that, and with no request received nothing happens (Log 66). A header whose length or zero bytes are wrong gets result 2 (Log 66), and so does a signed command that is not
accepted; neither has an effect. An accepted one notes its request number and is performed: RELEASE, RETIRE, RETURN, RAISEMIN, LOADLIST and RESET. PRESERVE keeps the newest records, its own among them, in a slot; QUERY,
QUOTE and READBOOK answer and change nothing else. Every reply repeats the request's number. LOADLIST's acceptance as an image of KIND 4 under the root key is the model's reading (Log 65). -/
def Claim.Management : Prop :=
  ∀ (s : State), (s.mgmt.inbox = [] → ∀ auth slot core kind version img nonce,
      exec (.release slot auth) s = .next s ∧ exec (.retire core auth) s = .next s ∧ exec (.returnCore core auth) s = .next s ∧ exec (.raisemin kind version auth) s = .next s ∧
      exec (.loadlist img auth) s = .next s ∧ exec (.reset auth) s = .next s ∧ exec .preserve s = .next s ∧ exec .query s = .next s ∧ exec (.quote nonce) s = .next s ∧
      exec (.readbook slot) s = .next s) ∧
    ∀ (h : MgmtHdr) (rest : List MgmtHdr), s.mgmt.inbox = h :: rest →
    let t : State := { s with mgmt := { s.mgmt with inbox := rest } }
    let row := fun (code : Nat) (i : Instr) =>
      (h.code ∉ [0x01, 0x02, 0x03, 0x04, 0x10, 0x11, 0x12, 0x13, 0x14, 0x15] → exec i s = .next (t.reply h (.result 1))) ∧
      (h.code ∈ [0x01, 0x02, 0x03, 0x04, 0x10, 0x11, 0x12, 0x13, 0x14, 0x15] → h.code ≠ code → exec i s = .next s)
    let form := fun (ops : List Byte) => h.formOk ops = true
    let ops := Config.mgmtOperands h.code
    (∀ b, form b ↔ h.zero = 0 ∧ h.len = 16 + b.length + (if 0x10 ≤ h.code then 29792 else 0)) ∧
    (∀ auth slot core kind version img nonce,
      row 0x10 (.release slot auth) ∧ row 0x11 (.retire core auth) ∧ row 0x12 (.returnCore core auth) ∧ row 0x13 (.raisemin kind version auth) ∧
      row 0x14 (.loadlist img auth) ∧ row 0x15 (.reset auth) ∧ row 0x04 .preserve ∧ row 0x02 .query ∧ row 0x01 (.quote nonce) ∧ row 0x03 (.readbook slot)) ∧
    (∀ (auth : Signed), let u : State := { t with mgmt := t.mgmt.noteReq h auth }
      let ok := fun (b : List Byte) => form b ∧ t.mgmt.accepts h auth b = true
      (h.code = 0x10 → ∀ slot, (¬ ok (ops [slot]) → exec (.release slot auth) s = .next (mgmtDone t h 0x10 slot 2)) ∧
        (ok (ops [slot]) → (2 ≤ slot → exec (.release slot auth) s = .next (mgmtDone u h 0x10 slot 2)) ∧
          (slot < 2 → exec (.release slot auth) s = .next (mgmtDone
            { u with mgmt := { u.mgmt with slots := Tab.erase u.mgmt.slots slot, slotTime := Tab.erase u.mgmt.slotTime slot } } h 0x10 slot 0)))) ∧
      (h.code = 0x11 → ∀ core, (¬ ok (ops [core]) → exec (.retire core auth) s = .next (mgmtDone t h 0x11 core 2)) ∧
        (ok (ops [core]) → (640 ≤ core → exec (.retire core auth) s = .next (mgmtDone u h 0x11 core 2)) ∧
          (core < 640 → exec (.retire core auth) s = .next ((retireCore (mgmtNote u 0x11 core 0) core 0x80 none ((mgmtNote u 0x11 core 0).lastSeq 0)).reply h (.result 0))))) ∧
      (h.code = 0x12 → ∀ core, (¬ ok (ops [core]) → exec (.returnCore core auth) s = .next (mgmtDone t h 0x12 core 2)) ∧
        (ok (ops [core]) → (640 ≤ core → exec (.returnCore core auth) s = .next (mgmtDone u h 0x12 core 2)) ∧
          (core < 640 → core ∉ s.mgmt.retmap → exec (.returnCore core auth) s = .next (mgmtDone u h 0x12 core 0)) ∧
          (core < 640 → core ∈ s.mgmt.retmap → exec (.returnCore core auth) s = .next (mgmtDone
            { u with mgmt := { u.mgmt with retmap := u.mgmt.retmap.filter (fun c => c != core), returned := core :: u.mgmt.returned } } h 0x12 core 0)))) ∧
      (h.code = 0x13 → ∀ kind version, (¬ ok (ops [kind, version]) → exec (.raisemin kind version auth) s = .next (mgmtDone t h 0x13 kind 2)) ∧
        (ok (ops [kind, version]) → (1 ≤ kind → kind ≤ 4 → s.mgmt.minVersion kind < version → version < 2 ^ 32 → exec (.raisemin kind version auth) s =
            .next (mgmtDone { u with mgmt := { u.mgmt with fused := Tab.set u.mgmt.fused kind version } } h 0x13 kind 0)) ∧
          (kind < 1 ∨ 4 < kind ∨ version ≤ s.mgmt.minVersion kind ∨ 2 ^ 32 ≤ version → exec (.raisemin kind version auth) s = .next (mgmtDone u h 0x13 kind 2)))) ∧
      (h.code = 0x14 → ∀ img, let good := imageFails s.mgmt img 4 [Config.rootDigest] = none ∧ keyListOk img.body = true ∧ s.mgmt.operatorVersion < img.version.toNat
        (¬ ok (imageBytes img) → exec (.loadlist img auth) s = .next (mgmtDone t h 0x14 0 2)) ∧
        (ok (imageBytes img) → (¬ good → exec (.loadlist img auth) s = .next (mgmtDone u h 0x14 0 2)) ∧
          (good → exec (.loadlist img auth) s = .next (mgmtDone
            { u with mgmt := { u.mgmt with operators := keysOf img.body, operatorVersion := img.version.toNat } } h 0x14 0 0)))) ∧
      (h.code = 0x15 → (¬ ok [] → exec (.reset auth) s = .next (mgmtDone t h 0x15 0 2)) ∧
        (ok [] → exec (.reset auth) s = .next (moduleResetState (mgmtDone u h 0x15 0 0))))) ∧
    (h.code = 0x04 → (form [] → exec .preserve s = .next ((mgmtNote t 0x04 0 0).preserve.reply h (.result 0))) ∧
      (¬ form [] → exec .preserve s = .next (mgmtDone t h 0x04 0 2))) ∧
    (h.code = 0x02 → (¬ form [] → exec .query s = .next (t.reply h (.result 2))) ∧
      (form [] → ∃ hot slots, exec .query s = .next (t.reply h (.query (queryPower s.mgmt) s.mgmt.stop s.mgmt.retmap hot slots)) ∧
        (∀ c, c ∈ hot ↔ c < 640 ∧ s.mgmt.overCore c = true) ∧ slots = [(Tab.get? s.mgmt.slots 0).isSome, (Tab.get? s.mgmt.slots 1).isSome])) ∧
    (h.code = 0x01 → ∀ nonce : BitVec 256, (¬ form (bytesOf 32 nonce.toNat) → exec (.quote nonce) s = .next (t.reply h (.result 2))) ∧
      (form (bytesOf 32 nonce.toNat) → ∃ b sig, exec (.quote nonce) s = .next (t.reply h (.quote b sig Config.identityKey identityCert)) ∧
        b.length = 368 ∧ b.take 32 = bytesOf 32 nonce.toNat ∧ sig.length = 29792 ∧ identityCert.length = 29792)) ∧
    (h.code = 0x03 → ∀ slot, (¬ form (ops [slot]) → exec (.readbook slot) s = .next (t.reply h (.result 2))) ∧
      (form (ops [slot]) →
        (∀ r, slot < 2 → Tab.get? s.mgmt.slots slot = some r → exec (.readbook slot) s = .next (t.reply h (.book (r ++ List.replicate (2048 - r.length) 0)))) ∧
        (slot < 2 → Tab.get? s.mgmt.slots slot = none → exec (.readbook slot) s = .next (t.reply h (.result 3))) ∧
        (2 ≤ slot → exec (.readbook slot) s = .next (t.reply h (.result 2)))))

/-- The stages of boot, and the management port (LOADLIST's acceptance, one stop, codes: the model's, Logs 65, 66, 94). -/
def Obligations.BootAndManagement : Prop := Claim.BootStages ∧ Claim.Management

/-- R277 to R280, R283 to R286: the loader. A container that passes every check is loaded under a fresh handle, with its text, or that of the container emdx derives (an operand of the load, Log 72), as the newest edition; one that fails is answered with the status of the first check, and nothing is loaded. A patch of the
newest edition that verifies makes the next one in one step, with every page that it does not replace as it was; any other, and one of base 2^32 − 1, is refused. A page that a wave fetches from is there if its digest matches and else is marked failed. -/
def Claim.Loader : Prop :=
  ∀ (s : State),
    (∀ vi c b, (loadStatus s vi c b).1 ≠ 0 → exec (.containerLoad vi c b) s = .next { s with replies := s.replies ++ [.load (loadStatus s vi c b).1 0] }) ∧
    (∀ vi c b, (loadStatus s vi c b).1 = 0 → ∃ t x, exec (.containerLoad vi c b) s = .next t ∧ t.containers = s.containers ++ [x] ∧
      x.vi = vi ∧ x.c = (loadStatus s vi c b).2 ∧ t.replies = s.replies ++ [.load 0 x.handle] ∧ t.editions.length = s.editions.length + 1 ∧ t.waves = s.waves ∧
      t.launches = s.launches ∧ x.funcs = boxFuncs x.c ∧ ∃ e ∈ t.editions, e.handle = x.handle ∧ e.vi = vi ∧ e.number = firstEdition x.c ∧ e.newest = true ∧
        e.pages = pagesOf x.c ∧ e.loaded = eagerPages x.c ∧ e.failedPages = []) ∧
    (∀ vi c b, (loadStatus s vi c b).1 = 0 → let d := (loadStatus s vi c b).2
      (d = c ∨ derivedFrom c d = true) ∧ formatOk d = true ∧ s.mgmt.signedBy (manifestOf d) = true ∧ sectionsMatch d = true ∧ allNative d = true ∧
      (boxFuncs d).all funcRolesOk = true ∧ (boxFuncs d).all (fun f => fitsAlone s vi f) = true) ∧
    (∀ h, ∃ t, exec (.containerUnload h) s = .next t ∧ (∀ c, c ∈ t.containers ↔ c ∈ s.containers ∧ c.handle ≠ h) ∧
      (∀ e, e ∈ t.editions → e.handle = h → e.newest = false) ∧ t.launches = s.launches) ∧
    (∀ p : Patch, s.editions.find? (fun e => e.handle == p.handle && e.newest) = none → exec (.patchCommit p) s = .next s) ∧
    (∀ (p : Patch) e, s.editions.find? (fun e => e.handle == p.handle && e.newest) = some e → e.number = p.base → p.base + 1 < 2 ^ 32 →
      patchForm p = true → s.mgmt.signedBy p.manifest = true → (patchPages p).all pageMatches = true →
      (patchPages p).all (fun x => e.pages.any (fun y => y.1 == x.1)) = true → s.containers.any (fun c => c.handle == p.handle) = true →
      ∃ t x, exec (.patchCommit p) s = .next t ∧ x ∈ t.editions ∧ x.handle = p.handle ∧ x.number = e.number + 1 ∧ x.newest = true ∧
        (∀ q ∈ patchPages p, q ∈ x.pages) ∧ (let kept := fun n => (patchPages p).all (fun q => q.1 != n) = true;
          (∀ q, kept q.1 → (q ∈ x.pages ↔ q ∈ e.pages)) ∧ (∀ n, kept n → (n ∈ x.loaded ↔ n ∈ e.loaded)) ∧ ∀ u, kept u.1 → (u ∈ x.units ↔ u ∈ e.units))) ∧
    (∀ (p : Patch) e, s.editions.find? (fun e => e.handle == p.handle && e.newest) = some e →
      (e.number ≠ p.base ∨ p.base = 2 ^ 32 - 1 ∨ s.containers.any (fun c => c.handle == p.handle) = false ∨ patchForm p = false ∨ s.mgmt.signedBy p.manifest = false ∨ (patchPages p).all pageMatches = false ∨
        (patchPages p).all (fun x => e.pages.any (fun y => y.1 == x.1)) = false) → exec (.patchCommit p) s = .next s) ∧
    (∀ h n page bytes e b want, s.editions.find? (fun e => e.handle == h && e.number == n) = some e → e.pages.find? (fun p => p.1 == page) = some (page, b, want) →
      page ∉ e.loaded → e.failedPages.any (fun x => x.1 == page) = false →
      (s.fetching h n page = false → exec (.demandPageLoad h n page bytes) s = .next s) ∧
      (s.fetching h n page = true → Config.shake256 bytes = want → ∃ t, exec (.demandPageLoad h n page bytes) s = .next t ∧
        ∃ x ∈ t.editions, x.handle = h ∧ x.number = n ∧ page ∈ x.loaded ∧ (page, bytes, want) ∈ x.pages) ∧
      (s.fetching h n page = true → Config.shake256 bytes ≠ want → ∃ t, exec (.demandPageLoad h n page bytes) s = .next t ∧
        (∃ x ∈ t.editions, x.handle = h ∧ x.number = n ∧ (page, Config.shake256 bytes) ∈ x.failedPages ∧ page ∉ x.loaded) ∧ t.home = s.home))

/-- R277 to R280, R283, R288 to R292, Table 9.6: the status of a load is that of the first check that fails: the form of the header and directory (1), the signature (2), a section digest (3), the text choice (4) and, of the container
that emdx derives (Log 72), the same again; then the limits of the contents (1, in this place the model's choice, Log 131), roles (5), widths (6), plan entries (1), plan conflicts (7), plan fit (8), the pages that are loaded at once (3). -/
def Claim.LoadStatuses : Prop :=
  ∀ (s : State) (vi : Nat) (c : Container) (x : Emdx),
    let form := fun (d : Container) (n : Nat) =>
      (formatOk d = false ∧ n = 1) ∨ (formatOk d = true ∧ s.mgmt.signedBy (manifestOf d) = false ∧ n = 2) ∨
      (formatOk d = true ∧ s.mgmt.signedBy (manifestOf d) = true ∧ sectionsMatch d = false ∧ n = 3)
    let formed := fun (d : Container) => formatOk d = true ∧ s.mgmt.signedBy (manifestOf d) = true ∧ sectionsMatch d = true
    let chosen := ∀ k, k < manNfunc (manifestOf c) → (chooseText c x k).isSome = true
    let status := (loadStatus s vi c x).1
    (∀ n, form c n → status = n) ∧
    (formed c → allNative c = false → (¬ chosen → status = 4) ∧
      (chosen → (x.derived = none → status = 4) ∧ ∀ d, x.derived = some d → (derivedFrom c d = false → status = 4) ∧
        (derivedFrom c d = true → (∀ n, form d n → status = n) ∧ (formed d → allNative d = false → status = 4)))) ∧
    ∀ d, formed d → allNative d = true → formed c →
      ((allNative c = true ∧ d = c) ∨ (allNative c = false ∧ chosen ∧ x.derived = some d ∧ derivedFrom c d = true)) →
      let fs := boxFuncs d
      let limits := sectionsFormOk d = true ∧ fs.all funcFormOk = true
      let roles := fs.all funcRolesOk = true
      let widths := ∀ f ∈ fs, ∀ w ∈ f.calleeWidths, w = f.width
      let plans := fs.all planFormOk = true
      let clear := ∀ f ∈ fs, (laterPairs f.plan).all (fun p => !planClash p.1 p.2) = true
      let fits := ∀ f ∈ fs, fitsAlone s vi f = true
      let pages := ∀ p ∈ pagesOf d, p.1 ∈ eagerPages d → pageMatches p = true
      (loadStatus s vi c x).2 = d ∧ (¬ limits → status = 1) ∧ (limits → (¬ roles → status = 5) ∧ (roles → (¬ widths → status = 6) ∧ (widths →
        (¬ plans → status = 1) ∧ (plans → (¬ clear → status = 7) ∧ (clear → (¬ fits → status = 8) ∧ (fits → (¬ pages → status = 3) ∧ (pages → status = 0)))))))

/-- Containers, patches, pages on demand (the derived container as an operand: the model's reading, Log 72). -/
def Obligations.Loader : Prop := Claim.Loader ∧ Claim.LoadStatuses

/-- R80 to R97: every move has an encoding, and decoding it gives the move, for every well-formed move and every value of its operands; an event has none. -/
def Obligations.DecodeOfEncode : Prop :=
  (∀ (i : Instr) (m : Mv), moveOf i = some m → ∃ x, encode i = some x) ∧ (∀ i : Instr, moveOf i = none → encode i = none) ∧
  ∀ (i : Instr) (x : SlotBits), i.wf = true → encode i = some x → decodeSlot x = .ok i

/-- R80 to R97: a slot that decodes has no other meaning and no bit that decoding passes over: it is the encoding of the move it decodes to, and that move is well formed. -/
def Obligations.EncodeOfDecode : Prop :=
  ∀ (x : SlotBits) (i : Instr), decodeSlot x = .ok i → encode i = some x ∧ i.wf = true

/-- Tables 3.2 to 3.11: slots that the spec writes out, or that are written out here bit by bit from its tables, decode to the moves they stand for; slots with a reserved code are refused by the
name of what is wrong. -/
def Obligations.SpecWords : Prop :=
  decodeSlot 0x080240002E#40 = .ok (.iaAdd { inv := false, gidx := 1, src := .v 2 } false .s32) ∧
  decodeSlot 0x88_0240_404F#40 = .ok (.shShr { inv := true, gidx := 1, src := .v 2 } .n32) ∧
  decodeSlot 0x04_0122_4000#40 = .ok (.operandPortWrite { inv := false, gidx := 0, src := .imm 1 } .sh .b 0) ∧
  decodeSlot 0x00_0340_C8CA#40 = .ok (.chChain { inv := false, gidx := 0, src := .v 3 } .mulb .addc .relu) ∧
  decodeSlot 0x00_C341_4029#40 = .ok (.ldLdg { inv := false, gidx := 0, src := .a 3 } .b4 false true) ∧
  decodeSlot 0x04_0041_A030#40 = .ok (.lgPub { inv := false, gidx := 0, src := .imm 0 } .die) ∧
  decodeSlot 0x00_0841_F065#40 = .ok (.mxMmq { inv := false, gidx := 0, src := .v 8 } 2 5) ∧
  decodeSlot 0x00_8541_214A#40 = .ok (.saCmp { inv := false, gidx := 0, src := .s 5 } true .lt) ∧
  decodeSlot 0x17_F442_6040#40 = .ok (.ctBany { inv := false, gidx := 2, src := .imm 0x3F4 }) ∧
  decodeSlot 0x04_0942_60AB#40 = .ok (.ctBscal { inv := false, gidx := 0, src := .imm 9 } true 3) ∧
  decodeSlot 0x04_0242_8060#40 = .ok (.syCsrr { inv := false, gidx := 0, src := .imm 2 }) ∧
  decodeSlot 0x04_0041_C120#40 = .ok (.baCbtake { inv := false, gidx := 0, src := .imm 0 } 0) ∧
  decodeSlot 0x00_C142_20C0#40 = .ok (.sxLandsend { inv := false, gidx := 0, src := .a 1 } 0) ∧
  decodeSlot 0x00_C441_8039#40 = .ok (.atAdd { inv := false, gidx := 0, src := .a 4 } .w32 .sys .release) ∧
  decodeSlot 0x00_0000_00E0#40 = .error .reservedOpcode ∧
  decodeSlot 0x00_6000_2000#40 = .error .reservedSource

/-- R7, R374: home memory under one placement, one to one as every placement is that commands leave (Placement). What is written at a byte of HBM is read back there, every other byte keeps its value, and the list of cells stays in canonical form; a number is kept
least significant byte first. -/
def Claim.HomeMemory : Prop :=
  ∀ (s : State), Mem.wf s.home = true → (∀ a b, isHbm a = true → isHbm b = true → s.homeIndex a = s.homeIndex b → a = b) →
    (∀ pa b, Mem.wf (s.setHomeByte pa b).home = true ∧ (s.setHomeByte pa b).homeByte pa = b ∧
      ∀ x, isHbm pa = true → isHbm x = true → x ≠ pa → (s.setHomeByte pa b).homeByte x = s.homeByte x) ∧
    (∀ pa bs, bs ≠ [] → isHbm (pa + bs.length - 1) = true → Mem.wf (s.writeHome pa bs).home = true ∧
      ∀ x, isHbm x = true → (s.writeHome pa bs).homeByte x = if pa ≤ x ∧ x < pa + bs.length then bs.getD (x - pa) 0 else s.homeByte x) ∧
    (∀ pa n, s.homeNat pa (n + 1) = (s.homeByte pa).toNat + 256 * s.homeNat (pa + 1) n)

/-- R142, R291: the scratchpad of a party. A write in its banks is read back, changes no other byte of them, and keeps the SRAM in canonical form; an address outside its banks has no byte. Stated of a party
whose banks lie apart. -/
def Claim.Scratchpad : Prop :=
  ∀ (s : State) (p : Party), Mem.wf (s.core p.core).sram = true → (∀ a b x, p.spad a = some x → p.spad b = some x → a = b) →
    (∀ a x, p.spad a = some x → a < 2 ^ 20 ∧ ∃ b, Tab.get? p.banks (a / 32768) = some b ∧ x = b * 32768 + a % 32768) ∧
    (∀ a bs, p.spadOk a bs.length = true → Mem.wf ((s.spadWrite p a bs).core p.core).sram = true ∧ (s.spadWrite p a bs).spadRead p a bs.length = bs ∧
      (∀ x, (p.spad x).isSome = true → (x < a ∨ a + bs.length ≤ x) → (s.spadWrite p a bs).spadRead p x 1 = s.spadRead p x 1) ∧
      (s.spadWrite p a bs).home = s.home ∧ (s.spadWrite p a bs).waves = s.waves ∧
      (∀ k, k ≠ p.core → (s.spadWrite p a bs).core k = s.core k) ∧
      { (s.spadWrite p a bs).core p.core with sram := (s.core p.core).sram } = s.core p.core)

/-- Home memory and scratchpad: read after write, and every other byte. -/
def Obligations.Memories : Prop := Claim.HomeMemory ∧ Claim.Scratchpad

/-- R148, R276, R380, R389, R390 and the tables of Chapters 14 to 17: the state after reset. Nothing has booted, no wave is resident, every log is empty, every port is down, the caps of the mark tables and the limits of an interface
are those of the tables, and memory lists nothing. -/
def Obligations.ResetState : Prop :=
  let s := State.reset
  s.waves = [] ∧ (∀ c, (s.core c).log = [] ∧ (s.core c).mx.power = .idle ∧ (s.core c).mx.atype = .bf16 ∧ (s.core c).mx.btype = .bf16) ∧
  (∀ i, (s.port i).enable = false ∧ (s.port i).st = .down ∧ (s.port i).fails = 0) ∧
  (∀ t, (s.tract t).widecap = 512 ∧ (s.tract t).tractcap = 512 ∧ (s.tract t).sheetcap = 256 ∧ (s.tract t).share = 10) ∧
  (∀ v, (s.vi v).maxprio = 31 ∧ (s.vi v).haltlim = 2000 ∧ (s.vi v).spsize = 3 ∧ (s.vi v).enable = false ∧ (s.vi v).tlbinv = 0x8000000000000000#64) ∧
  (∀ q, (s.queue q).enable = false ∧ (s.queue q).head = 0 ∧ (s.queue q).tail = 0) ∧ (∀ n, (s.legend n).valid = false) ∧
  (∀ c z, ((s.core c).zone z).isOpen = false ∧ ((s.core c).zone z).granted = none) ∧ s.fabric.sync = false ∧ s.fabric.domup = false ∧
  s.poisonCmd = 0x8000000000000000#64 ∧ s.mgmt.limit = 3000 ∧ s.mgmt.duty = 16 ∧ s.mgmt.stage = 0 ∧ s.mgmt.powered = false ∧ s.home = [] ∧ s.MemWf

/-- The model's memories: home memory and the SRAM of every core, running or saved, stay in canonical form, whatever the step does. -/
def Obligations.StepKeepsMemory : Prop := ∀ (s t : State), s.MemWf → step s = .next t → t.MemWf
end

