-- ==== Sys2Proof/Laws/Memory.lean ====
section
/-!
SUPPORT. Memory: every write keeps the canonical form, reads back, and leaves every other byte alone.
-/
namespace Sys2Proof.Machine

/-- The address a lies above a bound. -/
def Mem.above (lo : Option Nat) (a : Nat) : Bool :=
  match lo with
  | none => true
  | some l => decide (l < a)

@[simp] theorem Mem.wfAbove_nil (lo : Option Nat) : Mem.wfAbove lo [] = true := by cases lo <;> rfl

theorem Mem.wfAbove_cons (lo : Option Nat) (k : Nat) (b : Byte) (t : List Host.Cell) :
    Mem.wfAbove lo ((k, b) :: t) = true ↔ Mem.above lo k = true ∧ b ≠ Config.emptyByte ∧ Mem.wfAbove (some k) t = true := by
  cases lo <;> simp [Mem.wfAbove, Mem.above, and_assoc]

/-- A form that lies above a bound lies above any lower one. -/
theorem Mem.wfAbove_mono {lo hi : Option Nat} {m : List Host.Cell} (h : Mem.wfAbove hi m = true)
    (hle : ∀ a, Mem.above hi a = true → Mem.above lo a = true) : Mem.wfAbove lo m = true := by
  cases m with
  | nil => simp
  | cons e t =>
    obtain ⟨k, b⟩ := e
    rw [Mem.wfAbove_cons] at h ⊢
    exact ⟨hle _ h.1, h.2⟩

/-- A byte below every entry reads as an unlisted one. -/
theorem Mem.read_of_above {lo : Nat} {m : List Host.Cell} (h : Mem.wfAbove (some lo) m = true) {a : Nat} (ha : a ≤ lo) :
    Mem.read m a = Config.emptyByte := by
  induction m generalizing lo with
  | nil => rfl
  | cons e t ih =>
    obtain ⟨k, b⟩ := e
    rw [Mem.wfAbove_cons] at h
    have hk : lo < k := by simpa [Mem.above] using h.1
    have : k ≠ a := by omega
    simp only [Mem.read, if_neg this]
    exact ih h.2.2 (by omega)

theorem Mem.write_wfAbove {lo : Option Nat} {m : List Host.Cell} (h : Mem.wfAbove lo m = true) {a : Nat}
    (ha : Mem.above lo a = true) (b : Byte) : Mem.wfAbove lo (Mem.write m a b) = true := by
  induction m generalizing lo with
  | nil =>
    unfold Mem.write
    split
    · simp
    · rename_i hb; rw [Mem.wfAbove_cons]; exact ⟨ha, hb, by simp⟩
  | cons e t ih =>
    obtain ⟨k, c⟩ := e
    have hc := (Mem.wfAbove_cons lo k c t).mp h
    unfold Mem.write
    split
    · rename_i hlt
      split
      · exact h
      · rename_i hb
        rw [Mem.wfAbove_cons, Mem.wfAbove_cons]
        exact ⟨ha, hb, by simpa [Mem.above] using hlt, hc.2⟩
    · split
      · rename_i hlt heq
        subst heq
        split
        · refine Mem.wfAbove_mono hc.2.2 (fun x hx => ?_)
          cases lo with
          | none => rfl
          | some l =>
            have h1 : l < a := by simpa [Mem.above] using ha
            have h2 : a < x := by simpa [Mem.above] using hx
            simp only [Mem.above, decide_eq_true_eq]; omega
        · rename_i hb; rw [Mem.wfAbove_cons]; exact ⟨ha, hb, hc.2.2⟩
      · rename_i hlt hne
        rw [Mem.wfAbove_cons]
        exact ⟨hc.1, hc.2.1, ih hc.2.2 (by simp only [Mem.above, decide_eq_true_eq]; omega)⟩

/-- A write of one byte keeps the canonical form. -/
theorem Mem.write_wf {m : List Host.Cell} (h : Mem.wf m = true) (a : Nat) (b : Byte) : Mem.wf (Mem.write m a b) = true :=
  Mem.write_wfAbove h rfl b

/-- A write of several bytes keeps the canonical form. -/
theorem Mem.writeN_wf {m : List Host.Cell} (h : Mem.wf m = true) (a : Nat) (bs : List Byte) : Mem.wf (Mem.writeN m a bs) = true := by
  induction bs generalizing m a with
  | nil => exact h
  | cons b t ih => exact ih (Mem.write_wf h a b) (a + 1)

/-- A write of a number keeps the canonical form. -/
theorem Mem.writeNat_wf {m : List Host.Cell} (h : Mem.wf m = true) (a n x : Nat) : Mem.wf (Mem.writeNat m a n x) = true :=
  Mem.writeN_wf h a _

theorem Mem.filter_wfAbove {lo : Option Nat} {m : List Host.Cell} (h : Mem.wfAbove lo m = true) (p : Host.Cell → Bool) :
    Mem.wfAbove lo (m.filter p) = true := by
  induction m generalizing lo with
  | nil => simp
  | cons e t ih =>
    obtain ⟨k, b⟩ := e
    have hc := (Mem.wfAbove_cons lo k b t).mp h
    by_cases hp : p (k, b) = true
    · rw [List.filter_cons_of_pos hp, Mem.wfAbove_cons]
      exact ⟨hc.1, hc.2.1, ih hc.2.2⟩
    · rw [List.filter_cons_of_neg hp]
      refine Mem.wfAbove_mono (ih hc.2.2) (fun x hx => ?_)
      cases lo with
      | none => rfl
      | some l =>
        have h1 : l < k := by simpa [Mem.above] using hc.1
        have h2 : k < x := by simpa [Mem.above] using hx
        simp only [Mem.above, decide_eq_true_eq]; omega

/-- Cells taken out of a memory leave the canonical form. -/
theorem Mem.filter_wf {m : List Host.Cell} (h : Mem.wf m = true) (p : Host.Cell → Bool) : Mem.wf (m.filter p) = true :=
  Mem.filter_wfAbove h p

/-- Zeroing keeps the canonical form. -/
theorem Mem.zero_wf {m : List Host.Cell} (h : Mem.wf m = true) (a n : Nat) : Mem.wf (Mem.zero m a n) = true := Mem.filter_wf h _

/-- A write leaves every other byte alone. -/
theorem Mem.read_write_ne (m : List Host.Cell) {a x : Nat} (b : Byte) (h : x ≠ a) : Mem.read (Mem.write m a b) x = Mem.read m x := by
  induction m with
  | nil =>
    unfold Mem.write
    split
    · rfl
    · simp [Mem.read, Ne.symm h]
  | cons e t ih =>
    obtain ⟨k, c⟩ := e
    unfold Mem.write
    split
    · split
      · rfl
      · simp [Mem.read, Ne.symm h]
    · split
      · rename_i heq
        subst heq
        split <;> simp [Mem.read, Ne.symm h]
      · simp only [Mem.read]
        rw [ih]

/-- A read after a write of the same byte. -/
theorem Mem.read_write_self {m : List Host.Cell} (h : Mem.wf m = true) (a : Nat) (b : Byte) : Mem.read (Mem.write m a b) a = b := by
  unfold Mem.wf at h
  generalize none = lo at h
  induction m generalizing lo with
  | nil =>
    unfold Mem.write
    split
    · rename_i hb; subst hb; rfl
    · simp [Mem.read]
  | cons e t ih =>
    obtain ⟨k, c⟩ := e
    have hc := (Mem.wfAbove_cons lo k c t).mp h
    unfold Mem.write
    split
    · rename_i hlt
      split
      · rename_i hb
        have : k ≠ a := by omega
        simp only [Mem.read, if_neg this]
        rw [Mem.read_of_above hc.2.2 (Nat.le_of_lt hlt), hb]
      · simp [Mem.read]
    · split
      · rename_i heq
        subst heq
        split
        · rename_i hb
          rw [Mem.read_of_above hc.2.2 (Nat.le_refl _), hb]
        · simp [Mem.read]
      · rename_i hne
        have : k ≠ a := fun e => hne e.symm
        simp only [Mem.read, if_neg this]
        exact ih _ hc.2.2

/-- A write of several bytes leaves the bytes outside alone. -/
theorem Mem.read_writeN_ne (m : List Host.Cell) (a : Nat) (bs : List Byte) {x : Nat} (h : x < a ∨ a + bs.length ≤ x) :
    Mem.read (Mem.writeN m a bs) x = Mem.read m x := by
  induction bs generalizing m a with
  | nil => rfl
  | cons b t ih =>
    simp only [List.length_cons] at h
    simp only [Mem.writeN]
    rw [ih _ _ (by omega), Mem.read_write_ne _ _ (by omega)]

/-- Reading what a write of several bytes left. -/
theorem Mem.readN_writeN_self {m : List Host.Cell} (h : Mem.wf m = true) (a : Nat) (bs : List Byte) :
    Mem.readN (Mem.writeN m a bs) a bs.length = bs := by
  induction bs generalizing m a with
  | nil => rfl
  | cons b t ih =>
    simp only [Mem.writeN, List.length_cons, Mem.readN]
    rw [Mem.read_writeN_ne _ _ _ (Or.inl (Nat.lt_succ_self a)), Mem.read_write_self h, ih (Mem.write_wf h a b)]

/-- Writing what an unlisted address reads as removes the entry. -/
theorem Mem.write_empty_absent {m : List Host.Cell} (h : Mem.wf m = true) (a : Nat) :
    ∀ e ∈ Mem.write m a Config.emptyByte, e.1 ≠ a := by
  unfold Mem.wf at h
  generalize none = lo at h
  induction m generalizing lo with
  | nil => simp [Mem.write]
  | cons e t ih =>
    obtain ⟨k, c⟩ := e
    have hc := (Mem.wfAbove_cons lo k c t).mp h
    have hup : ∀ (l : Nat) (u : List Host.Cell), Mem.wfAbove (some l) u = true → ∀ e ∈ u, l < e.1 := by
      intro l u
      induction u generalizing l with
      | nil => simp
      | cons y v ihu =>
        intro hu e he
        obtain ⟨j, d⟩ := y
        have hj := (Mem.wfAbove_cons (some l) j d v).mp hu
        have hlj : l < j := by simpa [Mem.above] using hj.1
        rcases List.mem_cons.mp he with rfl | he
        · exact hlj
        · exact Nat.lt_trans hlj (ihu j hj.2.2 e he)
    unfold Mem.write
    split
    · rename_i hlt
      intro e he
      simp only [if_true] at he
      rcases List.mem_cons.mp he with rfl | he
      · exact fun hk => absurd hlt (by simp only at hk; omega)
      · have := hup k t hc.2.2 e he; omega
    · split
      · rename_i heq
        subst heq
        intro e he
        simp only [if_true] at he
        have := hup a t hc.2.2 e he; omega
      · rename_i hne
        intro e he
        rcases List.mem_cons.mp he with rfl | he
        · exact fun hk => hne hk.symm
        · exact ih _ hc.2.2 e he

end Sys2Proof.Machine
end

