-- ==== Sys2Proof/Laws/Tab.lean ====
section
/-!
SUPPORT. What the operations on numbered tables do: reading after a write, a change or a removal.
-/
namespace Sys2Proof.Machine

variable {α : Type}

@[simp] theorem Tab.get?_nil (n : Nat) : Tab.get? ([] : List (Nat × α)) n = none := rfl

@[simp] theorem Tab.get?_cons (k : Nat) (v : α) (t : List (Nat × α)) (n : Nat) :
    Tab.get? ((k, v) :: t) n = if k = n then some v else Tab.get? t n := rfl

/-- Reading the entry just written. -/
@[simp] theorem Tab.get?_set_self (t : List (Nat × α)) (n : Nat) (a : α) : Tab.get? (Tab.set t n a) n = some a := by
  induction t with
  | nil => simp [Tab.set]
  | cons e t ih =>
    obtain ⟨k, v⟩ := e
    by_cases h : k = n <;> simp [Tab.set, h, ih]

/-- A write leaves every other entry alone. -/
@[simp] theorem Tab.get?_set_ne (t : List (Nat × α)) {n m : Nat} (a : α) (h : m ≠ n) : Tab.get? (Tab.set t n a) m = Tab.get? t m := by
  induction t with
  | nil => simp [Tab.set, Ne.symm h]
  | cons e t ih =>
    obtain ⟨k, v⟩ := e
    by_cases hk : k = n
    · subst hk; simp [Tab.set, Ne.symm h]
    · simp [Tab.set, hk, ih]

/-- Reading after a write, in one equation. -/
theorem Tab.get?_set (t : List (Nat × α)) (n m : Nat) (a : α) :
    Tab.get? (Tab.set t n a) m = if m = n then some a else Tab.get? t m := by
  by_cases h : m = n
  · subst h; simp
  · simp [h]

/-- A change of an entry that is present. -/
theorem Tab.modify_of_get {t : List (Nat × α)} {n : Nat} {a : α} (f : α → α) (h : Tab.get? t n = some a) :
    Tab.modify t n f = Tab.set t n (f a) := by simp [Tab.modify, h]

/-- A change of an entry that is missing. -/
theorem Tab.modify_of_none {t : List (Nat × α)} {n : Nat} (f : α → α) (h : Tab.get? t n = none) : Tab.modify t n f = t := by
  simp [Tab.modify, h]

/-- Reading the entry just changed. -/
@[simp] theorem Tab.get?_modify_self (t : List (Nat × α)) (n : Nat) (f : α → α) :
    Tab.get? (Tab.modify t n f) n = (Tab.get? t n).map f := by
  cases h : Tab.get? t n <;> simp [Tab.modify, h]

/-- A change leaves every other entry alone. -/
@[simp] theorem Tab.get?_modify_ne (t : List (Nat × α)) {n m : Nat} (f : α → α) (h : m ≠ n) :
    Tab.get? (Tab.modify t n f) m = Tab.get? t m := by
  cases e : Tab.get? t n <;> simp [Tab.modify, e, h]

/-- Two writes of one entry. -/
@[simp] theorem Tab.set_set (t : List (Nat × α)) (n : Nat) (a b : α) : Tab.set (Tab.set t n a) n b = Tab.set t n b := by
  induction t with
  | nil => simp [Tab.set]
  | cons e t ih =>
    obtain ⟨k, v⟩ := e
    by_cases h : k = n <;> simp [Tab.set, h, ih]

/-- Writing what stands there already. -/
theorem Tab.set_get {t : List (Nat × α)} {n : Nat} {a : α} (h : Tab.get? t n = some a) : Tab.set t n a = t := by
  induction t with
  | nil => simp at h
  | cons e t ih =>
    obtain ⟨k, v⟩ := e
    by_cases hk : k = n
    · subst hk; simp at h; simp [Tab.set, h]
    · simp [hk] at h; simp [Tab.set, hk, ih h]

/-- Two changes of one entry. -/
@[simp] theorem Tab.modify_modify (t : List (Nat × α)) (n : Nat) (f g : α → α) :
    Tab.modify (Tab.modify t n f) n g = Tab.modify t n (fun a => g (f a)) := by
  cases h : Tab.get? t n <;> simp [Tab.modify, h]

/-- Reading the entry just written, with a default. -/
@[simp] theorem Tab.getD_set_self (t : List (Nat × α)) (n : Nat) (a d : α) : Tab.getD (Tab.set t n a) n d = a := by simp [Tab.getD]

@[simp] theorem Tab.getD_set_ne (t : List (Nat × α)) {n m : Nat} (a d : α) (h : m ≠ n) :
    Tab.getD (Tab.set t n a) m d = Tab.getD t m d := by simp [Tab.getD, h]

/-- Reading the entry just changed, with a default. -/
@[simp] theorem Tab.getD_upd_self (t : List (Nat × α)) (n : Nat) (d : α) (f : α → α) :
    Tab.getD (Tab.upd t n d f) n d = f (Tab.getD t n d) := by simp [Tab.upd]

@[simp] theorem Tab.getD_upd_ne (t : List (Nat × α)) {n m : Nat} (d : α) (f : α → α) (h : m ≠ n) :
    Tab.getD (Tab.upd t n d f) m d = Tab.getD t m d := by simp [Tab.upd, h]

/-- Two changes of one entry with a default. -/
@[simp] theorem Tab.upd_upd (t : List (Nat × α)) (n : Nat) (d : α) (f g : α → α) :
    Tab.upd (Tab.upd t n d f) n d g = Tab.upd t n d (fun a => g (f a)) := by simp [Tab.upd]

/-- An entry of a changed table was written or stood there before. -/
theorem Tab.mem_set {t : List (Nat × α)} {n : Nat} {a : α} {e : Nat × α} (h : e ∈ Tab.set t n a) : e = (n, a) ∨ e ∈ t := by
  induction t with
  | nil => simpa [Tab.set] using h
  | cons x t ih =>
    obtain ⟨k, v⟩ := x
    by_cases hk : k = n
    · simp only [Tab.set, hk, if_true, List.mem_cons] at h
      rcases h with h | h
      · exact .inl h
      · exact .inr (List.mem_cons_of_mem _ h)
    · simp only [Tab.set, hk, if_false, List.mem_cons] at h
      rcases h with h | h
      · exact .inr (h ▸ List.mem_cons_self)
      · rcases ih h with h | h
        · exact .inl h
        · exact .inr (List.mem_cons_of_mem _ h)

/-- The entry that a table reads stands in it. -/
theorem Tab.mem_of_get {t : List (Nat × α)} {n : Nat} {a : α} (h : Tab.get? t n = some a) : (n, a) ∈ t := by
  induction t with
  | nil => simp at h
  | cons x t ih =>
    obtain ⟨k, v⟩ := x
    by_cases hk : k = n
    · subst hk; simp at h; simp [h]
    · simp [hk] at h; exact List.mem_cons_of_mem _ (ih h)

end Sys2Proof.Machine
end

