-- ==== Sys2Proof/Laws/State.lean ====
section
/-!
SUPPORT. What the updates of State do: each field after each update, and reading a part after a change of it.
-/
namespace Sys2Proof.Machine

variable (s : State)

/-! setWave changes waves alone. -/

@[simp] theorem State.setWave_cycle (k : Nat) (w : Wave) : (s.setWave k w).cycle = s.cycle := rfl
@[simp] theorem State.setWave_waves (k : Nat) (w : Wave) : (s.setWave k w).waves = Tab.set s.waves k w := rfl
@[simp] theorem State.setWave_cores (k : Nat) (w : Wave) : (s.setWave k w).cores = s.cores := rfl
@[simp] theorem State.setWave_parties (k : Nat) (w : Wave) : (s.setWave k w).parties = s.parties := rfl
@[simp] theorem State.setWave_launches (k : Nat) (w : Wave) : (s.setWave k w).launches = s.launches := rfl
@[simp] theorem State.setWave_home (k : Nat) (w : Wave) : (s.setWave k w).home = s.home := rfl
@[simp] theorem State.setWave_undef (k : Nat) (w : Wave) : (s.setWave k w).undef = s.undef := rfl
@[simp] theorem State.setWave_hist (k : Nat) (w : Wave) : (s.setWave k w).hist = s.hist := rfl
@[simp] theorem State.setWave_marks (k : Nat) (w : Wave) : (s.setWave k w).marks = s.marks := rfl
@[simp] theorem State.setWave_lastStamp (k : Nat) (w : Wave) : (s.setWave k w).lastStamp = s.lastStamp := rfl
@[simp] theorem State.setWave_placeModes (k : Nat) (w : Wave) : (s.setWave k w).placeModes = s.placeModes := rfl
@[simp] theorem State.setWave_ctxBytes (k : Nat) (w : Wave) : (s.setWave k w).ctxBytes = s.ctxBytes := rfl
@[simp] theorem State.setWave_poison (k : Nat) (w : Wave) : (s.setWave k w).poison = s.poison := rfl
@[simp] theorem State.setWave_poisonBase (k : Nat) (w : Wave) : (s.setWave k w).poisonBase = s.poisonBase := rfl
@[simp] theorem State.setWave_poisonCmd (k : Nat) (w : Wave) : (s.setWave k w).poisonCmd = s.poisonCmd := rfl
@[simp] theorem State.setWave_placeCmd (k : Nat) (w : Wave) : (s.setWave k w).placeCmd = s.placeCmd := rfl
@[simp] theorem State.setWave_queues (k : Nat) (w : Wave) : (s.setWave k w).queues = s.queues := rfl
@[simp] theorem State.setWave_vis (k : Nat) (w : Wave) : (s.setWave k w).vis = s.vis := rfl
@[simp] theorem State.setWave_regions (k : Nat) (w : Wave) : (s.setWave k w).regions = s.regions := rfl
@[simp] theorem State.setWave_worldleg (k : Nat) (w : Wave) : (s.setWave k w).worldleg = s.worldleg := rfl
@[simp] theorem State.setWave_ccWorld (k : Nat) (w : Wave) : (s.setWave k w).ccWorld = s.ccWorld := rfl
@[simp] theorem State.setWave_ccStart (k : Nat) (w : Wave) : (s.setWave k w).ccStart = s.ccStart := rfl
@[simp] theorem State.setWave_legends (k : Nat) (w : Wave) : (s.setWave k w).legends = s.legends := rfl
@[simp] theorem State.setWave_tracts (k : Nat) (w : Wave) : (s.setWave k w).tracts = s.tracts := rfl
@[simp] theorem State.setWave_wheelOwn (k : Nat) (w : Wave) : (s.setWave k w).wheelOwn = s.wheelOwn := rfl
@[simp] theorem State.setWave_ports (k : Nat) (w : Wave) : (s.setWave k w).ports = s.ports := rfl
@[simp] theorem State.setWave_fabric (k : Nat) (w : Wave) : (s.setWave k w).fabric = s.fabric := rfl
@[simp] theorem State.setWave_routes (k : Nat) (w : Wave) : (s.setWave k w).routes = s.routes := rfl
@[simp] theorem State.setWave_tagStore (k : Nat) (w : Wave) : (s.setWave k w).tagStore = s.tagStore := rfl
@[simp] theorem State.setWave_l2tlb (k : Nat) (w : Wave) : (s.setWave k w).l2tlb = s.l2tlb := rfl
@[simp] theorem State.setWave_recHeld (k : Nat) (w : Wave) : (s.setWave k w).recHeld = s.recHeld := rfl
@[simp] theorem State.setWave_atHeld (k : Nat) (w : Wave) : (s.setWave k w).atHeld = s.atHeld := rfl
@[simp] theorem State.setWave_fieldBook (k : Nat) (w : Wave) : (s.setWave k w).fieldBook = s.fieldBook := rfl
@[simp] theorem State.setWave_mgmt (k : Nat) (w : Wave) : (s.setWave k w).mgmt = s.mgmt := rfl
@[simp] theorem State.setWave_containers (k : Nat) (w : Wave) : (s.setWave k w).containers = s.containers := rfl
@[simp] theorem State.setWave_editions (k : Nat) (w : Wave) : (s.setWave k w).editions = s.editions := rfl
@[simp] theorem State.setWave_saved (k : Nat) (w : Wave) : (s.setWave k w).saved = s.saved := rfl
@[simp] theorem State.setWave_ckpts (k : Nat) (w : Wave) : (s.setWave k w).ckpts = s.ckpts := rfl
@[simp] theorem State.setWave_net (k : Nat) (w : Wave) : (s.setWave k w).net = s.net := rfl
@[simp] theorem State.setWave_resvs (k : Nat) (w : Wave) : (s.setWave k w).resvs = s.resvs := rfl
@[simp] theorem State.setWave_answers (k : Nat) (w : Wave) : (s.setWave k w).answers = s.answers := rfl
@[simp] theorem State.setWave_wire (k : Nat) (w : Wave) : (s.setWave k w).wire = s.wire := rfl
@[simp] theorem State.setWave_irqs (k : Nat) (w : Wave) : (s.setWave k w).irqs = s.irqs := rfl
@[simp] theorem State.setWave_replies (k : Nat) (w : Wave) : (s.setWave k w).replies = s.replies := rfl
@[simp] theorem State.setWave_cur (k : Nat) (w : Wave) : (s.setWave k w).cur = s.cur := rfl
@[simp] theorem State.setWave_slot (k : Nat) (w : Wave) : (s.setWave k w).slot = s.slot := rfl
@[simp] theorem State.setWave_ib (k : Nat) (w : Wave) : (s.setWave k w).ib = s.ib := rfl
@[simp] theorem State.setWave_pre (k : Nat) (w : Wave) : (s.setWave k w).pre = s.pre := rfl
@[simp] theorem State.setWave_agenda (k : Nat) (w : Wave) : (s.setWave k w).agenda = s.agenda := rfl
@[simp] theorem State.setWave_tape (k : Nat) (w : Wave) : (s.setWave k w).tape = s.tape := rfl
@[simp] theorem State.setWave_fresh (k : Nat) (w : Wave) : (s.setWave k w).fresh = s.fresh := rfl
@[simp] theorem State.setWave_nextId (k : Nat) (w : Wave) : (s.setWave k w).nextId = s.nextId := rfl
@[simp] theorem State.setWave_turn (k : Nat) (w : Wave) : (s.setWave k w).turn = s.turn := rfl
@[simp] theorem State.setWave_ccData (k : Nat) (w : Wave) : (s.setWave k w).ccData = s.ccData := rfl

/-! modWave changes waves alone. -/

@[simp] theorem State.modWave_cycle (k : Nat) (f : Wave → Wave) : (s.modWave k f).cycle = s.cycle := rfl
@[simp] theorem State.modWave_waves (k : Nat) (f : Wave → Wave) : (s.modWave k f).waves = Tab.modify s.waves k f := rfl
@[simp] theorem State.modWave_cores (k : Nat) (f : Wave → Wave) : (s.modWave k f).cores = s.cores := rfl
@[simp] theorem State.modWave_parties (k : Nat) (f : Wave → Wave) : (s.modWave k f).parties = s.parties := rfl
@[simp] theorem State.modWave_launches (k : Nat) (f : Wave → Wave) : (s.modWave k f).launches = s.launches := rfl
@[simp] theorem State.modWave_home (k : Nat) (f : Wave → Wave) : (s.modWave k f).home = s.home := rfl
@[simp] theorem State.modWave_undef (k : Nat) (f : Wave → Wave) : (s.modWave k f).undef = s.undef := rfl
@[simp] theorem State.modWave_hist (k : Nat) (f : Wave → Wave) : (s.modWave k f).hist = s.hist := rfl
@[simp] theorem State.modWave_marks (k : Nat) (f : Wave → Wave) : (s.modWave k f).marks = s.marks := rfl
@[simp] theorem State.modWave_lastStamp (k : Nat) (f : Wave → Wave) : (s.modWave k f).lastStamp = s.lastStamp := rfl
@[simp] theorem State.modWave_placeModes (k : Nat) (f : Wave → Wave) : (s.modWave k f).placeModes = s.placeModes := rfl
@[simp] theorem State.modWave_ctxBytes (k : Nat) (f : Wave → Wave) : (s.modWave k f).ctxBytes = s.ctxBytes := rfl
@[simp] theorem State.modWave_poison (k : Nat) (f : Wave → Wave) : (s.modWave k f).poison = s.poison := rfl
@[simp] theorem State.modWave_poisonBase (k : Nat) (f : Wave → Wave) : (s.modWave k f).poisonBase = s.poisonBase := rfl
@[simp] theorem State.modWave_poisonCmd (k : Nat) (f : Wave → Wave) : (s.modWave k f).poisonCmd = s.poisonCmd := rfl
@[simp] theorem State.modWave_placeCmd (k : Nat) (f : Wave → Wave) : (s.modWave k f).placeCmd = s.placeCmd := rfl
@[simp] theorem State.modWave_queues (k : Nat) (f : Wave → Wave) : (s.modWave k f).queues = s.queues := rfl
@[simp] theorem State.modWave_vis (k : Nat) (f : Wave → Wave) : (s.modWave k f).vis = s.vis := rfl
@[simp] theorem State.modWave_regions (k : Nat) (f : Wave → Wave) : (s.modWave k f).regions = s.regions := rfl
@[simp] theorem State.modWave_worldleg (k : Nat) (f : Wave → Wave) : (s.modWave k f).worldleg = s.worldleg := rfl
@[simp] theorem State.modWave_ccWorld (k : Nat) (f : Wave → Wave) : (s.modWave k f).ccWorld = s.ccWorld := rfl
@[simp] theorem State.modWave_ccStart (k : Nat) (f : Wave → Wave) : (s.modWave k f).ccStart = s.ccStart := rfl
@[simp] theorem State.modWave_legends (k : Nat) (f : Wave → Wave) : (s.modWave k f).legends = s.legends := rfl
@[simp] theorem State.modWave_tracts (k : Nat) (f : Wave → Wave) : (s.modWave k f).tracts = s.tracts := rfl
@[simp] theorem State.modWave_wheelOwn (k : Nat) (f : Wave → Wave) : (s.modWave k f).wheelOwn = s.wheelOwn := rfl
@[simp] theorem State.modWave_ports (k : Nat) (f : Wave → Wave) : (s.modWave k f).ports = s.ports := rfl
@[simp] theorem State.modWave_fabric (k : Nat) (f : Wave → Wave) : (s.modWave k f).fabric = s.fabric := rfl
@[simp] theorem State.modWave_routes (k : Nat) (f : Wave → Wave) : (s.modWave k f).routes = s.routes := rfl
@[simp] theorem State.modWave_tagStore (k : Nat) (f : Wave → Wave) : (s.modWave k f).tagStore = s.tagStore := rfl
@[simp] theorem State.modWave_l2tlb (k : Nat) (f : Wave → Wave) : (s.modWave k f).l2tlb = s.l2tlb := rfl
@[simp] theorem State.modWave_recHeld (k : Nat) (f : Wave → Wave) : (s.modWave k f).recHeld = s.recHeld := rfl
@[simp] theorem State.modWave_atHeld (k : Nat) (f : Wave → Wave) : (s.modWave k f).atHeld = s.atHeld := rfl
@[simp] theorem State.modWave_fieldBook (k : Nat) (f : Wave → Wave) : (s.modWave k f).fieldBook = s.fieldBook := rfl
@[simp] theorem State.modWave_mgmt (k : Nat) (f : Wave → Wave) : (s.modWave k f).mgmt = s.mgmt := rfl
@[simp] theorem State.modWave_containers (k : Nat) (f : Wave → Wave) : (s.modWave k f).containers = s.containers := rfl
@[simp] theorem State.modWave_editions (k : Nat) (f : Wave → Wave) : (s.modWave k f).editions = s.editions := rfl
@[simp] theorem State.modWave_saved (k : Nat) (f : Wave → Wave) : (s.modWave k f).saved = s.saved := rfl
@[simp] theorem State.modWave_ckpts (k : Nat) (f : Wave → Wave) : (s.modWave k f).ckpts = s.ckpts := rfl
@[simp] theorem State.modWave_net (k : Nat) (f : Wave → Wave) : (s.modWave k f).net = s.net := rfl
@[simp] theorem State.modWave_resvs (k : Nat) (f : Wave → Wave) : (s.modWave k f).resvs = s.resvs := rfl
@[simp] theorem State.modWave_answers (k : Nat) (f : Wave → Wave) : (s.modWave k f).answers = s.answers := rfl
@[simp] theorem State.modWave_wire (k : Nat) (f : Wave → Wave) : (s.modWave k f).wire = s.wire := rfl
@[simp] theorem State.modWave_irqs (k : Nat) (f : Wave → Wave) : (s.modWave k f).irqs = s.irqs := rfl
@[simp] theorem State.modWave_replies (k : Nat) (f : Wave → Wave) : (s.modWave k f).replies = s.replies := rfl
@[simp] theorem State.modWave_cur (k : Nat) (f : Wave → Wave) : (s.modWave k f).cur = s.cur := rfl
@[simp] theorem State.modWave_slot (k : Nat) (f : Wave → Wave) : (s.modWave k f).slot = s.slot := rfl
@[simp] theorem State.modWave_ib (k : Nat) (f : Wave → Wave) : (s.modWave k f).ib = s.ib := rfl
@[simp] theorem State.modWave_pre (k : Nat) (f : Wave → Wave) : (s.modWave k f).pre = s.pre := rfl
@[simp] theorem State.modWave_agenda (k : Nat) (f : Wave → Wave) : (s.modWave k f).agenda = s.agenda := rfl
@[simp] theorem State.modWave_tape (k : Nat) (f : Wave → Wave) : (s.modWave k f).tape = s.tape := rfl
@[simp] theorem State.modWave_fresh (k : Nat) (f : Wave → Wave) : (s.modWave k f).fresh = s.fresh := rfl
@[simp] theorem State.modWave_nextId (k : Nat) (f : Wave → Wave) : (s.modWave k f).nextId = s.nextId := rfl
@[simp] theorem State.modWave_turn (k : Nat) (f : Wave → Wave) : (s.modWave k f).turn = s.turn := rfl
@[simp] theorem State.modWave_ccData (k : Nat) (f : Wave → Wave) : (s.modWave k f).ccData = s.ccData := rfl

/-! dropWave changes waves alone. -/

@[simp] theorem State.dropWave_cycle (k : Nat) : (s.dropWave k).cycle = s.cycle := rfl
@[simp] theorem State.dropWave_waves (k : Nat) : (s.dropWave k).waves = Tab.erase s.waves k := rfl
@[simp] theorem State.dropWave_cores (k : Nat) : (s.dropWave k).cores = s.cores := rfl
@[simp] theorem State.dropWave_parties (k : Nat) : (s.dropWave k).parties = s.parties := rfl
@[simp] theorem State.dropWave_launches (k : Nat) : (s.dropWave k).launches = s.launches := rfl
@[simp] theorem State.dropWave_home (k : Nat) : (s.dropWave k).home = s.home := rfl
@[simp] theorem State.dropWave_undef (k : Nat) : (s.dropWave k).undef = s.undef := rfl
@[simp] theorem State.dropWave_hist (k : Nat) : (s.dropWave k).hist = s.hist := rfl
@[simp] theorem State.dropWave_marks (k : Nat) : (s.dropWave k).marks = s.marks := rfl
@[simp] theorem State.dropWave_lastStamp (k : Nat) : (s.dropWave k).lastStamp = s.lastStamp := rfl
@[simp] theorem State.dropWave_placeModes (k : Nat) : (s.dropWave k).placeModes = s.placeModes := rfl
@[simp] theorem State.dropWave_ctxBytes (k : Nat) : (s.dropWave k).ctxBytes = s.ctxBytes := rfl
@[simp] theorem State.dropWave_poison (k : Nat) : (s.dropWave k).poison = s.poison := rfl
@[simp] theorem State.dropWave_poisonBase (k : Nat) : (s.dropWave k).poisonBase = s.poisonBase := rfl
@[simp] theorem State.dropWave_poisonCmd (k : Nat) : (s.dropWave k).poisonCmd = s.poisonCmd := rfl
@[simp] theorem State.dropWave_placeCmd (k : Nat) : (s.dropWave k).placeCmd = s.placeCmd := rfl
@[simp] theorem State.dropWave_queues (k : Nat) : (s.dropWave k).queues = s.queues := rfl
@[simp] theorem State.dropWave_vis (k : Nat) : (s.dropWave k).vis = s.vis := rfl
@[simp] theorem State.dropWave_regions (k : Nat) : (s.dropWave k).regions = s.regions := rfl
@[simp] theorem State.dropWave_worldleg (k : Nat) : (s.dropWave k).worldleg = s.worldleg := rfl
@[simp] theorem State.dropWave_ccWorld (k : Nat) : (s.dropWave k).ccWorld = s.ccWorld := rfl
@[simp] theorem State.dropWave_ccStart (k : Nat) : (s.dropWave k).ccStart = s.ccStart := rfl
@[simp] theorem State.dropWave_legends (k : Nat) : (s.dropWave k).legends = s.legends := rfl
@[simp] theorem State.dropWave_tracts (k : Nat) : (s.dropWave k).tracts = s.tracts := rfl
@[simp] theorem State.dropWave_wheelOwn (k : Nat) : (s.dropWave k).wheelOwn = s.wheelOwn := rfl
@[simp] theorem State.dropWave_ports (k : Nat) : (s.dropWave k).ports = s.ports := rfl
@[simp] theorem State.dropWave_fabric (k : Nat) : (s.dropWave k).fabric = s.fabric := rfl
@[simp] theorem State.dropWave_routes (k : Nat) : (s.dropWave k).routes = s.routes := rfl
@[simp] theorem State.dropWave_tagStore (k : Nat) : (s.dropWave k).tagStore = s.tagStore := rfl
@[simp] theorem State.dropWave_l2tlb (k : Nat) : (s.dropWave k).l2tlb = s.l2tlb := rfl
@[simp] theorem State.dropWave_recHeld (k : Nat) : (s.dropWave k).recHeld = s.recHeld := rfl
@[simp] theorem State.dropWave_atHeld (k : Nat) : (s.dropWave k).atHeld = s.atHeld := rfl
@[simp] theorem State.dropWave_fieldBook (k : Nat) : (s.dropWave k).fieldBook = s.fieldBook := rfl
@[simp] theorem State.dropWave_mgmt (k : Nat) : (s.dropWave k).mgmt = s.mgmt := rfl
@[simp] theorem State.dropWave_containers (k : Nat) : (s.dropWave k).containers = s.containers := rfl
@[simp] theorem State.dropWave_editions (k : Nat) : (s.dropWave k).editions = s.editions := rfl
@[simp] theorem State.dropWave_saved (k : Nat) : (s.dropWave k).saved = s.saved := rfl
@[simp] theorem State.dropWave_ckpts (k : Nat) : (s.dropWave k).ckpts = s.ckpts := rfl
@[simp] theorem State.dropWave_net (k : Nat) : (s.dropWave k).net = s.net := rfl
@[simp] theorem State.dropWave_resvs (k : Nat) : (s.dropWave k).resvs = s.resvs := rfl
@[simp] theorem State.dropWave_answers (k : Nat) : (s.dropWave k).answers = s.answers := rfl
@[simp] theorem State.dropWave_wire (k : Nat) : (s.dropWave k).wire = s.wire := rfl
@[simp] theorem State.dropWave_irqs (k : Nat) : (s.dropWave k).irqs = s.irqs := rfl
@[simp] theorem State.dropWave_replies (k : Nat) : (s.dropWave k).replies = s.replies := rfl
@[simp] theorem State.dropWave_cur (k : Nat) : (s.dropWave k).cur = s.cur := rfl
@[simp] theorem State.dropWave_slot (k : Nat) : (s.dropWave k).slot = s.slot := rfl
@[simp] theorem State.dropWave_ib (k : Nat) : (s.dropWave k).ib = s.ib := rfl
@[simp] theorem State.dropWave_pre (k : Nat) : (s.dropWave k).pre = s.pre := rfl
@[simp] theorem State.dropWave_agenda (k : Nat) : (s.dropWave k).agenda = s.agenda := rfl
@[simp] theorem State.dropWave_tape (k : Nat) : (s.dropWave k).tape = s.tape := rfl
@[simp] theorem State.dropWave_fresh (k : Nat) : (s.dropWave k).fresh = s.fresh := rfl
@[simp] theorem State.dropWave_nextId (k : Nat) : (s.dropWave k).nextId = s.nextId := rfl
@[simp] theorem State.dropWave_turn (k : Nat) : (s.dropWave k).turn = s.turn := rfl
@[simp] theorem State.dropWave_ccData (k : Nat) : (s.dropWave k).ccData = s.ccData := rfl

/-! modCore changes cores alone. -/

@[simp] theorem State.modCore_cycle (k : Nat) (f : Core → Core) : (s.modCore k f).cycle = s.cycle := rfl
@[simp] theorem State.modCore_waves (k : Nat) (f : Core → Core) : (s.modCore k f).waves = s.waves := rfl
@[simp] theorem State.modCore_cores (k : Nat) (f : Core → Core) : (s.modCore k f).cores = Tab.upd s.cores k Core.reset f := rfl
@[simp] theorem State.modCore_parties (k : Nat) (f : Core → Core) : (s.modCore k f).parties = s.parties := rfl
@[simp] theorem State.modCore_launches (k : Nat) (f : Core → Core) : (s.modCore k f).launches = s.launches := rfl
@[simp] theorem State.modCore_home (k : Nat) (f : Core → Core) : (s.modCore k f).home = s.home := rfl
@[simp] theorem State.modCore_undef (k : Nat) (f : Core → Core) : (s.modCore k f).undef = s.undef := rfl
@[simp] theorem State.modCore_hist (k : Nat) (f : Core → Core) : (s.modCore k f).hist = s.hist := rfl
@[simp] theorem State.modCore_marks (k : Nat) (f : Core → Core) : (s.modCore k f).marks = s.marks := rfl
@[simp] theorem State.modCore_lastStamp (k : Nat) (f : Core → Core) : (s.modCore k f).lastStamp = s.lastStamp := rfl
@[simp] theorem State.modCore_placeModes (k : Nat) (f : Core → Core) : (s.modCore k f).placeModes = s.placeModes := rfl
@[simp] theorem State.modCore_ctxBytes (k : Nat) (f : Core → Core) : (s.modCore k f).ctxBytes = s.ctxBytes := rfl
@[simp] theorem State.modCore_poison (k : Nat) (f : Core → Core) : (s.modCore k f).poison = s.poison := rfl
@[simp] theorem State.modCore_poisonBase (k : Nat) (f : Core → Core) : (s.modCore k f).poisonBase = s.poisonBase := rfl
@[simp] theorem State.modCore_poisonCmd (k : Nat) (f : Core → Core) : (s.modCore k f).poisonCmd = s.poisonCmd := rfl
@[simp] theorem State.modCore_placeCmd (k : Nat) (f : Core → Core) : (s.modCore k f).placeCmd = s.placeCmd := rfl
@[simp] theorem State.modCore_queues (k : Nat) (f : Core → Core) : (s.modCore k f).queues = s.queues := rfl
@[simp] theorem State.modCore_vis (k : Nat) (f : Core → Core) : (s.modCore k f).vis = s.vis := rfl
@[simp] theorem State.modCore_regions (k : Nat) (f : Core → Core) : (s.modCore k f).regions = s.regions := rfl
@[simp] theorem State.modCore_worldleg (k : Nat) (f : Core → Core) : (s.modCore k f).worldleg = s.worldleg := rfl
@[simp] theorem State.modCore_ccWorld (k : Nat) (f : Core → Core) : (s.modCore k f).ccWorld = s.ccWorld := rfl
@[simp] theorem State.modCore_ccStart (k : Nat) (f : Core → Core) : (s.modCore k f).ccStart = s.ccStart := rfl
@[simp] theorem State.modCore_legends (k : Nat) (f : Core → Core) : (s.modCore k f).legends = s.legends := rfl
@[simp] theorem State.modCore_tracts (k : Nat) (f : Core → Core) : (s.modCore k f).tracts = s.tracts := rfl
@[simp] theorem State.modCore_wheelOwn (k : Nat) (f : Core → Core) : (s.modCore k f).wheelOwn = s.wheelOwn := rfl
@[simp] theorem State.modCore_ports (k : Nat) (f : Core → Core) : (s.modCore k f).ports = s.ports := rfl
@[simp] theorem State.modCore_fabric (k : Nat) (f : Core → Core) : (s.modCore k f).fabric = s.fabric := rfl
@[simp] theorem State.modCore_routes (k : Nat) (f : Core → Core) : (s.modCore k f).routes = s.routes := rfl
@[simp] theorem State.modCore_tagStore (k : Nat) (f : Core → Core) : (s.modCore k f).tagStore = s.tagStore := rfl
@[simp] theorem State.modCore_l2tlb (k : Nat) (f : Core → Core) : (s.modCore k f).l2tlb = s.l2tlb := rfl
@[simp] theorem State.modCore_recHeld (k : Nat) (f : Core → Core) : (s.modCore k f).recHeld = s.recHeld := rfl
@[simp] theorem State.modCore_atHeld (k : Nat) (f : Core → Core) : (s.modCore k f).atHeld = s.atHeld := rfl
@[simp] theorem State.modCore_fieldBook (k : Nat) (f : Core → Core) : (s.modCore k f).fieldBook = s.fieldBook := rfl
@[simp] theorem State.modCore_mgmt (k : Nat) (f : Core → Core) : (s.modCore k f).mgmt = s.mgmt := rfl
@[simp] theorem State.modCore_containers (k : Nat) (f : Core → Core) : (s.modCore k f).containers = s.containers := rfl
@[simp] theorem State.modCore_editions (k : Nat) (f : Core → Core) : (s.modCore k f).editions = s.editions := rfl
@[simp] theorem State.modCore_saved (k : Nat) (f : Core → Core) : (s.modCore k f).saved = s.saved := rfl
@[simp] theorem State.modCore_ckpts (k : Nat) (f : Core → Core) : (s.modCore k f).ckpts = s.ckpts := rfl
@[simp] theorem State.modCore_net (k : Nat) (f : Core → Core) : (s.modCore k f).net = s.net := rfl
@[simp] theorem State.modCore_resvs (k : Nat) (f : Core → Core) : (s.modCore k f).resvs = s.resvs := rfl
@[simp] theorem State.modCore_answers (k : Nat) (f : Core → Core) : (s.modCore k f).answers = s.answers := rfl
@[simp] theorem State.modCore_wire (k : Nat) (f : Core → Core) : (s.modCore k f).wire = s.wire := rfl
@[simp] theorem State.modCore_irqs (k : Nat) (f : Core → Core) : (s.modCore k f).irqs = s.irqs := rfl
@[simp] theorem State.modCore_replies (k : Nat) (f : Core → Core) : (s.modCore k f).replies = s.replies := rfl
@[simp] theorem State.modCore_cur (k : Nat) (f : Core → Core) : (s.modCore k f).cur = s.cur := rfl
@[simp] theorem State.modCore_slot (k : Nat) (f : Core → Core) : (s.modCore k f).slot = s.slot := rfl
@[simp] theorem State.modCore_ib (k : Nat) (f : Core → Core) : (s.modCore k f).ib = s.ib := rfl
@[simp] theorem State.modCore_pre (k : Nat) (f : Core → Core) : (s.modCore k f).pre = s.pre := rfl
@[simp] theorem State.modCore_agenda (k : Nat) (f : Core → Core) : (s.modCore k f).agenda = s.agenda := rfl
@[simp] theorem State.modCore_tape (k : Nat) (f : Core → Core) : (s.modCore k f).tape = s.tape := rfl
@[simp] theorem State.modCore_fresh (k : Nat) (f : Core → Core) : (s.modCore k f).fresh = s.fresh := rfl
@[simp] theorem State.modCore_nextId (k : Nat) (f : Core → Core) : (s.modCore k f).nextId = s.nextId := rfl
@[simp] theorem State.modCore_turn (k : Nat) (f : Core → Core) : (s.modCore k f).turn = s.turn := rfl
@[simp] theorem State.modCore_ccData (k : Nat) (f : Core → Core) : (s.modCore k f).ccData = s.ccData := rfl

/-! modParty changes parties alone. -/

@[simp] theorem State.modParty_cycle (k : Nat) (f : Party → Party) : (s.modParty k f).cycle = s.cycle := rfl
@[simp] theorem State.modParty_waves (k : Nat) (f : Party → Party) : (s.modParty k f).waves = s.waves := rfl
@[simp] theorem State.modParty_cores (k : Nat) (f : Party → Party) : (s.modParty k f).cores = s.cores := rfl
@[simp] theorem State.modParty_parties (k : Nat) (f : Party → Party) : (s.modParty k f).parties = Tab.modify s.parties k f := rfl
@[simp] theorem State.modParty_launches (k : Nat) (f : Party → Party) : (s.modParty k f).launches = s.launches := rfl
@[simp] theorem State.modParty_home (k : Nat) (f : Party → Party) : (s.modParty k f).home = s.home := rfl
@[simp] theorem State.modParty_undef (k : Nat) (f : Party → Party) : (s.modParty k f).undef = s.undef := rfl
@[simp] theorem State.modParty_hist (k : Nat) (f : Party → Party) : (s.modParty k f).hist = s.hist := rfl
@[simp] theorem State.modParty_marks (k : Nat) (f : Party → Party) : (s.modParty k f).marks = s.marks := rfl
@[simp] theorem State.modParty_lastStamp (k : Nat) (f : Party → Party) : (s.modParty k f).lastStamp = s.lastStamp := rfl
@[simp] theorem State.modParty_placeModes (k : Nat) (f : Party → Party) : (s.modParty k f).placeModes = s.placeModes := rfl
@[simp] theorem State.modParty_ctxBytes (k : Nat) (f : Party → Party) : (s.modParty k f).ctxBytes = s.ctxBytes := rfl
@[simp] theorem State.modParty_poison (k : Nat) (f : Party → Party) : (s.modParty k f).poison = s.poison := rfl
@[simp] theorem State.modParty_poisonBase (k : Nat) (f : Party → Party) : (s.modParty k f).poisonBase = s.poisonBase := rfl
@[simp] theorem State.modParty_poisonCmd (k : Nat) (f : Party → Party) : (s.modParty k f).poisonCmd = s.poisonCmd := rfl
@[simp] theorem State.modParty_placeCmd (k : Nat) (f : Party → Party) : (s.modParty k f).placeCmd = s.placeCmd := rfl
@[simp] theorem State.modParty_queues (k : Nat) (f : Party → Party) : (s.modParty k f).queues = s.queues := rfl
@[simp] theorem State.modParty_vis (k : Nat) (f : Party → Party) : (s.modParty k f).vis = s.vis := rfl
@[simp] theorem State.modParty_regions (k : Nat) (f : Party → Party) : (s.modParty k f).regions = s.regions := rfl
@[simp] theorem State.modParty_worldleg (k : Nat) (f : Party → Party) : (s.modParty k f).worldleg = s.worldleg := rfl
@[simp] theorem State.modParty_ccWorld (k : Nat) (f : Party → Party) : (s.modParty k f).ccWorld = s.ccWorld := rfl
@[simp] theorem State.modParty_ccStart (k : Nat) (f : Party → Party) : (s.modParty k f).ccStart = s.ccStart := rfl
@[simp] theorem State.modParty_legends (k : Nat) (f : Party → Party) : (s.modParty k f).legends = s.legends := rfl
@[simp] theorem State.modParty_tracts (k : Nat) (f : Party → Party) : (s.modParty k f).tracts = s.tracts := rfl
@[simp] theorem State.modParty_wheelOwn (k : Nat) (f : Party → Party) : (s.modParty k f).wheelOwn = s.wheelOwn := rfl
@[simp] theorem State.modParty_ports (k : Nat) (f : Party → Party) : (s.modParty k f).ports = s.ports := rfl
@[simp] theorem State.modParty_fabric (k : Nat) (f : Party → Party) : (s.modParty k f).fabric = s.fabric := rfl
@[simp] theorem State.modParty_routes (k : Nat) (f : Party → Party) : (s.modParty k f).routes = s.routes := rfl
@[simp] theorem State.modParty_tagStore (k : Nat) (f : Party → Party) : (s.modParty k f).tagStore = s.tagStore := rfl
@[simp] theorem State.modParty_l2tlb (k : Nat) (f : Party → Party) : (s.modParty k f).l2tlb = s.l2tlb := rfl
@[simp] theorem State.modParty_recHeld (k : Nat) (f : Party → Party) : (s.modParty k f).recHeld = s.recHeld := rfl
@[simp] theorem State.modParty_atHeld (k : Nat) (f : Party → Party) : (s.modParty k f).atHeld = s.atHeld := rfl
@[simp] theorem State.modParty_fieldBook (k : Nat) (f : Party → Party) : (s.modParty k f).fieldBook = s.fieldBook := rfl
@[simp] theorem State.modParty_mgmt (k : Nat) (f : Party → Party) : (s.modParty k f).mgmt = s.mgmt := rfl
@[simp] theorem State.modParty_containers (k : Nat) (f : Party → Party) : (s.modParty k f).containers = s.containers := rfl
@[simp] theorem State.modParty_editions (k : Nat) (f : Party → Party) : (s.modParty k f).editions = s.editions := rfl
@[simp] theorem State.modParty_saved (k : Nat) (f : Party → Party) : (s.modParty k f).saved = s.saved := rfl
@[simp] theorem State.modParty_ckpts (k : Nat) (f : Party → Party) : (s.modParty k f).ckpts = s.ckpts := rfl
@[simp] theorem State.modParty_net (k : Nat) (f : Party → Party) : (s.modParty k f).net = s.net := rfl
@[simp] theorem State.modParty_resvs (k : Nat) (f : Party → Party) : (s.modParty k f).resvs = s.resvs := rfl
@[simp] theorem State.modParty_answers (k : Nat) (f : Party → Party) : (s.modParty k f).answers = s.answers := rfl
@[simp] theorem State.modParty_wire (k : Nat) (f : Party → Party) : (s.modParty k f).wire = s.wire := rfl
@[simp] theorem State.modParty_irqs (k : Nat) (f : Party → Party) : (s.modParty k f).irqs = s.irqs := rfl
@[simp] theorem State.modParty_replies (k : Nat) (f : Party → Party) : (s.modParty k f).replies = s.replies := rfl
@[simp] theorem State.modParty_cur (k : Nat) (f : Party → Party) : (s.modParty k f).cur = s.cur := rfl
@[simp] theorem State.modParty_slot (k : Nat) (f : Party → Party) : (s.modParty k f).slot = s.slot := rfl
@[simp] theorem State.modParty_ib (k : Nat) (f : Party → Party) : (s.modParty k f).ib = s.ib := rfl
@[simp] theorem State.modParty_pre (k : Nat) (f : Party → Party) : (s.modParty k f).pre = s.pre := rfl
@[simp] theorem State.modParty_agenda (k : Nat) (f : Party → Party) : (s.modParty k f).agenda = s.agenda := rfl
@[simp] theorem State.modParty_tape (k : Nat) (f : Party → Party) : (s.modParty k f).tape = s.tape := rfl
@[simp] theorem State.modParty_fresh (k : Nat) (f : Party → Party) : (s.modParty k f).fresh = s.fresh := rfl
@[simp] theorem State.modParty_nextId (k : Nat) (f : Party → Party) : (s.modParty k f).nextId = s.nextId := rfl
@[simp] theorem State.modParty_turn (k : Nat) (f : Party → Party) : (s.modParty k f).turn = s.turn := rfl
@[simp] theorem State.modParty_ccData (k : Nat) (f : Party → Party) : (s.modParty k f).ccData = s.ccData := rfl

/-! modLaunch changes launches alone. -/

@[simp] theorem State.modLaunch_cycle (k : Nat) (f : Launch → Launch) : (s.modLaunch k f).cycle = s.cycle := rfl
@[simp] theorem State.modLaunch_waves (k : Nat) (f : Launch → Launch) : (s.modLaunch k f).waves = s.waves := rfl
@[simp] theorem State.modLaunch_cores (k : Nat) (f : Launch → Launch) : (s.modLaunch k f).cores = s.cores := rfl
@[simp] theorem State.modLaunch_parties (k : Nat) (f : Launch → Launch) : (s.modLaunch k f).parties = s.parties := rfl
@[simp] theorem State.modLaunch_launches (k : Nat) (f : Launch → Launch) : (s.modLaunch k f).launches = Tab.modify s.launches k f := rfl
@[simp] theorem State.modLaunch_home (k : Nat) (f : Launch → Launch) : (s.modLaunch k f).home = s.home := rfl
@[simp] theorem State.modLaunch_undef (k : Nat) (f : Launch → Launch) : (s.modLaunch k f).undef = s.undef := rfl
@[simp] theorem State.modLaunch_hist (k : Nat) (f : Launch → Launch) : (s.modLaunch k f).hist = s.hist := rfl
@[simp] theorem State.modLaunch_marks (k : Nat) (f : Launch → Launch) : (s.modLaunch k f).marks = s.marks := rfl
@[simp] theorem State.modLaunch_lastStamp (k : Nat) (f : Launch → Launch) : (s.modLaunch k f).lastStamp = s.lastStamp := rfl
@[simp] theorem State.modLaunch_placeModes (k : Nat) (f : Launch → Launch) : (s.modLaunch k f).placeModes = s.placeModes := rfl
@[simp] theorem State.modLaunch_ctxBytes (k : Nat) (f : Launch → Launch) : (s.modLaunch k f).ctxBytes = s.ctxBytes := rfl
@[simp] theorem State.modLaunch_poison (k : Nat) (f : Launch → Launch) : (s.modLaunch k f).poison = s.poison := rfl
@[simp] theorem State.modLaunch_poisonBase (k : Nat) (f : Launch → Launch) : (s.modLaunch k f).poisonBase = s.poisonBase := rfl
@[simp] theorem State.modLaunch_poisonCmd (k : Nat) (f : Launch → Launch) : (s.modLaunch k f).poisonCmd = s.poisonCmd := rfl
@[simp] theorem State.modLaunch_placeCmd (k : Nat) (f : Launch → Launch) : (s.modLaunch k f).placeCmd = s.placeCmd := rfl
@[simp] theorem State.modLaunch_queues (k : Nat) (f : Launch → Launch) : (s.modLaunch k f).queues = s.queues := rfl
@[simp] theorem State.modLaunch_vis (k : Nat) (f : Launch → Launch) : (s.modLaunch k f).vis = s.vis := rfl
@[simp] theorem State.modLaunch_regions (k : Nat) (f : Launch → Launch) : (s.modLaunch k f).regions = s.regions := rfl
@[simp] theorem State.modLaunch_worldleg (k : Nat) (f : Launch → Launch) : (s.modLaunch k f).worldleg = s.worldleg := rfl
@[simp] theorem State.modLaunch_ccWorld (k : Nat) (f : Launch → Launch) : (s.modLaunch k f).ccWorld = s.ccWorld := rfl
@[simp] theorem State.modLaunch_ccStart (k : Nat) (f : Launch → Launch) : (s.modLaunch k f).ccStart = s.ccStart := rfl
@[simp] theorem State.modLaunch_legends (k : Nat) (f : Launch → Launch) : (s.modLaunch k f).legends = s.legends := rfl
@[simp] theorem State.modLaunch_tracts (k : Nat) (f : Launch → Launch) : (s.modLaunch k f).tracts = s.tracts := rfl
@[simp] theorem State.modLaunch_wheelOwn (k : Nat) (f : Launch → Launch) : (s.modLaunch k f).wheelOwn = s.wheelOwn := rfl
@[simp] theorem State.modLaunch_ports (k : Nat) (f : Launch → Launch) : (s.modLaunch k f).ports = s.ports := rfl
@[simp] theorem State.modLaunch_fabric (k : Nat) (f : Launch → Launch) : (s.modLaunch k f).fabric = s.fabric := rfl
@[simp] theorem State.modLaunch_routes (k : Nat) (f : Launch → Launch) : (s.modLaunch k f).routes = s.routes := rfl
@[simp] theorem State.modLaunch_tagStore (k : Nat) (f : Launch → Launch) : (s.modLaunch k f).tagStore = s.tagStore := rfl
@[simp] theorem State.modLaunch_l2tlb (k : Nat) (f : Launch → Launch) : (s.modLaunch k f).l2tlb = s.l2tlb := rfl
@[simp] theorem State.modLaunch_recHeld (k : Nat) (f : Launch → Launch) : (s.modLaunch k f).recHeld = s.recHeld := rfl
@[simp] theorem State.modLaunch_atHeld (k : Nat) (f : Launch → Launch) : (s.modLaunch k f).atHeld = s.atHeld := rfl
@[simp] theorem State.modLaunch_fieldBook (k : Nat) (f : Launch → Launch) : (s.modLaunch k f).fieldBook = s.fieldBook := rfl
@[simp] theorem State.modLaunch_mgmt (k : Nat) (f : Launch → Launch) : (s.modLaunch k f).mgmt = s.mgmt := rfl
@[simp] theorem State.modLaunch_containers (k : Nat) (f : Launch → Launch) : (s.modLaunch k f).containers = s.containers := rfl
@[simp] theorem State.modLaunch_editions (k : Nat) (f : Launch → Launch) : (s.modLaunch k f).editions = s.editions := rfl
@[simp] theorem State.modLaunch_saved (k : Nat) (f : Launch → Launch) : (s.modLaunch k f).saved = s.saved := rfl
@[simp] theorem State.modLaunch_ckpts (k : Nat) (f : Launch → Launch) : (s.modLaunch k f).ckpts = s.ckpts := rfl
@[simp] theorem State.modLaunch_net (k : Nat) (f : Launch → Launch) : (s.modLaunch k f).net = s.net := rfl
@[simp] theorem State.modLaunch_resvs (k : Nat) (f : Launch → Launch) : (s.modLaunch k f).resvs = s.resvs := rfl
@[simp] theorem State.modLaunch_answers (k : Nat) (f : Launch → Launch) : (s.modLaunch k f).answers = s.answers := rfl
@[simp] theorem State.modLaunch_wire (k : Nat) (f : Launch → Launch) : (s.modLaunch k f).wire = s.wire := rfl
@[simp] theorem State.modLaunch_irqs (k : Nat) (f : Launch → Launch) : (s.modLaunch k f).irqs = s.irqs := rfl
@[simp] theorem State.modLaunch_replies (k : Nat) (f : Launch → Launch) : (s.modLaunch k f).replies = s.replies := rfl
@[simp] theorem State.modLaunch_cur (k : Nat) (f : Launch → Launch) : (s.modLaunch k f).cur = s.cur := rfl
@[simp] theorem State.modLaunch_slot (k : Nat) (f : Launch → Launch) : (s.modLaunch k f).slot = s.slot := rfl
@[simp] theorem State.modLaunch_ib (k : Nat) (f : Launch → Launch) : (s.modLaunch k f).ib = s.ib := rfl
@[simp] theorem State.modLaunch_pre (k : Nat) (f : Launch → Launch) : (s.modLaunch k f).pre = s.pre := rfl
@[simp] theorem State.modLaunch_agenda (k : Nat) (f : Launch → Launch) : (s.modLaunch k f).agenda = s.agenda := rfl
@[simp] theorem State.modLaunch_tape (k : Nat) (f : Launch → Launch) : (s.modLaunch k f).tape = s.tape := rfl
@[simp] theorem State.modLaunch_fresh (k : Nat) (f : Launch → Launch) : (s.modLaunch k f).fresh = s.fresh := rfl
@[simp] theorem State.modLaunch_nextId (k : Nat) (f : Launch → Launch) : (s.modLaunch k f).nextId = s.nextId := rfl
@[simp] theorem State.modLaunch_turn (k : Nat) (f : Launch → Launch) : (s.modLaunch k f).turn = s.turn := rfl
@[simp] theorem State.modLaunch_ccData (k : Nat) (f : Launch → Launch) : (s.modLaunch k f).ccData = s.ccData := rfl

/-! modQueue changes queues alone. -/

@[simp] theorem State.modQueue_cycle (k : Nat) (f : WQueue → WQueue) : (s.modQueue k f).cycle = s.cycle := rfl
@[simp] theorem State.modQueue_waves (k : Nat) (f : WQueue → WQueue) : (s.modQueue k f).waves = s.waves := rfl
@[simp] theorem State.modQueue_cores (k : Nat) (f : WQueue → WQueue) : (s.modQueue k f).cores = s.cores := rfl
@[simp] theorem State.modQueue_parties (k : Nat) (f : WQueue → WQueue) : (s.modQueue k f).parties = s.parties := rfl
@[simp] theorem State.modQueue_launches (k : Nat) (f : WQueue → WQueue) : (s.modQueue k f).launches = s.launches := rfl
@[simp] theorem State.modQueue_home (k : Nat) (f : WQueue → WQueue) : (s.modQueue k f).home = s.home := rfl
@[simp] theorem State.modQueue_undef (k : Nat) (f : WQueue → WQueue) : (s.modQueue k f).undef = s.undef := rfl
@[simp] theorem State.modQueue_hist (k : Nat) (f : WQueue → WQueue) : (s.modQueue k f).hist = s.hist := rfl
@[simp] theorem State.modQueue_marks (k : Nat) (f : WQueue → WQueue) : (s.modQueue k f).marks = s.marks := rfl
@[simp] theorem State.modQueue_lastStamp (k : Nat) (f : WQueue → WQueue) : (s.modQueue k f).lastStamp = s.lastStamp := rfl
@[simp] theorem State.modQueue_placeModes (k : Nat) (f : WQueue → WQueue) : (s.modQueue k f).placeModes = s.placeModes := rfl
@[simp] theorem State.modQueue_ctxBytes (k : Nat) (f : WQueue → WQueue) : (s.modQueue k f).ctxBytes = s.ctxBytes := rfl
@[simp] theorem State.modQueue_poison (k : Nat) (f : WQueue → WQueue) : (s.modQueue k f).poison = s.poison := rfl
@[simp] theorem State.modQueue_poisonBase (k : Nat) (f : WQueue → WQueue) : (s.modQueue k f).poisonBase = s.poisonBase := rfl
@[simp] theorem State.modQueue_poisonCmd (k : Nat) (f : WQueue → WQueue) : (s.modQueue k f).poisonCmd = s.poisonCmd := rfl
@[simp] theorem State.modQueue_placeCmd (k : Nat) (f : WQueue → WQueue) : (s.modQueue k f).placeCmd = s.placeCmd := rfl
@[simp] theorem State.modQueue_queues (k : Nat) (f : WQueue → WQueue) : (s.modQueue k f).queues = Tab.upd s.queues k WQueue.reset f := rfl
@[simp] theorem State.modQueue_vis (k : Nat) (f : WQueue → WQueue) : (s.modQueue k f).vis = s.vis := rfl
@[simp] theorem State.modQueue_regions (k : Nat) (f : WQueue → WQueue) : (s.modQueue k f).regions = s.regions := rfl
@[simp] theorem State.modQueue_worldleg (k : Nat) (f : WQueue → WQueue) : (s.modQueue k f).worldleg = s.worldleg := rfl
@[simp] theorem State.modQueue_ccWorld (k : Nat) (f : WQueue → WQueue) : (s.modQueue k f).ccWorld = s.ccWorld := rfl
@[simp] theorem State.modQueue_ccStart (k : Nat) (f : WQueue → WQueue) : (s.modQueue k f).ccStart = s.ccStart := rfl
@[simp] theorem State.modQueue_legends (k : Nat) (f : WQueue → WQueue) : (s.modQueue k f).legends = s.legends := rfl
@[simp] theorem State.modQueue_tracts (k : Nat) (f : WQueue → WQueue) : (s.modQueue k f).tracts = s.tracts := rfl
@[simp] theorem State.modQueue_wheelOwn (k : Nat) (f : WQueue → WQueue) : (s.modQueue k f).wheelOwn = s.wheelOwn := rfl
@[simp] theorem State.modQueue_ports (k : Nat) (f : WQueue → WQueue) : (s.modQueue k f).ports = s.ports := rfl
@[simp] theorem State.modQueue_fabric (k : Nat) (f : WQueue → WQueue) : (s.modQueue k f).fabric = s.fabric := rfl
@[simp] theorem State.modQueue_routes (k : Nat) (f : WQueue → WQueue) : (s.modQueue k f).routes = s.routes := rfl
@[simp] theorem State.modQueue_tagStore (k : Nat) (f : WQueue → WQueue) : (s.modQueue k f).tagStore = s.tagStore := rfl
@[simp] theorem State.modQueue_l2tlb (k : Nat) (f : WQueue → WQueue) : (s.modQueue k f).l2tlb = s.l2tlb := rfl
@[simp] theorem State.modQueue_recHeld (k : Nat) (f : WQueue → WQueue) : (s.modQueue k f).recHeld = s.recHeld := rfl
@[simp] theorem State.modQueue_atHeld (k : Nat) (f : WQueue → WQueue) : (s.modQueue k f).atHeld = s.atHeld := rfl
@[simp] theorem State.modQueue_fieldBook (k : Nat) (f : WQueue → WQueue) : (s.modQueue k f).fieldBook = s.fieldBook := rfl
@[simp] theorem State.modQueue_mgmt (k : Nat) (f : WQueue → WQueue) : (s.modQueue k f).mgmt = s.mgmt := rfl
@[simp] theorem State.modQueue_containers (k : Nat) (f : WQueue → WQueue) : (s.modQueue k f).containers = s.containers := rfl
@[simp] theorem State.modQueue_editions (k : Nat) (f : WQueue → WQueue) : (s.modQueue k f).editions = s.editions := rfl
@[simp] theorem State.modQueue_saved (k : Nat) (f : WQueue → WQueue) : (s.modQueue k f).saved = s.saved := rfl
@[simp] theorem State.modQueue_ckpts (k : Nat) (f : WQueue → WQueue) : (s.modQueue k f).ckpts = s.ckpts := rfl
@[simp] theorem State.modQueue_net (k : Nat) (f : WQueue → WQueue) : (s.modQueue k f).net = s.net := rfl
@[simp] theorem State.modQueue_resvs (k : Nat) (f : WQueue → WQueue) : (s.modQueue k f).resvs = s.resvs := rfl
@[simp] theorem State.modQueue_answers (k : Nat) (f : WQueue → WQueue) : (s.modQueue k f).answers = s.answers := rfl
@[simp] theorem State.modQueue_wire (k : Nat) (f : WQueue → WQueue) : (s.modQueue k f).wire = s.wire := rfl
@[simp] theorem State.modQueue_irqs (k : Nat) (f : WQueue → WQueue) : (s.modQueue k f).irqs = s.irqs := rfl
@[simp] theorem State.modQueue_replies (k : Nat) (f : WQueue → WQueue) : (s.modQueue k f).replies = s.replies := rfl
@[simp] theorem State.modQueue_cur (k : Nat) (f : WQueue → WQueue) : (s.modQueue k f).cur = s.cur := rfl
@[simp] theorem State.modQueue_slot (k : Nat) (f : WQueue → WQueue) : (s.modQueue k f).slot = s.slot := rfl
@[simp] theorem State.modQueue_ib (k : Nat) (f : WQueue → WQueue) : (s.modQueue k f).ib = s.ib := rfl
@[simp] theorem State.modQueue_pre (k : Nat) (f : WQueue → WQueue) : (s.modQueue k f).pre = s.pre := rfl
@[simp] theorem State.modQueue_agenda (k : Nat) (f : WQueue → WQueue) : (s.modQueue k f).agenda = s.agenda := rfl
@[simp] theorem State.modQueue_tape (k : Nat) (f : WQueue → WQueue) : (s.modQueue k f).tape = s.tape := rfl
@[simp] theorem State.modQueue_fresh (k : Nat) (f : WQueue → WQueue) : (s.modQueue k f).fresh = s.fresh := rfl
@[simp] theorem State.modQueue_nextId (k : Nat) (f : WQueue → WQueue) : (s.modQueue k f).nextId = s.nextId := rfl
@[simp] theorem State.modQueue_turn (k : Nat) (f : WQueue → WQueue) : (s.modQueue k f).turn = s.turn := rfl
@[simp] theorem State.modQueue_ccData (k : Nat) (f : WQueue → WQueue) : (s.modQueue k f).ccData = s.ccData := rfl

/-! modVi changes vis alone. -/

@[simp] theorem State.modVi_cycle (k : Nat) (f : Vi → Vi) : (s.modVi k f).cycle = s.cycle := rfl
@[simp] theorem State.modVi_waves (k : Nat) (f : Vi → Vi) : (s.modVi k f).waves = s.waves := rfl
@[simp] theorem State.modVi_cores (k : Nat) (f : Vi → Vi) : (s.modVi k f).cores = s.cores := rfl
@[simp] theorem State.modVi_parties (k : Nat) (f : Vi → Vi) : (s.modVi k f).parties = s.parties := rfl
@[simp] theorem State.modVi_launches (k : Nat) (f : Vi → Vi) : (s.modVi k f).launches = s.launches := rfl
@[simp] theorem State.modVi_home (k : Nat) (f : Vi → Vi) : (s.modVi k f).home = s.home := rfl
@[simp] theorem State.modVi_undef (k : Nat) (f : Vi → Vi) : (s.modVi k f).undef = s.undef := rfl
@[simp] theorem State.modVi_hist (k : Nat) (f : Vi → Vi) : (s.modVi k f).hist = s.hist := rfl
@[simp] theorem State.modVi_marks (k : Nat) (f : Vi → Vi) : (s.modVi k f).marks = s.marks := rfl
@[simp] theorem State.modVi_lastStamp (k : Nat) (f : Vi → Vi) : (s.modVi k f).lastStamp = s.lastStamp := rfl
@[simp] theorem State.modVi_placeModes (k : Nat) (f : Vi → Vi) : (s.modVi k f).placeModes = s.placeModes := rfl
@[simp] theorem State.modVi_ctxBytes (k : Nat) (f : Vi → Vi) : (s.modVi k f).ctxBytes = s.ctxBytes := rfl
@[simp] theorem State.modVi_poison (k : Nat) (f : Vi → Vi) : (s.modVi k f).poison = s.poison := rfl
@[simp] theorem State.modVi_poisonBase (k : Nat) (f : Vi → Vi) : (s.modVi k f).poisonBase = s.poisonBase := rfl
@[simp] theorem State.modVi_poisonCmd (k : Nat) (f : Vi → Vi) : (s.modVi k f).poisonCmd = s.poisonCmd := rfl
@[simp] theorem State.modVi_placeCmd (k : Nat) (f : Vi → Vi) : (s.modVi k f).placeCmd = s.placeCmd := rfl
@[simp] theorem State.modVi_queues (k : Nat) (f : Vi → Vi) : (s.modVi k f).queues = s.queues := rfl
@[simp] theorem State.modVi_vis (k : Nat) (f : Vi → Vi) : (s.modVi k f).vis = Tab.upd s.vis k Vi.reset f := rfl
@[simp] theorem State.modVi_regions (k : Nat) (f : Vi → Vi) : (s.modVi k f).regions = s.regions := rfl
@[simp] theorem State.modVi_worldleg (k : Nat) (f : Vi → Vi) : (s.modVi k f).worldleg = s.worldleg := rfl
@[simp] theorem State.modVi_ccWorld (k : Nat) (f : Vi → Vi) : (s.modVi k f).ccWorld = s.ccWorld := rfl
@[simp] theorem State.modVi_ccStart (k : Nat) (f : Vi → Vi) : (s.modVi k f).ccStart = s.ccStart := rfl
@[simp] theorem State.modVi_legends (k : Nat) (f : Vi → Vi) : (s.modVi k f).legends = s.legends := rfl
@[simp] theorem State.modVi_tracts (k : Nat) (f : Vi → Vi) : (s.modVi k f).tracts = s.tracts := rfl
@[simp] theorem State.modVi_wheelOwn (k : Nat) (f : Vi → Vi) : (s.modVi k f).wheelOwn = s.wheelOwn := rfl
@[simp] theorem State.modVi_ports (k : Nat) (f : Vi → Vi) : (s.modVi k f).ports = s.ports := rfl
@[simp] theorem State.modVi_fabric (k : Nat) (f : Vi → Vi) : (s.modVi k f).fabric = s.fabric := rfl
@[simp] theorem State.modVi_routes (k : Nat) (f : Vi → Vi) : (s.modVi k f).routes = s.routes := rfl
@[simp] theorem State.modVi_tagStore (k : Nat) (f : Vi → Vi) : (s.modVi k f).tagStore = s.tagStore := rfl
@[simp] theorem State.modVi_l2tlb (k : Nat) (f : Vi → Vi) : (s.modVi k f).l2tlb = s.l2tlb := rfl
@[simp] theorem State.modVi_recHeld (k : Nat) (f : Vi → Vi) : (s.modVi k f).recHeld = s.recHeld := rfl
@[simp] theorem State.modVi_atHeld (k : Nat) (f : Vi → Vi) : (s.modVi k f).atHeld = s.atHeld := rfl
@[simp] theorem State.modVi_fieldBook (k : Nat) (f : Vi → Vi) : (s.modVi k f).fieldBook = s.fieldBook := rfl
@[simp] theorem State.modVi_mgmt (k : Nat) (f : Vi → Vi) : (s.modVi k f).mgmt = s.mgmt := rfl
@[simp] theorem State.modVi_containers (k : Nat) (f : Vi → Vi) : (s.modVi k f).containers = s.containers := rfl
@[simp] theorem State.modVi_editions (k : Nat) (f : Vi → Vi) : (s.modVi k f).editions = s.editions := rfl
@[simp] theorem State.modVi_saved (k : Nat) (f : Vi → Vi) : (s.modVi k f).saved = s.saved := rfl
@[simp] theorem State.modVi_ckpts (k : Nat) (f : Vi → Vi) : (s.modVi k f).ckpts = s.ckpts := rfl
@[simp] theorem State.modVi_net (k : Nat) (f : Vi → Vi) : (s.modVi k f).net = s.net := rfl
@[simp] theorem State.modVi_resvs (k : Nat) (f : Vi → Vi) : (s.modVi k f).resvs = s.resvs := rfl
@[simp] theorem State.modVi_answers (k : Nat) (f : Vi → Vi) : (s.modVi k f).answers = s.answers := rfl
@[simp] theorem State.modVi_wire (k : Nat) (f : Vi → Vi) : (s.modVi k f).wire = s.wire := rfl
@[simp] theorem State.modVi_irqs (k : Nat) (f : Vi → Vi) : (s.modVi k f).irqs = s.irqs := rfl
@[simp] theorem State.modVi_replies (k : Nat) (f : Vi → Vi) : (s.modVi k f).replies = s.replies := rfl
@[simp] theorem State.modVi_cur (k : Nat) (f : Vi → Vi) : (s.modVi k f).cur = s.cur := rfl
@[simp] theorem State.modVi_slot (k : Nat) (f : Vi → Vi) : (s.modVi k f).slot = s.slot := rfl
@[simp] theorem State.modVi_ib (k : Nat) (f : Vi → Vi) : (s.modVi k f).ib = s.ib := rfl
@[simp] theorem State.modVi_pre (k : Nat) (f : Vi → Vi) : (s.modVi k f).pre = s.pre := rfl
@[simp] theorem State.modVi_agenda (k : Nat) (f : Vi → Vi) : (s.modVi k f).agenda = s.agenda := rfl
@[simp] theorem State.modVi_tape (k : Nat) (f : Vi → Vi) : (s.modVi k f).tape = s.tape := rfl
@[simp] theorem State.modVi_fresh (k : Nat) (f : Vi → Vi) : (s.modVi k f).fresh = s.fresh := rfl
@[simp] theorem State.modVi_nextId (k : Nat) (f : Vi → Vi) : (s.modVi k f).nextId = s.nextId := rfl
@[simp] theorem State.modVi_turn (k : Nat) (f : Vi → Vi) : (s.modVi k f).turn = s.turn := rfl
@[simp] theorem State.modVi_ccData (k : Nat) (f : Vi → Vi) : (s.modVi k f).ccData = s.ccData := rfl

/-! modTract changes tracts alone. -/

@[simp] theorem State.modTract_cycle (k : Nat) (f : Tract → Tract) : (s.modTract k f).cycle = s.cycle := rfl
@[simp] theorem State.modTract_waves (k : Nat) (f : Tract → Tract) : (s.modTract k f).waves = s.waves := rfl
@[simp] theorem State.modTract_cores (k : Nat) (f : Tract → Tract) : (s.modTract k f).cores = s.cores := rfl
@[simp] theorem State.modTract_parties (k : Nat) (f : Tract → Tract) : (s.modTract k f).parties = s.parties := rfl
@[simp] theorem State.modTract_launches (k : Nat) (f : Tract → Tract) : (s.modTract k f).launches = s.launches := rfl
@[simp] theorem State.modTract_home (k : Nat) (f : Tract → Tract) : (s.modTract k f).home = s.home := rfl
@[simp] theorem State.modTract_undef (k : Nat) (f : Tract → Tract) : (s.modTract k f).undef = s.undef := rfl
@[simp] theorem State.modTract_hist (k : Nat) (f : Tract → Tract) : (s.modTract k f).hist = s.hist := rfl
@[simp] theorem State.modTract_marks (k : Nat) (f : Tract → Tract) : (s.modTract k f).marks = s.marks := rfl
@[simp] theorem State.modTract_lastStamp (k : Nat) (f : Tract → Tract) : (s.modTract k f).lastStamp = s.lastStamp := rfl
@[simp] theorem State.modTract_placeModes (k : Nat) (f : Tract → Tract) : (s.modTract k f).placeModes = s.placeModes := rfl
@[simp] theorem State.modTract_ctxBytes (k : Nat) (f : Tract → Tract) : (s.modTract k f).ctxBytes = s.ctxBytes := rfl
@[simp] theorem State.modTract_poison (k : Nat) (f : Tract → Tract) : (s.modTract k f).poison = s.poison := rfl
@[simp] theorem State.modTract_poisonBase (k : Nat) (f : Tract → Tract) : (s.modTract k f).poisonBase = s.poisonBase := rfl
@[simp] theorem State.modTract_poisonCmd (k : Nat) (f : Tract → Tract) : (s.modTract k f).poisonCmd = s.poisonCmd := rfl
@[simp] theorem State.modTract_placeCmd (k : Nat) (f : Tract → Tract) : (s.modTract k f).placeCmd = s.placeCmd := rfl
@[simp] theorem State.modTract_queues (k : Nat) (f : Tract → Tract) : (s.modTract k f).queues = s.queues := rfl
@[simp] theorem State.modTract_vis (k : Nat) (f : Tract → Tract) : (s.modTract k f).vis = s.vis := rfl
@[simp] theorem State.modTract_regions (k : Nat) (f : Tract → Tract) : (s.modTract k f).regions = s.regions := rfl
@[simp] theorem State.modTract_worldleg (k : Nat) (f : Tract → Tract) : (s.modTract k f).worldleg = s.worldleg := rfl
@[simp] theorem State.modTract_ccWorld (k : Nat) (f : Tract → Tract) : (s.modTract k f).ccWorld = s.ccWorld := rfl
@[simp] theorem State.modTract_ccStart (k : Nat) (f : Tract → Tract) : (s.modTract k f).ccStart = s.ccStart := rfl
@[simp] theorem State.modTract_legends (k : Nat) (f : Tract → Tract) : (s.modTract k f).legends = s.legends := rfl
@[simp] theorem State.modTract_tracts (k : Nat) (f : Tract → Tract) : (s.modTract k f).tracts = Tab.upd s.tracts k Tract.reset f := rfl
@[simp] theorem State.modTract_wheelOwn (k : Nat) (f : Tract → Tract) : (s.modTract k f).wheelOwn = s.wheelOwn := rfl
@[simp] theorem State.modTract_ports (k : Nat) (f : Tract → Tract) : (s.modTract k f).ports = s.ports := rfl
@[simp] theorem State.modTract_fabric (k : Nat) (f : Tract → Tract) : (s.modTract k f).fabric = s.fabric := rfl
@[simp] theorem State.modTract_routes (k : Nat) (f : Tract → Tract) : (s.modTract k f).routes = s.routes := rfl
@[simp] theorem State.modTract_tagStore (k : Nat) (f : Tract → Tract) : (s.modTract k f).tagStore = s.tagStore := rfl
@[simp] theorem State.modTract_l2tlb (k : Nat) (f : Tract → Tract) : (s.modTract k f).l2tlb = s.l2tlb := rfl
@[simp] theorem State.modTract_recHeld (k : Nat) (f : Tract → Tract) : (s.modTract k f).recHeld = s.recHeld := rfl
@[simp] theorem State.modTract_atHeld (k : Nat) (f : Tract → Tract) : (s.modTract k f).atHeld = s.atHeld := rfl
@[simp] theorem State.modTract_fieldBook (k : Nat) (f : Tract → Tract) : (s.modTract k f).fieldBook = s.fieldBook := rfl
@[simp] theorem State.modTract_mgmt (k : Nat) (f : Tract → Tract) : (s.modTract k f).mgmt = s.mgmt := rfl
@[simp] theorem State.modTract_containers (k : Nat) (f : Tract → Tract) : (s.modTract k f).containers = s.containers := rfl
@[simp] theorem State.modTract_editions (k : Nat) (f : Tract → Tract) : (s.modTract k f).editions = s.editions := rfl
@[simp] theorem State.modTract_saved (k : Nat) (f : Tract → Tract) : (s.modTract k f).saved = s.saved := rfl
@[simp] theorem State.modTract_ckpts (k : Nat) (f : Tract → Tract) : (s.modTract k f).ckpts = s.ckpts := rfl
@[simp] theorem State.modTract_net (k : Nat) (f : Tract → Tract) : (s.modTract k f).net = s.net := rfl
@[simp] theorem State.modTract_resvs (k : Nat) (f : Tract → Tract) : (s.modTract k f).resvs = s.resvs := rfl
@[simp] theorem State.modTract_answers (k : Nat) (f : Tract → Tract) : (s.modTract k f).answers = s.answers := rfl
@[simp] theorem State.modTract_wire (k : Nat) (f : Tract → Tract) : (s.modTract k f).wire = s.wire := rfl
@[simp] theorem State.modTract_irqs (k : Nat) (f : Tract → Tract) : (s.modTract k f).irqs = s.irqs := rfl
@[simp] theorem State.modTract_replies (k : Nat) (f : Tract → Tract) : (s.modTract k f).replies = s.replies := rfl
@[simp] theorem State.modTract_cur (k : Nat) (f : Tract → Tract) : (s.modTract k f).cur = s.cur := rfl
@[simp] theorem State.modTract_slot (k : Nat) (f : Tract → Tract) : (s.modTract k f).slot = s.slot := rfl
@[simp] theorem State.modTract_ib (k : Nat) (f : Tract → Tract) : (s.modTract k f).ib = s.ib := rfl
@[simp] theorem State.modTract_pre (k : Nat) (f : Tract → Tract) : (s.modTract k f).pre = s.pre := rfl
@[simp] theorem State.modTract_agenda (k : Nat) (f : Tract → Tract) : (s.modTract k f).agenda = s.agenda := rfl
@[simp] theorem State.modTract_tape (k : Nat) (f : Tract → Tract) : (s.modTract k f).tape = s.tape := rfl
@[simp] theorem State.modTract_fresh (k : Nat) (f : Tract → Tract) : (s.modTract k f).fresh = s.fresh := rfl
@[simp] theorem State.modTract_nextId (k : Nat) (f : Tract → Tract) : (s.modTract k f).nextId = s.nextId := rfl
@[simp] theorem State.modTract_turn (k : Nat) (f : Tract → Tract) : (s.modTract k f).turn = s.turn := rfl
@[simp] theorem State.modTract_ccData (k : Nat) (f : Tract → Tract) : (s.modTract k f).ccData = s.ccData := rfl

/-! modPort changes ports alone. -/

@[simp] theorem State.modPort_cycle (k : Nat) (f : FabPort → FabPort) : (s.modPort k f).cycle = s.cycle := rfl
@[simp] theorem State.modPort_waves (k : Nat) (f : FabPort → FabPort) : (s.modPort k f).waves = s.waves := rfl
@[simp] theorem State.modPort_cores (k : Nat) (f : FabPort → FabPort) : (s.modPort k f).cores = s.cores := rfl
@[simp] theorem State.modPort_parties (k : Nat) (f : FabPort → FabPort) : (s.modPort k f).parties = s.parties := rfl
@[simp] theorem State.modPort_launches (k : Nat) (f : FabPort → FabPort) : (s.modPort k f).launches = s.launches := rfl
@[simp] theorem State.modPort_home (k : Nat) (f : FabPort → FabPort) : (s.modPort k f).home = s.home := rfl
@[simp] theorem State.modPort_undef (k : Nat) (f : FabPort → FabPort) : (s.modPort k f).undef = s.undef := rfl
@[simp] theorem State.modPort_hist (k : Nat) (f : FabPort → FabPort) : (s.modPort k f).hist = s.hist := rfl
@[simp] theorem State.modPort_marks (k : Nat) (f : FabPort → FabPort) : (s.modPort k f).marks = s.marks := rfl
@[simp] theorem State.modPort_lastStamp (k : Nat) (f : FabPort → FabPort) : (s.modPort k f).lastStamp = s.lastStamp := rfl
@[simp] theorem State.modPort_placeModes (k : Nat) (f : FabPort → FabPort) : (s.modPort k f).placeModes = s.placeModes := rfl
@[simp] theorem State.modPort_ctxBytes (k : Nat) (f : FabPort → FabPort) : (s.modPort k f).ctxBytes = s.ctxBytes := rfl
@[simp] theorem State.modPort_poison (k : Nat) (f : FabPort → FabPort) : (s.modPort k f).poison = s.poison := rfl
@[simp] theorem State.modPort_poisonBase (k : Nat) (f : FabPort → FabPort) : (s.modPort k f).poisonBase = s.poisonBase := rfl
@[simp] theorem State.modPort_poisonCmd (k : Nat) (f : FabPort → FabPort) : (s.modPort k f).poisonCmd = s.poisonCmd := rfl
@[simp] theorem State.modPort_placeCmd (k : Nat) (f : FabPort → FabPort) : (s.modPort k f).placeCmd = s.placeCmd := rfl
@[simp] theorem State.modPort_queues (k : Nat) (f : FabPort → FabPort) : (s.modPort k f).queues = s.queues := rfl
@[simp] theorem State.modPort_vis (k : Nat) (f : FabPort → FabPort) : (s.modPort k f).vis = s.vis := rfl
@[simp] theorem State.modPort_regions (k : Nat) (f : FabPort → FabPort) : (s.modPort k f).regions = s.regions := rfl
@[simp] theorem State.modPort_worldleg (k : Nat) (f : FabPort → FabPort) : (s.modPort k f).worldleg = s.worldleg := rfl
@[simp] theorem State.modPort_ccWorld (k : Nat) (f : FabPort → FabPort) : (s.modPort k f).ccWorld = s.ccWorld := rfl
@[simp] theorem State.modPort_ccStart (k : Nat) (f : FabPort → FabPort) : (s.modPort k f).ccStart = s.ccStart := rfl
@[simp] theorem State.modPort_legends (k : Nat) (f : FabPort → FabPort) : (s.modPort k f).legends = s.legends := rfl
@[simp] theorem State.modPort_tracts (k : Nat) (f : FabPort → FabPort) : (s.modPort k f).tracts = s.tracts := rfl
@[simp] theorem State.modPort_wheelOwn (k : Nat) (f : FabPort → FabPort) : (s.modPort k f).wheelOwn = s.wheelOwn := rfl
@[simp] theorem State.modPort_ports (k : Nat) (f : FabPort → FabPort) : (s.modPort k f).ports = Tab.upd s.ports k FabPort.reset f := rfl
@[simp] theorem State.modPort_fabric (k : Nat) (f : FabPort → FabPort) : (s.modPort k f).fabric = s.fabric := rfl
@[simp] theorem State.modPort_routes (k : Nat) (f : FabPort → FabPort) : (s.modPort k f).routes = s.routes := rfl
@[simp] theorem State.modPort_tagStore (k : Nat) (f : FabPort → FabPort) : (s.modPort k f).tagStore = s.tagStore := rfl
@[simp] theorem State.modPort_l2tlb (k : Nat) (f : FabPort → FabPort) : (s.modPort k f).l2tlb = s.l2tlb := rfl
@[simp] theorem State.modPort_recHeld (k : Nat) (f : FabPort → FabPort) : (s.modPort k f).recHeld = s.recHeld := rfl
@[simp] theorem State.modPort_atHeld (k : Nat) (f : FabPort → FabPort) : (s.modPort k f).atHeld = s.atHeld := rfl
@[simp] theorem State.modPort_fieldBook (k : Nat) (f : FabPort → FabPort) : (s.modPort k f).fieldBook = s.fieldBook := rfl
@[simp] theorem State.modPort_mgmt (k : Nat) (f : FabPort → FabPort) : (s.modPort k f).mgmt = s.mgmt := rfl
@[simp] theorem State.modPort_containers (k : Nat) (f : FabPort → FabPort) : (s.modPort k f).containers = s.containers := rfl
@[simp] theorem State.modPort_editions (k : Nat) (f : FabPort → FabPort) : (s.modPort k f).editions = s.editions := rfl
@[simp] theorem State.modPort_saved (k : Nat) (f : FabPort → FabPort) : (s.modPort k f).saved = s.saved := rfl
@[simp] theorem State.modPort_ckpts (k : Nat) (f : FabPort → FabPort) : (s.modPort k f).ckpts = s.ckpts := rfl
@[simp] theorem State.modPort_net (k : Nat) (f : FabPort → FabPort) : (s.modPort k f).net = s.net := rfl
@[simp] theorem State.modPort_resvs (k : Nat) (f : FabPort → FabPort) : (s.modPort k f).resvs = s.resvs := rfl
@[simp] theorem State.modPort_answers (k : Nat) (f : FabPort → FabPort) : (s.modPort k f).answers = s.answers := rfl
@[simp] theorem State.modPort_wire (k : Nat) (f : FabPort → FabPort) : (s.modPort k f).wire = s.wire := rfl
@[simp] theorem State.modPort_irqs (k : Nat) (f : FabPort → FabPort) : (s.modPort k f).irqs = s.irqs := rfl
@[simp] theorem State.modPort_replies (k : Nat) (f : FabPort → FabPort) : (s.modPort k f).replies = s.replies := rfl
@[simp] theorem State.modPort_cur (k : Nat) (f : FabPort → FabPort) : (s.modPort k f).cur = s.cur := rfl
@[simp] theorem State.modPort_slot (k : Nat) (f : FabPort → FabPort) : (s.modPort k f).slot = s.slot := rfl
@[simp] theorem State.modPort_ib (k : Nat) (f : FabPort → FabPort) : (s.modPort k f).ib = s.ib := rfl
@[simp] theorem State.modPort_pre (k : Nat) (f : FabPort → FabPort) : (s.modPort k f).pre = s.pre := rfl
@[simp] theorem State.modPort_agenda (k : Nat) (f : FabPort → FabPort) : (s.modPort k f).agenda = s.agenda := rfl
@[simp] theorem State.modPort_tape (k : Nat) (f : FabPort → FabPort) : (s.modPort k f).tape = s.tape := rfl
@[simp] theorem State.modPort_fresh (k : Nat) (f : FabPort → FabPort) : (s.modPort k f).fresh = s.fresh := rfl
@[simp] theorem State.modPort_nextId (k : Nat) (f : FabPort → FabPort) : (s.modPort k f).nextId = s.nextId := rfl
@[simp] theorem State.modPort_turn (k : Nat) (f : FabPort → FabPort) : (s.modPort k f).turn = s.turn := rfl
@[simp] theorem State.modPort_ccData (k : Nat) (f : FabPort → FabPort) : (s.modPort k f).ccData = s.ccData := rfl

/-! refresh changes fresh alone. -/

@[simp] theorem State.refresh_cycle : (s.refresh).cycle = s.cycle := rfl
@[simp] theorem State.refresh_waves : (s.refresh).waves = s.waves := rfl
@[simp] theorem State.refresh_cores : (s.refresh).cores = s.cores := rfl
@[simp] theorem State.refresh_parties : (s.refresh).parties = s.parties := rfl
@[simp] theorem State.refresh_launches : (s.refresh).launches = s.launches := rfl
@[simp] theorem State.refresh_home : (s.refresh).home = s.home := rfl
@[simp] theorem State.refresh_undef : (s.refresh).undef = s.undef := rfl
@[simp] theorem State.refresh_hist : (s.refresh).hist = s.hist := rfl
@[simp] theorem State.refresh_marks : (s.refresh).marks = s.marks := rfl
@[simp] theorem State.refresh_lastStamp : (s.refresh).lastStamp = s.lastStamp := rfl
@[simp] theorem State.refresh_placeModes : (s.refresh).placeModes = s.placeModes := rfl
@[simp] theorem State.refresh_ctxBytes : (s.refresh).ctxBytes = s.ctxBytes := rfl
@[simp] theorem State.refresh_poison : (s.refresh).poison = s.poison := rfl
@[simp] theorem State.refresh_poisonBase : (s.refresh).poisonBase = s.poisonBase := rfl
@[simp] theorem State.refresh_poisonCmd : (s.refresh).poisonCmd = s.poisonCmd := rfl
@[simp] theorem State.refresh_placeCmd : (s.refresh).placeCmd = s.placeCmd := rfl
@[simp] theorem State.refresh_queues : (s.refresh).queues = s.queues := rfl
@[simp] theorem State.refresh_vis : (s.refresh).vis = s.vis := rfl
@[simp] theorem State.refresh_regions : (s.refresh).regions = s.regions := rfl
@[simp] theorem State.refresh_worldleg : (s.refresh).worldleg = s.worldleg := rfl
@[simp] theorem State.refresh_ccWorld : (s.refresh).ccWorld = s.ccWorld := rfl
@[simp] theorem State.refresh_ccStart : (s.refresh).ccStart = s.ccStart := rfl
@[simp] theorem State.refresh_legends : (s.refresh).legends = s.legends := rfl
@[simp] theorem State.refresh_tracts : (s.refresh).tracts = s.tracts := rfl
@[simp] theorem State.refresh_wheelOwn : (s.refresh).wheelOwn = s.wheelOwn := rfl
@[simp] theorem State.refresh_ports : (s.refresh).ports = s.ports := rfl
@[simp] theorem State.refresh_fabric : (s.refresh).fabric = s.fabric := rfl
@[simp] theorem State.refresh_routes : (s.refresh).routes = s.routes := rfl
@[simp] theorem State.refresh_tagStore : (s.refresh).tagStore = s.tagStore := rfl
@[simp] theorem State.refresh_l2tlb : (s.refresh).l2tlb = s.l2tlb := rfl
@[simp] theorem State.refresh_recHeld : (s.refresh).recHeld = s.recHeld := rfl
@[simp] theorem State.refresh_atHeld : (s.refresh).atHeld = s.atHeld := rfl
@[simp] theorem State.refresh_fieldBook : (s.refresh).fieldBook = s.fieldBook := rfl
@[simp] theorem State.refresh_mgmt : (s.refresh).mgmt = s.mgmt := rfl
@[simp] theorem State.refresh_containers : (s.refresh).containers = s.containers := rfl
@[simp] theorem State.refresh_editions : (s.refresh).editions = s.editions := rfl
@[simp] theorem State.refresh_saved : (s.refresh).saved = s.saved := rfl
@[simp] theorem State.refresh_ckpts : (s.refresh).ckpts = s.ckpts := rfl
@[simp] theorem State.refresh_net : (s.refresh).net = s.net := rfl
@[simp] theorem State.refresh_resvs : (s.refresh).resvs = s.resvs := rfl
@[simp] theorem State.refresh_answers : (s.refresh).answers = s.answers := rfl
@[simp] theorem State.refresh_wire : (s.refresh).wire = s.wire := rfl
@[simp] theorem State.refresh_irqs : (s.refresh).irqs = s.irqs := rfl
@[simp] theorem State.refresh_replies : (s.refresh).replies = s.replies := rfl
@[simp] theorem State.refresh_cur : (s.refresh).cur = s.cur := rfl
@[simp] theorem State.refresh_slot : (s.refresh).slot = s.slot := rfl
@[simp] theorem State.refresh_ib : (s.refresh).ib = s.ib := rfl
@[simp] theorem State.refresh_pre : (s.refresh).pre = s.pre := rfl
@[simp] theorem State.refresh_agenda : (s.refresh).agenda = s.agenda := rfl
@[simp] theorem State.refresh_tape : (s.refresh).tape = s.tape := rfl
@[simp] theorem State.refresh_fresh : (s.refresh).fresh = s.fresh + 1 := rfl
@[simp] theorem State.refresh_nextId : (s.refresh).nextId = s.nextId := rfl
@[simp] theorem State.refresh_turn : (s.refresh).turn = s.turn := rfl
@[simp] theorem State.refresh_ccData : (s.refresh).ccData = s.ccData := rfl

/-! Reading after a change. -/

@[simp] theorem State.wave?_setWave_self (k : Nat) (w : Wave) : (s.setWave k w).wave? k = some w := by simp [State.wave?]
@[simp] theorem State.wave?_setWave_ne {k j : Nat} (w : Wave) (h : j ≠ k) : (s.setWave k w).wave? j = s.wave? j := by
  simp [State.wave?, h]
@[simp] theorem State.wave?_modWave_self (k : Nat) (f : Wave → Wave) : (s.modWave k f).wave? k = (s.wave? k).map f := by
  simp [State.wave?]
@[simp] theorem State.wave?_modWave_ne {k j : Nat} (f : Wave → Wave) (h : j ≠ k) : (s.modWave k f).wave? j = s.wave? j := by
  simp [State.wave?, h]
@[simp] theorem State.cur?_setWave (w : Wave) : (s.setWave s.cur w).cur? = some w := by simp [State.cur?]
@[simp] theorem State.cur?_modWave (f : Wave → Wave) : (s.modWave s.cur f).cur? = s.cur?.map f := by simp [State.cur?]

/-- A change of a wave that is resident places the changed wave. -/
theorem State.modWave_eq {s : State} {k : Nat} {w : Wave} (f : Wave → Wave) (h : s.wave? k = some w) :
    s.modWave k f = s.setWave k (f w) := by
  unfold State.modWave State.setWave
  rw [Tab.modify_of_get f h]

/-- A change of a wave that is not resident changes nothing. -/
theorem State.modWave_none {s : State} {k : Nat} (f : Wave → Wave) (h : s.wave? k = none) : s.modWave k f = s := by
  unfold State.modWave
  rw [Tab.modify_of_none f h]

@[simp] theorem State.setWave_setWave (k : Nat) (w v : Wave) : (s.setWave k w).setWave k v = s.setWave k v := by
  simp [State.setWave]
@[simp] theorem State.modWave_setWave (k : Nat) (w : Wave) (f : Wave → Wave) : (s.setWave k w).modWave k f = s.setWave k (f w) := by
  rw [State.modWave_eq f (State.wave?_setWave_self s k w), State.setWave_setWave]
@[simp] theorem State.modWave_modWave (k : Nat) (f g : Wave → Wave) :
    (s.modWave k f).modWave k g = s.modWave k (fun w => g (f w)) := by simp [State.modWave]

/-- Placing the wave that stands there. -/
theorem State.setWave_self {s : State} {k : Nat} {w : Wave} (h : s.wave? k = some w) : s.setWave k w = s := by
  unfold State.setWave
  rw [Tab.set_get h]

@[simp] theorem State.core_modCore_self (k : Nat) (f : Core → Core) : (s.modCore k f).core k = f (s.core k) := by
  simp [State.core]
@[simp] theorem State.core_modCore_ne {k j : Nat} (f : Core → Core) (h : j ≠ k) : (s.modCore k f).core j = s.core j := by
  simp [State.core, h]
@[simp] theorem State.modCore_modCore (k : Nat) (f g : Core → Core) :
    (s.modCore k f).modCore k g = s.modCore k (fun c => g (f c)) := by simp [State.modCore]
@[simp] theorem State.party?_modParty_self (k : Nat) (f : Party → Party) : (s.modParty k f).party? k = (s.party? k).map f := by
  simp [State.party?]
@[simp] theorem State.party?_modParty_ne {k j : Nat} (f : Party → Party) (h : j ≠ k) : (s.modParty k f).party? j = s.party? j := by
  simp [State.party?, h]
@[simp] theorem State.launch?_modLaunch_self (k : Nat) (f : Launch → Launch) :
    (s.modLaunch k f).launch? k = (s.launch? k).map f := by simp [State.launch?]
@[simp] theorem State.launch?_modLaunch_ne {k j : Nat} (f : Launch → Launch) (h : j ≠ k) :
    (s.modLaunch k f).launch? j = s.launch? j := by simp [State.launch?, h]
@[simp] theorem State.queue_modQueue_self (k : Nat) (f : WQueue → WQueue) : (s.modQueue k f).queue k = f (s.queue k) := by
  simp [State.queue]
@[simp] theorem State.vi_modVi_self (k : Nat) (f : Vi → Vi) : (s.modVi k f).vi k = f (s.vi k) := by simp [State.vi]
@[simp] theorem State.tract_modTract_self (k : Nat) (f : Tract → Tract) : (s.modTract k f).tract k = f (s.tract k) := by
  simp [State.tract]
@[simp] theorem State.port_modPort_self (k : Nat) (f : FabPort → FabPort) : (s.modPort k f).port k = f (s.port k) := by
  simp [State.port]

/-! Reading a part after a change of another. -/

@[simp] theorem State.wave?_modCore (k : Nat) (f : Core → Core) (j : Nat) : (s.modCore k f).wave? j = s.wave? j := rfl
@[simp] theorem State.wave?_modParty (k : Nat) (f : Party → Party) (j : Nat) : (s.modParty k f).wave? j = s.wave? j := rfl
@[simp] theorem State.wave?_modLaunch (k : Nat) (f : Launch → Launch) (j : Nat) : (s.modLaunch k f).wave? j = s.wave? j := rfl
@[simp] theorem State.wave?_modQueue (k : Nat) (f : WQueue → WQueue) (j : Nat) : (s.modQueue k f).wave? j = s.wave? j := rfl
@[simp] theorem State.wave?_modVi (k : Nat) (f : Vi → Vi) (j : Nat) : (s.modVi k f).wave? j = s.wave? j := rfl
@[simp] theorem State.wave?_modTract (k : Nat) (f : Tract → Tract) (j : Nat) : (s.modTract k f).wave? j = s.wave? j := rfl
@[simp] theorem State.wave?_modPort (k : Nat) (f : FabPort → FabPort) (j : Nat) : (s.modPort k f).wave? j = s.wave? j := rfl
@[simp] theorem State.wave?_refresh (j : Nat) : (s.refresh).wave? j = s.wave? j := rfl
@[simp] theorem State.cur?_modCore (k : Nat) (f : Core → Core) : (s.modCore k f).cur? = s.cur? := rfl
@[simp] theorem State.cur?_modParty (k : Nat) (f : Party → Party) : (s.modParty k f).cur? = s.cur? := rfl
@[simp] theorem State.cur?_modLaunch (k : Nat) (f : Launch → Launch) : (s.modLaunch k f).cur? = s.cur? := rfl
@[simp] theorem State.cur?_modQueue (k : Nat) (f : WQueue → WQueue) : (s.modQueue k f).cur? = s.cur? := rfl
@[simp] theorem State.cur?_modVi (k : Nat) (f : Vi → Vi) : (s.modVi k f).cur? = s.cur? := rfl
@[simp] theorem State.cur?_modTract (k : Nat) (f : Tract → Tract) : (s.modTract k f).cur? = s.cur? := rfl
@[simp] theorem State.cur?_modPort (k : Nat) (f : FabPort → FabPort) : (s.modPort k f).cur? = s.cur? := rfl
@[simp] theorem State.cur?_refresh : (s.refresh).cur? = s.cur? := rfl
@[simp] theorem State.core_setWave (k : Nat) (w : Wave) (j : Nat) : (s.setWave k w).core j = s.core j := rfl
@[simp] theorem State.core_modWave (k : Nat) (f : Wave → Wave) (j : Nat) : (s.modWave k f).core j = s.core j := rfl
@[simp] theorem State.core_dropWave (k : Nat) (j : Nat) : (s.dropWave k).core j = s.core j := rfl
@[simp] theorem State.core_modParty (k : Nat) (f : Party → Party) (j : Nat) : (s.modParty k f).core j = s.core j := rfl
@[simp] theorem State.core_modLaunch (k : Nat) (f : Launch → Launch) (j : Nat) : (s.modLaunch k f).core j = s.core j := rfl
@[simp] theorem State.core_modQueue (k : Nat) (f : WQueue → WQueue) (j : Nat) : (s.modQueue k f).core j = s.core j := rfl
@[simp] theorem State.core_modVi (k : Nat) (f : Vi → Vi) (j : Nat) : (s.modVi k f).core j = s.core j := rfl
@[simp] theorem State.core_modTract (k : Nat) (f : Tract → Tract) (j : Nat) : (s.modTract k f).core j = s.core j := rfl
@[simp] theorem State.core_modPort (k : Nat) (f : FabPort → FabPort) (j : Nat) : (s.modPort k f).core j = s.core j := rfl
@[simp] theorem State.core_refresh (j : Nat) : (s.refresh).core j = s.core j := rfl
@[simp] theorem State.party?_setWave (k : Nat) (w : Wave) (j : Nat) : (s.setWave k w).party? j = s.party? j := rfl
@[simp] theorem State.party?_modWave (k : Nat) (f : Wave → Wave) (j : Nat) : (s.modWave k f).party? j = s.party? j := rfl
@[simp] theorem State.party?_dropWave (k : Nat) (j : Nat) : (s.dropWave k).party? j = s.party? j := rfl
@[simp] theorem State.party?_modCore (k : Nat) (f : Core → Core) (j : Nat) : (s.modCore k f).party? j = s.party? j := rfl
@[simp] theorem State.party?_modLaunch (k : Nat) (f : Launch → Launch) (j : Nat) : (s.modLaunch k f).party? j = s.party? j := rfl
@[simp] theorem State.party?_modQueue (k : Nat) (f : WQueue → WQueue) (j : Nat) : (s.modQueue k f).party? j = s.party? j := rfl
@[simp] theorem State.party?_modVi (k : Nat) (f : Vi → Vi) (j : Nat) : (s.modVi k f).party? j = s.party? j := rfl
@[simp] theorem State.party?_modTract (k : Nat) (f : Tract → Tract) (j : Nat) : (s.modTract k f).party? j = s.party? j := rfl
@[simp] theorem State.party?_modPort (k : Nat) (f : FabPort → FabPort) (j : Nat) : (s.modPort k f).party? j = s.party? j := rfl
@[simp] theorem State.party?_refresh (j : Nat) : (s.refresh).party? j = s.party? j := rfl
@[simp] theorem State.launch?_setWave (k : Nat) (w : Wave) (j : Nat) : (s.setWave k w).launch? j = s.launch? j := rfl
@[simp] theorem State.launch?_modWave (k : Nat) (f : Wave → Wave) (j : Nat) : (s.modWave k f).launch? j = s.launch? j := rfl
@[simp] theorem State.launch?_dropWave (k : Nat) (j : Nat) : (s.dropWave k).launch? j = s.launch? j := rfl
@[simp] theorem State.launch?_modCore (k : Nat) (f : Core → Core) (j : Nat) : (s.modCore k f).launch? j = s.launch? j := rfl
@[simp] theorem State.launch?_modParty (k : Nat) (f : Party → Party) (j : Nat) : (s.modParty k f).launch? j = s.launch? j := rfl
@[simp] theorem State.launch?_modQueue (k : Nat) (f : WQueue → WQueue) (j : Nat) : (s.modQueue k f).launch? j = s.launch? j := rfl
@[simp] theorem State.launch?_modVi (k : Nat) (f : Vi → Vi) (j : Nat) : (s.modVi k f).launch? j = s.launch? j := rfl
@[simp] theorem State.launch?_modTract (k : Nat) (f : Tract → Tract) (j : Nat) : (s.modTract k f).launch? j = s.launch? j := rfl
@[simp] theorem State.launch?_modPort (k : Nat) (f : FabPort → FabPort) (j : Nat) : (s.modPort k f).launch? j = s.launch? j := rfl
@[simp] theorem State.launch?_refresh (j : Nat) : (s.refresh).launch? j = s.launch? j := rfl
@[simp] theorem State.queue_setWave (k : Nat) (w : Wave) (j : Nat) : (s.setWave k w).queue j = s.queue j := rfl
@[simp] theorem State.queue_modWave (k : Nat) (f : Wave → Wave) (j : Nat) : (s.modWave k f).queue j = s.queue j := rfl
@[simp] theorem State.queue_dropWave (k : Nat) (j : Nat) : (s.dropWave k).queue j = s.queue j := rfl
@[simp] theorem State.queue_modCore (k : Nat) (f : Core → Core) (j : Nat) : (s.modCore k f).queue j = s.queue j := rfl
@[simp] theorem State.queue_modParty (k : Nat) (f : Party → Party) (j : Nat) : (s.modParty k f).queue j = s.queue j := rfl
@[simp] theorem State.queue_modLaunch (k : Nat) (f : Launch → Launch) (j : Nat) : (s.modLaunch k f).queue j = s.queue j := rfl
@[simp] theorem State.queue_modVi (k : Nat) (f : Vi → Vi) (j : Nat) : (s.modVi k f).queue j = s.queue j := rfl
@[simp] theorem State.queue_modTract (k : Nat) (f : Tract → Tract) (j : Nat) : (s.modTract k f).queue j = s.queue j := rfl
@[simp] theorem State.queue_modPort (k : Nat) (f : FabPort → FabPort) (j : Nat) : (s.modPort k f).queue j = s.queue j := rfl
@[simp] theorem State.queue_refresh (j : Nat) : (s.refresh).queue j = s.queue j := rfl
@[simp] theorem State.vi_setWave (k : Nat) (w : Wave) (j : Nat) : (s.setWave k w).vi j = s.vi j := rfl
@[simp] theorem State.vi_modWave (k : Nat) (f : Wave → Wave) (j : Nat) : (s.modWave k f).vi j = s.vi j := rfl
@[simp] theorem State.vi_dropWave (k : Nat) (j : Nat) : (s.dropWave k).vi j = s.vi j := rfl
@[simp] theorem State.vi_modCore (k : Nat) (f : Core → Core) (j : Nat) : (s.modCore k f).vi j = s.vi j := rfl
@[simp] theorem State.vi_modParty (k : Nat) (f : Party → Party) (j : Nat) : (s.modParty k f).vi j = s.vi j := rfl
@[simp] theorem State.vi_modLaunch (k : Nat) (f : Launch → Launch) (j : Nat) : (s.modLaunch k f).vi j = s.vi j := rfl
@[simp] theorem State.vi_modQueue (k : Nat) (f : WQueue → WQueue) (j : Nat) : (s.modQueue k f).vi j = s.vi j := rfl
@[simp] theorem State.vi_modTract (k : Nat) (f : Tract → Tract) (j : Nat) : (s.modTract k f).vi j = s.vi j := rfl
@[simp] theorem State.vi_modPort (k : Nat) (f : FabPort → FabPort) (j : Nat) : (s.modPort k f).vi j = s.vi j := rfl
@[simp] theorem State.vi_refresh (j : Nat) : (s.refresh).vi j = s.vi j := rfl
@[simp] theorem State.tract_setWave (k : Nat) (w : Wave) (j : Nat) : (s.setWave k w).tract j = s.tract j := rfl
@[simp] theorem State.tract_modWave (k : Nat) (f : Wave → Wave) (j : Nat) : (s.modWave k f).tract j = s.tract j := rfl
@[simp] theorem State.tract_dropWave (k : Nat) (j : Nat) : (s.dropWave k).tract j = s.tract j := rfl
@[simp] theorem State.tract_modCore (k : Nat) (f : Core → Core) (j : Nat) : (s.modCore k f).tract j = s.tract j := rfl
@[simp] theorem State.tract_modParty (k : Nat) (f : Party → Party) (j : Nat) : (s.modParty k f).tract j = s.tract j := rfl
@[simp] theorem State.tract_modLaunch (k : Nat) (f : Launch → Launch) (j : Nat) : (s.modLaunch k f).tract j = s.tract j := rfl
@[simp] theorem State.tract_modQueue (k : Nat) (f : WQueue → WQueue) (j : Nat) : (s.modQueue k f).tract j = s.tract j := rfl
@[simp] theorem State.tract_modVi (k : Nat) (f : Vi → Vi) (j : Nat) : (s.modVi k f).tract j = s.tract j := rfl
@[simp] theorem State.tract_modPort (k : Nat) (f : FabPort → FabPort) (j : Nat) : (s.modPort k f).tract j = s.tract j := rfl
@[simp] theorem State.tract_refresh (j : Nat) : (s.refresh).tract j = s.tract j := rfl
@[simp] theorem State.port_setWave (k : Nat) (w : Wave) (j : Nat) : (s.setWave k w).port j = s.port j := rfl
@[simp] theorem State.port_modWave (k : Nat) (f : Wave → Wave) (j : Nat) : (s.modWave k f).port j = s.port j := rfl
@[simp] theorem State.port_dropWave (k : Nat) (j : Nat) : (s.dropWave k).port j = s.port j := rfl
@[simp] theorem State.port_modCore (k : Nat) (f : Core → Core) (j : Nat) : (s.modCore k f).port j = s.port j := rfl
@[simp] theorem State.port_modParty (k : Nat) (f : Party → Party) (j : Nat) : (s.modParty k f).port j = s.port j := rfl
@[simp] theorem State.port_modLaunch (k : Nat) (f : Launch → Launch) (j : Nat) : (s.modLaunch k f).port j = s.port j := rfl
@[simp] theorem State.port_modQueue (k : Nat) (f : WQueue → WQueue) (j : Nat) : (s.modQueue k f).port j = s.port j := rfl
@[simp] theorem State.port_modVi (k : Nat) (f : Vi → Vi) (j : Nat) : (s.modVi k f).port j = s.port j := rfl
@[simp] theorem State.port_modTract (k : Nat) (f : Tract → Tract) (j : Nat) : (s.modTract k f).port j = s.port j := rfl
@[simp] theorem State.port_refresh (j : Nat) : (s.refresh).port j = s.port j := rfl

end Sys2Proof.Machine
end

