-- ==== Sys2Proof/Laws/Moves.lean ====
section
/-!
SUPPORT. What the shared operations of a move leave, each in one equation.
-/
namespace Sys2Proof.Machine

/-- A move within a bundle that step performs is performed at once. -/
theorem runMove_on {s : State} {p w : Wave} (h : Acts s p w) (i : Instr) (f : State → Wave → State) :
    runMove i s f = .next (f s p) := by
  simp [runMove, h.cur, h.on, h.pre]

theorem popSrc_eq {s : State} {w : Wave} (h : s.cur? = some w) (p : Wave) (m : Mv) :
    popSrc s p m = s.setWave s.cur { w with io := popIo s p m w.io } := by
  have hw : s.wave? s.cur = some w := h
  unfold popSrc popIo
  cases popUnit p m with
  | none => exact (State.setWave_self hw).symm
  | some u =>
    dsimp only
    cases popEntry s p u with
    | none => exact (State.setWave_self hw).symm
    | some e => exact State.modWave_eq _ hw

@[simp] theorem laterLatchA_setWave (s : State) (k : Nat) (v p : Wave) (u : PortUnit) :
    laterLatchA (s.setWave k v) p u = laterLatchA s p u := rfl

@[simp] theorem laterTriggers_setWave (s : State) (k : Nat) (v p : Wave) (u : PortUnit) :
    laterTriggers (s.setWave k v) p u = laterTriggers s p u := rfl

@[simp] theorem trigMask_setWave (s : State) (k : Nat) (v p : Wave) (u : PortUnit) (m : Mv) :
    trigMask (s.setWave k v) p u m = trigMask s p u m := rfl

theorem latchA_setWave (s : State) (p v : Wave) (u : PortUnit) (m : Mv) (x : SVal) :
    latchA (s.setWave s.cur v) p u m x =
      s.setWave s.cur { v with io := v.io.setLatch p.phys u .a (p.active m &&& ~~~ laterLatchA s p u) (x.all p.phys) } := by
  simp [latchA]

/-- The source of a trigger is popped and latched. -/
theorem latched_eq {s : State} {w : Wave} (h : s.cur? = some w) (p : Wave) (u : PortUnit) (m : Mv) :
    latchA (popSrc s p m) p u m (srcVal s p m) = latched s p w u m := by
  rw [popSrc_eq h, latchA_setWave]; rfl

@[simp] theorem popIo_latch (s : State) (p : Wave) (m : Mv) (io : WaveIo) (u : PortUnit) : (popIo s p m io).latch u = io.latch u := by
  unfold popIo
  split
  · rfl
  · split <;> rfl

@[simp] theorem popIo_slatch (s : State) (p : Wave) (m : Mv) (io : WaveIo) (u : PortUnit) : (popIo s p m io).slatch u = io.slatch u := by
  unfold popIo
  split
  · rfl
  · split <;> rfl

@[simp] theorem popIo_flight (s : State) (p : Wave) (m : Mv) (io : WaveIo) : (popIo s p m io).flight = io.flight := by
  unfold popIo
  split
  · rfl
  · split <;> rfl

@[simp] theorem latchIo_b (s : State) (p : Wave) (u : PortUnit) (m : Mv) (io : WaveIo) : ((latchIo s p u m io).latch u).b = (io.latch u).b := by
  simp [latchIo, WaveIo.setLatch, WaveIo.latch]
  exact congrArg UnitLatch.b (popIo_latch s p m io u)

@[simp] theorem latchIo_c (s : State) (p : Wave) (u : PortUnit) (m : Mv) (io : WaveIo) : ((latchIo s p u m io).latch u).c = (io.latch u).c := by
  simp [latchIo, WaveIo.setLatch, WaveIo.latch]
  exact congrArg UnitLatch.c (popIo_latch s p m io u)

@[simp] theorem latchIo_flight (s : State) (p : Wave) (u : PortUnit) (m : Mv) (io : WaveIo) : (latchIo s p u m io).flight = io.flight := by
  simp [latchIo, WaveIo.setLatch]

theorem latchB_latched (s : State) (p w : Wave) (u : PortUnit) (m : Mv) : latchB (latched s p w u m) u = (w.io.latch u).b := by
  simp only [latchB, latched, State.cur?_setWave]
  exact latchIo_b s p u m w.io

theorem latchC_latched (s : State) (p w : Wave) (u : PortUnit) (m : Mv) : latchC (latched s p w u m) u = (w.io.latch u).c := by
  simp only [latchC, latched, State.cur?_setWave]
  exact latchIo_c s p u m w.io

/-- What a trigger of an exposed lane unit leaves (R26, R29). -/
theorem laneTrigger_eq {s : State} {w : Wave} (h : s.cur? = some w) (p : Wave) (u : PortUnit) (m : Mv)
    (f : State → Wave → BitVec 64 → List Lane → List Lane → List Lane → Nat → Lane) :
    laneTrigger u m f s p = s.setWave s.cur { w with io := laneIo s p u m w.io (f s p (trigMask s p u m)) } := by
  unfold laneTrigger
  simp only [latched_eq h, latchB_latched, latchC_latched]
  by_cases h0 : trigMask s p u m = 0
  · have hl : laneIo s p u m w.io (f s p (trigMask s p u m)) = latchIo s p u m w.io := by
      unfold laneIo
      rw [if_pos h0, List.append_nil, ← latchIo_flight s p u m w.io]
    rw [if_pos h0, hl]; rfl
  · rw [if_neg h0]
    unfold laneIo
    simp only [landResult, latched, State.setWave_cur, State.modWave_setWave, State.setWave_slot, latchIo_flight, if_neg h0]

theorem scalar_popped {s : State} {w : Wave} (h : s.cur? = some w) (p : Wave) (u : PortUnit) (m : Mv) (a : Word) :
    (popSrc s p m).modWave (popSrc s p m).cur (fun v => { v with io := v.io.setSlatch u .a a }) =
      s.setWave s.cur (scalared s p w u m a) := by
  rw [popSrc_eq h]; simp [scalared]

/-- What a trigger of CT or SY starts from (R221). -/
theorem scalarTrigger_some {s : State} {w : Wave} (h : s.cur? = some w) {p : Wave} {u : PortUnit} {m : Mv} {a : Word}
    (ha : scalarOp s p s.slot m = some a) (f : State → Wave → Word → State) :
    scalarTrigger u m f s p = f (s.setWave s.cur (scalared s p w u m a)) p a := by
  unfold scalarTrigger
  simp only [ha, scalar_popped h]

theorem scalarTrigger_none {s : State} {w : Wave} (h : s.cur? = some w) {p : Wave} {u : PortUnit} {m : Mv}
    (ha : scalarOp s p s.slot m = none) (f : State → Wave → Word → State) :
    scalarTrigger u m f s p = s.setWave s.cur { w with io := popIo s p m w.io } := by
  unfold scalarTrigger
  simp only [ha, popSrc_eq h]

@[simp] theorem slatchB_setWave (s : State) (v : Wave) (u : PortUnit) : slatchB (s.setWave s.cur v) u = (v.io.slatch u).b := by
  simp [slatchB]

@[simp] theorem scalared_slatch (s : State) (p w : Wave) (u : PortUnit) (m : Mv) (a : Word) :
    ((scalared s p w u m a).io.slatch u).b = (w.io.slatch u).b := by
  simp [scalared, WaveIo.setSlatch, WaveIo.slatch]
  exact congrArg ScalarLatch.b (popIo_slatch s p m w.io u)

/-- What a queued trigger leaves (R23, R26, R28). -/
theorem queuedTrigger_eq {s : State} {w : Wave} (h : s.cur? = some w) (p : Wave) (m : Mv) (op : QOp)
    (prep : State → Wave → Opnds → Opnds) :
    queuedTrigger m op prep s p =
      if trigMask s p op.unit m = 0 then latched s p w op.unit m
      else pushCmd (latched s p w op.unit m) (pushedCmd s p op (prep s p (pushedOps s p w op.unit m))) p.core := by
  unfold queuedTrigger
  simp only [latched_eq h, latchB_latched, latchC_latched]
  split
  · rfl
  · rfl

/-- Every move but SEG is one use of runMove, whose effect does not depend on how the move stands. -/
theorem exec_move (i : Instr) (hm : i.isMove = true) (hs : ∀ m, i ≠ .ctSeg m) :
    ∃ f : State → Wave → State, ∀ t, exec i t = runMove i t f := by
  cases i
  case registerMove m d fill =>
    exact ⟨fun t w => (popSrc t w m).modWave t.cur (writeDst w m d fill.toNat (srcVal t w m)), fun _ => rfl⟩
  case operandPortWrite m u p fill =>
    exact ⟨fun t w => (popSrc t w m).modWave t.cur (writePort w m u p fill.toNat (srcVal t w m)), fun _ => rfl⟩
  case nullSinkMove m => exact ⟨fun t w => popSrc t w m, fun _ => rfl⟩
  case ctBscal m z k => exact ⟨fun t w => transfer m (testScal w z k.toNat) relTarget false t w, fun _ => rfl⟩
  case ctBtab m n => exact ⟨fun t w => startTable (popSrc t w m) w (btabIndex t w t.slot m), fun _ => rfl⟩
  case ctMaskg m =>
    exact ⟨fun t w => match laneOperand t w m with
      | none => popSrc t w m
      | some a => (popSrc t w m).modCur (fun v => { v with io := v.io.setSlatch .ct .a a, exm := w.exm &&& w.guard m }), fun _ => rfl⟩
  case ctSeg m => exact absurd rfl (hs m)
  all_goals first
    | exact ⟨_, fun _ => rfl⟩
    | exact absurd hm (by simp [Instr.isMove, encode])

end Sys2Proof.Machine
end

