-- ==== Sys2Proof/Tests/Slice0.lean ====
section
/-!
SUPPORT. Tests: ill-formed moves that the check refuses, words of every move written out from the encoding tables, worked examples of the spec, and for
every statement concrete states that meet its hypotheses.
-/
namespace Sys2Proof
open Sys2Proof.Machine

/- The tests are elaborated one after another: each evaluates in the kernel, and many waiting at once would reserve a stack each. -/
set_option Elab.async false

/-! Well-formedness: for each check an ill-formed term that it refuses, beside a well-formed neighbour. -/

/-- A move under g0 from a source. -/
def mv (x : Src) : Mv := { inv := false, gidx := 0, src := x }

theorem test_wf_registers :
    (Src.v 95).wf = true ∧ (Src.v 96).wf = false ∧ (Src.s 63).wf = true ∧ (Src.s 64).wf = false ∧ (Src.a 16).wf = false ∧ (Src.g 16).wf = false ∧
    (Src.port .ct).wf = false ∧ (Src.port .sy).wf = true ∧ (Src.spec (.k 8)).wf = false ∧ (Src.limm 5).wf = true ∧ (Src.limm 6).wf = false ∧
    (Dst.v 96).wf = false ∧ (Dst.s 64).wf = false ∧ (Dst.a 16).wf = false ∧ (Dst.g 16).wf = false ∧ (Dst.spec (.k 8)).wf = false ∧
    ({ inv := false, gidx := 16, src := .v 0 } : Mv).wf = false := by decide

theorem test_wf_fills :
    (Instr.registerMove (mv (.v 0)) (.v 0) 4).wf = true ∧ (Instr.registerMove (mv (.v 0)) (.v 0) 5).wf = false ∧
    (Instr.registerMove (mv (.v 0)) (.s 0) 1).wf = false ∧ (Instr.operandPortWrite (mv (.v 0)) .ml .c 4).wf = true ∧
    (Instr.operandPortWrite (mv (.v 0)) .ml .c 5).wf = false ∧ (Instr.operandPortWrite (mv (.v 0)) .sa .c 0).wf = false ∧
    (Instr.operandPortWrite (mv (.v 0)) .sy .b 1).wf = false := by decide

theorem test_wf_types :
    (Instr.iaAdd (mv (.v 0)) false .f32).wf = false ∧ (Instr.iaAbs (mv (.v 0)) false .n32).wf = false ∧ (Instr.mlMadw (mv (.v 0)) .s64).wf = false ∧
    (Instr.mlDot4 (mv (.v 0)) .s16).wf = false ∧ (Instr.shPerm (mv (.v 0)) .s8).wf = false ∧ (Instr.fmFadd (mv (.v 0)) false .rne .s32).wf = false ∧
    (Instr.xsShfl (mv (.v 0)) .f32).wf = true ∧ (Instr.xsMatch (mv (.v 0)) .f32).wf = false ∧ (Instr.sfEx2 (mv (.v 0)) .k8a).wf = false ∧
    (Instr.cvCvt (mv (.v 0)) .f32 .f32 .rne).wf = false ∧ (Instr.cvCvt (mv (.v 0)) .bfp4 .f16 .rne).wf = false ∧
    (Instr.cvCvt (mv (.v 0)) .bfp4 .f32 .rne).wf = true ∧ (Instr.chChain (mv (.v 0)) .pass .pass .relu).wf = false := by decide

theorem test_wf_memory :
    (Instr.ldLdg (mv (.s 0)) .b16 true false).wf = false ∧ (Instr.ldLdg (mv (.s 0)) .b8 false true).wf = false ∧
    (Instr.stStg (mv (.v 0)) .b4 true).wf = false ∧ (Instr.stStg (mv (.a 0)) .b4 true).wf = true ∧
    (Instr.atAdd (mv (.v 0)) .bf16 .sys .sc).wf = false ∧ (Instr.atFadd (mv (.v 0)) .w64 .sys .sc).wf = false ∧
    (Instr.lgAcqn (mv (.v 0)) .wave).wf = false ∧ (Instr.lgAcqn (mv (.v 0)) .sys).wf = false ∧ (Instr.lgAcqn (mv (.v 0)) .pkg).wf = true := by decide

theorem test_wf_btab_guard :
    (Instr.ctBtab (mv (.v 0)) 0).wf = true ∧ (Instr.ctBtab { inv := false, gidx := 1, src := .v 0 } 0).wf = false ∧
    (Instr.ctBtab { inv := true, gidx := 0, src := .v 0 } 0).wf = false := by decide

/-! Decoding: every move of the opcode table, its slot written out from Tables 3.2 to 3.11. -/

/-- Slots that decoding refuses, by name: reserved sources, destinations, ports, operations, modifiers, type codes. -/
theorem test_decode_refuses :
    decodeSlot 0x0060002000#40 = .error .reservedSource ∧ decodeSlot 0x00000C2000#40 = .error .reservedDestination ∧
    decodeSlot 0x0004298000#40 = .error .absentPort ∧ decodeSlot 0x0004400000#40 = .error .reservedOpcode ∧
    decodeSlot 0x0004400020#40 = .error .notAccepted ∧ decodeSlot 0x00040C0005#40 = .error .notAccepted ∧
    decodeSlot 0x000441602B#40 = .error .reservedModifier := by
  refine ⟨?_, ?_, ?_, ?_, ?_, ?_, ?_⟩ <;> rfl

theorem test_decode_moves :
    decodeSlot 0x00040C0001#40 = .ok (.registerMove { inv := false, gidx := 0, src := .v 4 } (.v 0) 1) ∧
    decodeSlot 0xF8040BE004#40 = .ok (.registerMove { inv := true, gidx := 15, src := .v 4 } (.v 95) 4) ∧
    decodeSlot 0x00D217E000#40 = .ok (.registerMove { inv := false, gidx := 0, src := .g 2 } (.s 63) 0) ∧
    decodeSlot 0x03FA19E000#40 = .ok (.registerMove { inv := false, gidx := 0, src := .limm 2 } (.a 15) 0) ∧
    decodeSlot 0x01181B0000#40 = .ok (.registerMove { inv := false, gidx := 0, src := .port .ml } (.g 8) 0) ∧
    decodeSlot 0x0401618000#40 = .ok (.registerMove { inv := false, gidx := 0, src := .imm 1 } (.spec .ec) 0) ∧
    decodeSlot 0x0210232002#40 = .ok (.operandPortWrite { inv := false, gidx := 0, src := .spec .lane } .ml .a 2) ∧
    decodeSlot 0x0085334000#40 = .ok (.operandPortWrite { inv := false, gidx := 0, src := .s 5 } .ct .b 0) ∧
    decodeSlot 0x0085326003#40 = .ok (.operandPortWrite { inv := false, gidx := 0, src := .s 5 } .sf .c 3) ∧
    decodeSlot 0x1918000000#40 = .ok (.nullSinkMove { inv := false, gidx := 3, src := .port .ml }) :=
  ⟨rfl, rfl, rfl, rfl, rfl, rfl, rfl, rfl, rfl, rfl⟩

theorem test_decode_ia :
    decodeSlot 0x080440202E#40 = .ok (.iaAdd { inv := false, gidx := 1, src := .v 4 } true .s32) ∧
    decodeSlot 0x100440004E#40 = .ok (.iaSub { inv := false, gidx := 2, src := .v 4 } false .s32) ∧
    decodeSlot 0x180440206E#40 = .ok (.iaAdds { inv := false, gidx := 3, src := .v 4 } true .s32) ∧
    decodeSlot 0x200440008E#40 = .ok (.iaSubs { inv := false, gidx := 4, src := .v 4 } false .s32) ∧
    decodeSlot 0x28044020AE#40 = .ok (.iaNeg { inv := false, gidx := 5, src := .v 4 } true .s32) ∧
    decodeSlot 0x30044000CE#40 = .ok (.iaNegs { inv := false, gidx := 6, src := .v 4 } false .s32) ∧
    decodeSlot 0x38044020EE#40 = .ok (.iaAbs { inv := false, gidx := 7, src := .v 4 } true .s32) ∧
    decodeSlot 0x400440010E#40 = .ok (.iaAbss { inv := false, gidx := 8, src := .v 4 } false .s32) ∧
    decodeSlot 0x480440212E#40 = .ok (.iaMin { inv := false, gidx := 9, src := .v 4 } true .s32) ∧
    decodeSlot 0x500440014E#40 = .ok (.iaMax { inv := false, gidx := 10, src := .v 4 } false .s32) ∧
    decodeSlot 0x580440216E#40 = .ok (.iaAnd { inv := false, gidx := 11, src := .v 4 } true .s32) ∧
    decodeSlot 0x600440018E#40 = .ok (.iaOr { inv := false, gidx := 12, src := .v 4 } false .s32) ∧
    decodeSlot 0x68044021AE#40 = .ok (.iaXor { inv := false, gidx := 13, src := .v 4 } true .s32) ∧
    decodeSlot 0x70044001CE#40 = .ok (.iaAndn { inv := false, gidx := 14, src := .v 4 } false .s32) ∧
    decodeSlot 0x78044021EE#40 = .ok (.iaNot { inv := false, gidx := 15, src := .v 4 } true .s32) ∧
    decodeSlot 0x000440020E#40 = .ok (.iaCmpeq { inv := false, gidx := 0, src := .v 4 } false .s32) ∧
    decodeSlot 0x080440222E#40 = .ok (.iaCmpne { inv := false, gidx := 1, src := .v 4 } true .s32) ∧
    decodeSlot 0x100440024E#40 = .ok (.iaCmplt { inv := false, gidx := 2, src := .v 4 } false .s32) ∧
    decodeSlot 0x180440226E#40 = .ok (.iaCmple { inv := false, gidx := 3, src := .v 4 } true .s32) ∧
    decodeSlot 0x200440028E#40 = .ok (.iaCmpgt { inv := false, gidx := 4, src := .v 4 } false .s32) ∧
    decodeSlot 0x28044022AE#40 = .ok (.iaCmpge { inv := false, gidx := 5, src := .v 4 } true .s32) ∧
    decodeSlot 0x30044002CE#40 = .ok (.iaSel { inv := false, gidx := 6, src := .v 4 } false .s32) ∧
    decodeSlot 0x38044022EE#40 = .ok (.iaClz { inv := false, gidx := 7, src := .v 4 } true .s32) ∧
    decodeSlot 0x400440030E#40 = .ok (.iaPopc { inv := false, gidx := 8, src := .v 4 } false .s32) ∧
    decodeSlot 0x480440232E#40 = .ok (.iaBrev { inv := false, gidx := 9, src := .v 4 } true .s32) ∧
    decodeSlot 0x500440034E#40 = .ok (.iaAvg { inv := false, gidx := 10, src := .v 4 } false .s32) ∧
    decodeSlot 0x580440236E#40 = .ok (.iaAdc { inv := false, gidx := 11, src := .v 4 } true .s32) ∧
    decodeSlot 0x600440038E#40 = .ok (.iaSbb { inv := false, gidx := 12, src := .v 4 } false .s32) :=
  ⟨rfl, rfl, rfl, rfl, rfl, rfl, rfl, rfl, rfl, rfl, rfl, rfl, rfl, rfl, rfl, rfl, rfl, rfl, rfl, rfl, rfl, rfl, rfl, rfl, rfl, rfl, rfl, rfl⟩

theorem test_decode_ml :
    decodeSlot 0x000440602E#40 = .ok (.mlMul { inv := false, gidx := 0, src := .v 4 } .s32) ∧
    decodeSlot 0x000440604E#40 = .ok (.mlMulhi { inv := false, gidx := 0, src := .v 4 } .s32) ∧
    decodeSlot 0x000440606E#40 = .ok (.mlMad { inv := false, gidx := 0, src := .v 4 } .s32) ∧
    decodeSlot 0x000440608E#40 = .ok (.mlMadw { inv := false, gidx := 0, src := .v 4 } .s32) ∧
    decodeSlot 0x00044060A9#40 = .ok (.mlDot4 { inv := false, gidx := 0, src := .v 4 } .n8) :=
  ⟨rfl, rfl, rfl, rfl, rfl⟩

theorem test_decode_sh :
    decodeSlot 0xA00440402F#40 = .ok (.shShl { inv := true, gidx := 4, src := .v 4 } .n32) ∧
    decodeSlot 0xA00440404F#40 = .ok (.shShr { inv := true, gidx := 4, src := .v 4 } .n32) ∧
    decodeSlot 0xA00440406F#40 = .ok (.shSar { inv := true, gidx := 4, src := .v 4 } .n32) ∧
    decodeSlot 0xA00440408F#40 = .ok (.shRol { inv := true, gidx := 4, src := .v 4 } .n32) ∧
    decodeSlot 0xA0044040AF#40 = .ok (.shRor { inv := true, gidx := 4, src := .v 4 } .n32) ∧
    decodeSlot 0xA0044040CF#40 = .ok (.shBfe { inv := true, gidx := 4, src := .v 4 } .n32) ∧
    decodeSlot 0xA0044040EF#40 = .ok (.shBfi { inv := true, gidx := 4, src := .v 4 } .n32) ∧
    decodeSlot 0xA00440410F#40 = .ok (.shFunl { inv := true, gidx := 4, src := .v 4 } .n32) ∧
    decodeSlot 0xA004404129#40 = .ok (.shPerm { inv := true, gidx := 4, src := .v 4 } .n8) :=
  ⟨rfl, rfl, rfl, rfl, rfl, rfl, rfl, rfl, rfl⟩

theorem test_decode_fm :
    decodeSlot 0x000440BC21#40 = .ok (.fmFadd { inv := false, gidx := 0, src := .v 4 } true .dyn .bf16) ∧
    decodeSlot 0x0004409041#40 = .ok (.fmFsub { inv := false, gidx := 0, src := .v 4 } false .sr .bf16) ∧
    decodeSlot 0x000440BC61#40 = .ok (.fmFmul { inv := false, gidx := 0, src := .v 4 } true .dyn .bf16) ∧
    decodeSlot 0x0004409081#40 = .ok (.fmFma { inv := false, gidx := 0, src := .v 4 } false .sr .bf16) ∧
    decodeSlot 0x000440BCA1#40 = .ok (.fmFnma { inv := false, gidx := 0, src := .v 4 } true .dyn .bf16) ∧
    decodeSlot 0x00044090C1#40 = .ok (.fmFrint { inv := false, gidx := 0, src := .v 4 } false .sr .bf16) ∧
    decodeSlot 0x000440BCE1#40 = .ok (.fmFscale { inv := false, gidx := 0, src := .v 4 } true .dyn .bf16) ∧
    decodeSlot 0x0004408101#40 = .ok (.fmFmin { inv := false, gidx := 0, src := .v 4 } false .bf16) ∧
    decodeSlot 0x000440A121#40 = .ok (.fmFmax { inv := false, gidx := 0, src := .v 4 } true .bf16) ∧
    decodeSlot 0x0004408141#40 = .ok (.fmFminp { inv := false, gidx := 0, src := .v 4 } false .bf16) ∧
    decodeSlot 0x000440A161#40 = .ok (.fmFmaxp { inv := false, gidx := 0, src := .v 4 } true .bf16) ∧
    decodeSlot 0x0004409981#40 = .ok (.fmFcmp { inv := false, gidx := 0, src := .v 4 } false .un .bf16) ∧
    decodeSlot 0x000440A1A1#40 = .ok (.fmFclass { inv := false, gidx := 0, src := .v 4 } true .bf16) ∧
    decodeSlot 0x00044089C1#40 = .ok (.fmFsgn { inv := false, gidx := 0, src := .v 4 } false .nabs .bf16) :=
  ⟨rfl, rfl, rfl, rfl, rfl, rfl, rfl, rfl, rfl, rfl, rfl, rfl, rfl, rfl⟩

theorem test_decode_chCv :
    decodeSlot 0x000440D187#40 = .ok (.chChain { inv := false, gidx := 0, src := .v 4 } .min .rbf .max) ∧
    decodeSlot 0x000440E003#40 = .ok (.cvCvt { inv := false, gidx := 0, src := .v 4 } .k8a .f32 .rne) ∧
    decodeSlot 0x000440EC49#40 = .ok (.cvCvt { inv := false, gidx := 0, src := .v 4 } .n8 .f16 .rdn) :=
  ⟨rfl, rfl, rfl⟩

theorem test_decode_xs :
    decodeSlot 0x080441002E#40 = .ok (.xsShfl { inv := false, gidx := 1, src := .v 4 } .s32) ∧
    decodeSlot 0x100441004E#40 = .ok (.xsShflup { inv := false, gidx := 2, src := .v 4 } .s32) ∧
    decodeSlot 0x180441006E#40 = .ok (.xsShfldn { inv := false, gidx := 3, src := .v 4 } .s32) ∧
    decodeSlot 0x200441008E#40 = .ok (.xsShflx { inv := false, gidx := 4, src := .v 4 } .s32) ∧
    decodeSlot 0x28044100AE#40 = .ok (.xsBcast { inv := false, gidx := 5, src := .v 4 } .s32) ∧
    decodeSlot 0x30044100CE#40 = .ok (.xsVoteany { inv := false, gidx := 6, src := .v 4 } .s32) ∧
    decodeSlot 0x38044100EE#40 = .ok (.xsVoteall { inv := false, gidx := 7, src := .v 4 } .s32) ∧
    decodeSlot 0x400441010E#40 = .ok (.xsBallot { inv := false, gidx := 8, src := .v 4 } .s32) ∧
    decodeSlot 0x480441012E#40 = .ok (.xsRedadd { inv := false, gidx := 9, src := .v 4 } .s32) ∧
    decodeSlot 0x500441014E#40 = .ok (.xsRedmax { inv := false, gidx := 10, src := .v 4 } .s32) ∧
    decodeSlot 0x580441016E#40 = .ok (.xsRedmin { inv := false, gidx := 11, src := .v 4 } .s32) ∧
    decodeSlot 0x600441018E#40 = .ok (.xsScanadd { inv := false, gidx := 12, src := .v 4 } .s32) ∧
    decodeSlot 0x68044101AE#40 = .ok (.xsMatch { inv := false, gidx := 13, src := .v 4 } .s32) :=
  ⟨rfl, rfl, rfl, rfl, rfl, rfl, rfl, rfl, rfl, rfl, rfl, rfl, rfl⟩

theorem test_decode_sa :
    decodeSlot 0x0085412020#40 = .ok (.saAdd { inv := false, gidx := 0, src := .s 5 }) ∧
    decodeSlot 0x0085412040#40 = .ok (.saSub { inv := false, gidx := 0, src := .s 5 }) ∧
    decodeSlot 0x0085412060#40 = .ok (.saAnd { inv := false, gidx := 0, src := .s 5 }) ∧
    decodeSlot 0x0085412080#40 = .ok (.saOr { inv := false, gidx := 0, src := .s 5 }) ∧
    decodeSlot 0x00854120A0#40 = .ok (.saXor { inv := false, gidx := 0, src := .s 5 }) ∧
    decodeSlot 0x00854120C0#40 = .ok (.saShl { inv := false, gidx := 0, src := .s 5 }) ∧
    decodeSlot 0x00854120E0#40 = .ok (.saShr { inv := false, gidx := 0, src := .s 5 }) ∧
    decodeSlot 0x0085412100#40 = .ok (.saSar { inv := false, gidx := 0, src := .s 5 }) ∧
    decodeSlot 0x0085412120#40 = .ok (.saMul { inv := false, gidx := 0, src := .s 5 }) ∧
    decodeSlot 0x0085412145#40 = .ok (.saCmp { inv := false, gidx := 0, src := .s 5 } false .ge) ∧
    decodeSlot 0x0085412160#40 = .ok (.saMov { inv := false, gidx := 0, src := .s 5 }) ∧
    decodeSlot 0x0085412180#40 = .ok (.saLi { inv := false, gidx := 0, src := .s 5 }) ∧
    decodeSlot 0x00854121A8#40 = .ok (.saMin { inv := false, gidx := 0, src := .s 5 } true) ∧
    decodeSlot 0x00854121C0#40 = .ok (.saMax { inv := false, gidx := 0, src := .s 5 } false) :=
  ⟨rfl, rfl, rfl, rfl, rfl, rfl, rfl, rfl, rfl, rfl, rfl, rfl, rfl, rfl⟩

theorem test_decode_ldSt :
    decodeSlot 0x00C341402F#40 = .ok (.ldLdg { inv := false, gidx := 0, src := .a 3 } .b8 true true) ∧
    decodeSlot 0x00C341404F#40 = .ok (.ldLds { inv := false, gidx := 0, src := .a 3 } .b8 true true) ∧
    decodeSlot 0x00C341406F#40 = .ok (.ldLdl { inv := false, gidx := 0, src := .a 3 } .b8 true true) ∧
    decodeSlot 0x00C341408F#40 = .ok (.ldLdb { inv := false, gidx := 0, src := .a 3 } .b8 true true) ∧
    decodeSlot 0x00C34140AF#40 = .ok (.ldLdsc { inv := false, gidx := 0, src := .a 3 } .b8 true true) ∧
    decodeSlot 0x00C34140CF#40 = .ok (.ldLdnt { inv := false, gidx := 0, src := .a 3 } .b8 true true) ∧
    decodeSlot 0x0004416030#40 = .ok (.stStg { inv := false, gidx := 0, src := .v 4 } .b16 false) ∧
    decodeSlot 0x0004416050#40 = .ok (.stSts { inv := false, gidx := 0, src := .v 4 } .b16 false) ∧
    decodeSlot 0x0004416070#40 = .ok (.stStsc { inv := false, gidx := 0, src := .v 4 } .b16 false) ∧
    decodeSlot 0x0004416090#40 = .ok (.stStnt { inv := false, gidx := 0, src := .v 4 } .b16 false) :=
  ⟨rfl, rfl, rfl, rfl, rfl, rfl, rfl, rfl, rfl, rfl⟩

theorem test_decode_at :
    decodeSlot 0x000441842E#40 = .ok (.atAdd { inv := false, gidx := 0, src := .v 4 } .w64 .tract .acquire) ∧
    decodeSlot 0x000441844E#40 = .ok (.atSub { inv := false, gidx := 0, src := .v 4 } .w64 .tract .acquire) ∧
    decodeSlot 0x000441846E#40 = .ok (.atMin { inv := false, gidx := 0, src := .v 4 } .w64 .tract .acquire) ∧
    decodeSlot 0x000441848E#40 = .ok (.atMax { inv := false, gidx := 0, src := .v 4 } .w64 .tract .acquire) ∧
    decodeSlot 0x00044184AE#40 = .ok (.atMinu { inv := false, gidx := 0, src := .v 4 } .w64 .tract .acquire) ∧
    decodeSlot 0x00044184CE#40 = .ok (.atMaxu { inv := false, gidx := 0, src := .v 4 } .w64 .tract .acquire) ∧
    decodeSlot 0x00044184EE#40 = .ok (.atAnd { inv := false, gidx := 0, src := .v 4 } .w64 .tract .acquire) ∧
    decodeSlot 0x000441850E#40 = .ok (.atOr { inv := false, gidx := 0, src := .v 4 } .w64 .tract .acquire) ∧
    decodeSlot 0x000441852E#40 = .ok (.atXor { inv := false, gidx := 0, src := .v 4 } .w64 .tract .acquire) ∧
    decodeSlot 0x000441854E#40 = .ok (.atXchg { inv := false, gidx := 0, src := .v 4 } .w64 .tract .acquire) ∧
    decodeSlot 0x000441856E#40 = .ok (.atCas { inv := false, gidx := 0, src := .v 4 } .w64 .tract .acquire) ∧
    decodeSlot 0x000441858E#40 = .ok (.atInc { inv := false, gidx := 0, src := .v 4 } .w64 .tract .acquire) ∧
    decodeSlot 0x00044189AE#40 = .ok (.atFadd { inv := false, gidx := 0, src := .v 4 } .bf16 .tract .acquire) :=
  ⟨rfl, rfl, rfl, rfl, rfl, rfl, rfl, rfl, rfl, rfl, rfl, rfl, rfl⟩

theorem test_decode_lgBa :
    decodeSlot 0x040141A038#40 = .ok (.lgPub { inv := false, gidx := 0, src := .imm 1 } .sys) ∧
    decodeSlot 0x040141A058#40 = .ok (.lgAcq { inv := false, gidx := 0, src := .imm 1 } .sys) ∧
    decodeSlot 0x040141A068#40 = .ok (.lgAcqn { inv := false, gidx := 0, src := .imm 1 } .sheet) ∧
    decodeSlot 0x040141A080#40 = .ok (.lgDrain { inv := false, gidx := 0, src := .imm 1 }) ∧
    decodeSlot 0x040141A0A0#40 = .ok (.lgLogst { inv := false, gidx := 0, src := .imm 1 }) ∧
    decodeSlot 0x008541C020#40 = .ok (.baBinit { inv := false, gidx := 0, src := .s 5 }) ∧
    decodeSlot 0x008541C040#40 = .ok (.baArrive { inv := false, gidx := 0, src := .s 5 }) ∧
    decodeSlot 0x008541C060#40 = .ok (.baWait { inv := false, gidx := 0, src := .s 5 }) ∧
    decodeSlot 0x008541C080#40 = .ok (.baTest { inv := false, gidx := 0, src := .s 5 }) ∧
    decodeSlot 0x008541C0A0#40 = .ok (.baPbar { inv := false, gidx := 0, src := .s 5 }) ∧
    decodeSlot 0x008541C0CF#40 = .ok (.baCbinit { inv := false, gidx := 0, src := .s 5 } 15) ∧
    decodeSlot 0x008541C0EF#40 = .ok (.baCbresv { inv := false, gidx := 0, src := .s 5 } 15) ∧
    decodeSlot 0x008541C10F#40 = .ok (.baCbfill { inv := false, gidx := 0, src := .s 5 } 15) ∧
    decodeSlot 0x008541C12F#40 = .ok (.baCbtake { inv := false, gidx := 0, src := .s 5 } 15) ∧
    decodeSlot 0x008541C14F#40 = .ok (.baCbfree { inv := false, gidx := 0, src := .s 5 } 15) :=
  ⟨rfl, rfl, rfl, rfl, rfl, rfl, rfl, rfl, rfl, rfl, rfl, rfl, rfl, rfl, rfl⟩

theorem test_decode_mx :
    decodeSlot 0x000441E020#40 = .ok (.mxCfg { inv := false, gidx := 0, src := .v 4 }) ∧
    decodeSlot 0x000441F840#40 = .ok (.mxLdb { inv := false, gidx := 0, src := .v 4 } 3) ∧
    decodeSlot 0x000441E869#40 = .ok (.mxMmq { inv := false, gidx := 0, src := .v 4 } 1 9) ∧
    decodeSlot 0x000441E889#40 = .ok (.mxMmw { inv := false, gidx := 0, src := .v 4 } 1 9) ∧
    decodeSlot 0x000441E0AF#40 = .ok (.mxZacc { inv := false, gidx := 0, src := .v 4 } 15) ∧
    decodeSlot 0x000441E0CF#40 = .ok (.mxStacc { inv := false, gidx := 0, src := .v 4 } 15) ∧
    decodeSlot 0x000441E0EF#40 = .ok (.mxRdacc { inv := false, gidx := 0, src := .v 4 } 15) ∧
    decodeSlot 0x000441E100#40 = .ok (.mxKat { inv := false, gidx := 0, src := .v 4 }) ∧
    decodeSlot 0x000441E120#40 = .ok (.mxQstat { inv := false, gidx := 0, src := .v 4 }) :=
  ⟨rfl, rfl, rfl, rfl, rfl, rfl, rfl, rfl, rfl⟩

theorem test_decode_gaSfSx :
    decodeSlot 0x0004420020#40 = .ok (.gaGidx { inv := false, gidx := 0, src := .v 4 }) ∧
    decodeSlot 0x0004420040#40 = .ok (.gaGrows { inv := false, gidx := 0, src := .v 4 }) ∧
    decodeSlot 0x0004420060#40 = .ok (.gaGstat { inv := false, gidx := 0, src := .v 4 }) ∧
    decodeSlot 0x0004424022#40 = .ok (.sfEx2 { inv := false, gidx := 0, src := .v 4 } .f16) ∧
    decodeSlot 0x0004424042#40 = .ok (.sfLg2 { inv := false, gidx := 0, src := .v 4 } .f16) ∧
    decodeSlot 0x0004424062#40 = .ok (.sfRcp { inv := false, gidx := 0, src := .v 4 } .f16) ∧
    decodeSlot 0x0004424082#40 = .ok (.sfRsq { inv := false, gidx := 0, src := .v 4 } .f16) ∧
    decodeSlot 0x00044240A2#40 = .ok (.sfSqrt { inv := false, gidx := 0, src := .v 4 } .f16) ∧
    decodeSlot 0x00044240C2#40 = .ok (.sfSinpi { inv := false, gidx := 0, src := .v 4 } .f16) ∧
    decodeSlot 0x00044240E2#40 = .ok (.sfCospi { inv := false, gidx := 0, src := .v 4 } .f16) ∧
    decodeSlot 0x0004424102#40 = .ok (.sfTanh { inv := false, gidx := 0, src := .v 4 } .f16) ∧
    decodeSlot 0x0004424122#40 = .ok (.sfErf { inv := false, gidx := 0, src := .v 4 } .f16) ∧
    decodeSlot 0x0004422020#40 = .ok (.sxCopy2d { inv := false, gidx := 0, src := .v 4 }) ∧
    decodeSlot 0x0004422040#40 = .ok (.sxCopy2dw { inv := false, gidx := 0, src := .v 4 }) ∧
    decodeSlot 0x000442206E#40 = .ok (.sxLoopcopy { inv := false, gidx := 0, src := .v 4 } 14) ∧
    decodeSlot 0x0004422080#40 = .ok (.sxStop { inv := false, gidx := 0, src := .v 4 }) ∧
    decodeSlot 0x00044220A7#40 = .ok (.sxLandresv { inv := false, gidx := 0, src := .v 4 } 7) ∧
    decodeSlot 0x00044220C7#40 = .ok (.sxLandsend { inv := false, gidx := 0, src := .v 4 } 7) ∧
    decodeSlot 0x00044220E7#40 = .ok (.sxLandclr { inv := false, gidx := 0, src := .v 4 } 7) ∧
    decodeSlot 0x0004422107#40 = .ok (.sxZoneinit { inv := false, gidx := 0, src := .v 4 } 7) ∧
    decodeSlot 0x0004422120#40 = .ok (.sxWaitc { inv := false, gidx := 0, src := .v 4 }) :=
  ⟨rfl, rfl, rfl, rfl, rfl, rfl, rfl, rfl, rfl, rfl, rfl, rfl, rfl, rfl, rfl, rfl, rfl, rfl, rfl, rfl, rfl⟩

theorem test_decode_ct :
    decodeSlot 0x0401426020#40 = .ok (.ctBra { inv := false, gidx := 0, src := .imm 1 }) ∧
    decodeSlot 0x0401426040#40 = .ok (.ctBany { inv := false, gidx := 0, src := .imm 1 }) ∧
    decodeSlot 0x0401426060#40 = .ok (.ctBall { inv := false, gidx := 0, src := .imm 1 }) ∧
    decodeSlot 0x0401426080#40 = .ok (.ctBnone { inv := false, gidx := 0, src := .imm 1 }) ∧
    decodeSlot 0x04014260AF#40 = .ok (.ctBscal { inv := false, gidx := 0, src := .imm 1 } true 7) ∧
    decodeSlot 0x04014260C0#40 = .ok (.ctCall { inv := false, gidx := 0, src := .imm 1 }) ∧
    decodeSlot 0x04014260E0#40 = .ok (.ctRet { inv := false, gidx := 0, src := .imm 1 }) ∧
    decodeSlot 0x0004426103#40 = .ok (.ctBtab { inv := false, gidx := 0, src := .v 4 } 3) ∧
    decodeSlot 0x0401426120#40 = .ok (.ctLoop { inv := false, gidx := 0, src := .imm 1 }) ∧
    decodeSlot 0x0401426140#40 = .ok (.ctAllon { inv := false, gidx := 0, src := .imm 1 }) ∧
    decodeSlot 0x0401426160#40 = .ok (.ctAlloff { inv := false, gidx := 0, src := .imm 1 }) ∧
    decodeSlot 0x0401426180#40 = .ok (.ctMaskg { inv := false, gidx := 0, src := .imm 1 }) ∧
    decodeSlot 0x04014261A0#40 = .ok (.ctMasks { inv := false, gidx := 0, src := .imm 1 }) ∧
    decodeSlot 0x04014261C0#40 = .ok (.ctSeg { inv := false, gidx := 0, src := .imm 1 }) ∧
    decodeSlot 0x04014261E0#40 = .ok (.ctPhase { inv := false, gidx := 0, src := .imm 1 }) ∧
    decodeSlot 0x0401426200#40 = .ok (.ctRoute { inv := false, gidx := 0, src := .imm 1 }) ∧
    decodeSlot 0x0401426220#40 = .ok (.ctYield { inv := false, gidx := 0, src := .imm 1 }) ∧
    decodeSlot 0x0401426240#40 = .ok (.ctExit { inv := false, gidx := 0, src := .imm 1 }) ∧
    decodeSlot 0x0401426260#40 = .ok (.ctWaite { inv := false, gidx := 0, src := .imm 1 }) :=
  ⟨rfl, rfl, rfl, rfl, rfl, rfl, rfl, rfl, rfl, rfl, rfl, rfl, rfl, rfl, rfl, rfl, rfl, rfl, rfl⟩

theorem test_decode_sy :
    decodeSlot 0x0085428020#40 = .ok (.syTrap { inv := false, gidx := 0, src := .s 5 }) ∧
    decodeSlot 0x0085428040#40 = .ok (.syRett { inv := false, gidx := 0, src := .s 5 }) ∧
    decodeSlot 0x0085428060#40 = .ok (.syCsrr { inv := false, gidx := 0, src := .s 5 }) ∧
    decodeSlot 0x0085428080#40 = .ok (.syCsrw { inv := false, gidx := 0, src := .s 5 }) ∧
    decodeSlot 0x00854280A0#40 = .ok (.syCsrs { inv := false, gidx := 0, src := .s 5 }) ∧
    decodeSlot 0x00854280C0#40 = .ok (.syCsrc { inv := false, gidx := 0, src := .s 5 }) ∧
    decodeSlot 0x00854280E0#40 = .ok (.syIcinv { inv := false, gidx := 0, src := .s 5 }) ∧
    decodeSlot 0x0085428100#40 = .ok (.syFbar { inv := false, gidx := 0, src := .s 5 }) ∧
    decodeSlot 0x0085428121#40 = .ok (.syPref { inv := false, gidx := 0, src := .s 5 } true) ∧
    decodeSlot 0x0085428140#40 = .ok (.syLaunch { inv := false, gidx := 0, src := .s 5 }) ∧
    decodeSlot 0x0085428160#40 = .ok (.sySleep { inv := false, gidx := 0, src := .s 5 }) ∧
    decodeSlot 0x0085428180#40 = .ok (.syQfence { inv := false, gidx := 0, src := .s 5 }) ∧
    decodeSlot 0x00854281A0#40 = .ok (.syRdv { inv := false, gidx := 0, src := .s 5 }) ∧
    decodeSlot 0x00854281C0#40 = .ok (.syWheelq { inv := false, gidx := 0, src := .s 5 }) :=
  ⟨rfl, rfl, rfl, rfl, rfl, rfl, rfl, rfl, rfl, rfl, rfl, rfl, rfl, rfl⟩

/-! The manual's worked examples. -/

/-- R3: core 0x265 has linear number 397. -/
theorem test_core_linear : coreLinear 0x265 = some 397 := by decide

/-- Table 15.6: one address under the three placement modes. -/
theorem test_locate :
    locateMode 0 0x6100001340 = (8, 0x100001340) ∧ locateMode 1 0x6100001340 = (11, 0x100000440) ∧ locateMode 2 0x6100001340 = (3, 0x100100140) := by
  decide

/-- R225: LI builds the reset value of FPC. -/
theorem test_li : saResult .li 0x5EED000100#64 0#64 = 0x5EED000100000000#64 ∧ Config.fpcReset = 0x5EED000100000000#64 := by decide

/-- FPC at its reset value: nearest even, no overflow to NaN; bundle 0, slot 0, lane 0. -/
def fx : FpCtx := FpCtx.mk' Config.fpcReset 0 0 0

/-- The narrowing conversion into group 1 (R132): 1.0, -2.5, 300.0 and NaN become 0x40, 0xCA, 0x7F and 0x80 in bytes 1, 5, 9 and 13. -/
theorem test_cvt_k8a :
    cvtLane .k8a .f32 (Rm.mode .rne Config.fpcReset) fx 0x7FC0000043960000C02000003F800000#128 1#128 0#128 =
      0x0000800000007F000000CA0000004000#128 := by decide

/-- Table 4.4: v6 and v10 of the widening example, and v11. -/
theorem test_madw :
    mlLane .madw .s16 0x00080007000600050004000300020001#128 0x03E8000000040004FFFD0002000AFFFF#128 0#128 =
      0x000000000000001400000006FFFFFFFF#128 ∧
    shLane .shr .n64 0x00080007000600050004000300020001#128 0x00000000000000100000000000000010#128 0#128 =
      0x00000008000700060000000400030002#128 ∧
    mlLane .madw .s16 0x00000008000700060000000400030002#128 0x000003E8000000040000FFFD0002000A#128
      0x00000001000000010000000100000001#128 = 0x00001F4100000019FFFFFFF500000015#128 := by decide

/-- R71: a chain rounds twice and gives +0 where a fused multiply-add gives -2^-46. -/
theorem test_chain_and_fma :
    chainElem .mulb .addc .relu fx 0 0x3F800001 0x3F7FFFFE 0xBF800000 = 0 ∧
    fmElem .fma (fmtOf .f32) (Rm.mode .rne Config.fpcReset) fx 0 0x3F800001 0x3F7FFFFE 0xBF800000 = 0xA8800000 := by decide

/-- Table 5.11: a phase counter that wraps, steps 1 to 5, and the distances of the two waiters. -/
theorem test_barrier :
    let b1 := ((Bar.init 1 0xFFFE 8192).credit false 8192).1
    let b2 := (b1.credit true 0).1
    let b4 := ((b2.credit true 0).1.credit false 8192).1
    let b5 := (b4.credit true 0).1
    (b1.phase = 0xFFFE ∧ b1.aleft = 1 ∧ b1.bleft = 0) ∧ (b2.phase = 0xFFFF ∧ b2.aleft = 1 ∧ b2.bleft = 8192) ∧
    (b4.phase = 0 ∧ b4.aleft = 1 ∧ b4.bleft = 8192) ∧ (b5.phase = 0 ∧ b5.aleft = 0 ∧ b5.bleft = 8192 ∧ b5.extra = false) ∧
    b4.ahead 0xFFFE = 2 ∧ b5.ahead 1 = -1 := by decide

/-- R191: 300.5 times 0.5 in K8A is 144, code 0x79. -/
theorem test_stacc : staccElem Config.fpcReset .k8a (Rm.mode .rne Config.fpcReset) 0x3F000000 0x43964000 fx.at' 0 = 0x79 := by decide

/-- R220: the scan over the lanes that take part, lane 2 left out. -/
theorem test_scanadd :
    let a : List Lane := [5, 7, 100, 0xFFFFFFFE#128, 10]
    [0, 1, 3, 4].map (fun L => (xsLane .scanadd .s32 Config.fpcReset 0 0 32 0b11011#64 a [] L).toNat % 2 ^ 32) = [5, 12, 10, 20] := by decide

/-- R72: the tree of a floating reduction. -/
theorem test_redadd_tree :
    let a : List Lane := [0x4B800000#128, 0x3F800000#128, 0x3F800000#128, 0xCB800000#128]
    (xsLane (.red .add) .f32 Config.fpcReset 0 0 32 0xFFFFFFFF#64 a [] 0).toNat % 2 ^ 32 = 0x3F800000 := by decide

/-- Table 5.7: four lanes adding to one word of 2^24. -/
theorem test_fadd_home :
    (atFold .fadd .w32 [(0, 0x3F800000#128), (1, 0x3F800000#128), (2, 0x40000000#128), (3, 0x3F000000#128)] 0x4B800000).2.map (fun e => e.2) =
      [0x4B800000, 0x4B800000, 0x4B800000, 0x4B800001] := by decide

/-- R68: the products 2^24, 1 and -2^24 of one chunk sum exactly to 1. -/
theorem test_chunk :
    accAdd 0 (chunkCode [fp32.value 0x4B800000, fp32.value 0x3F800000, fp32.value 0xCB800000]) = 0x3F800000#32 := by decide

/-! Witnesses: concrete states that meet the hypotheses of the statements, clause by clause. -/

/-- One wave of core 0, its launch and party, nothing in flight. -/
def st : State :=
  { State.reset with
    launches := [(0, bareLaunch)]
    parties := [(0, bareParty)]
    waves := [(0, bareWave)]
    cores := [(0, { Core.reset with tlb := [bareTlb], running := some 0 })]
    mgmt := { Mgmt.reset with powered := true, stage := 4 }
    turn := [0] }

/-- The wave within a bundle. -/
def act (w : Wave) : State := { st with waves := [(0, w)], ib := { Issue.idle with on := true }, pre := some w }

theorem wit_acts (w : Wave) : Acts (act w) w w := ⟨rfl, rfl, rfl⟩

theorem wit_registerWrites :
    bareWave.phys = bareWave.phys ∧ 31 < bareWave.phys ∧ (bareWave.active (mv (.s 0))).getLsbD 31 = true ∧
    (SVal.scalar 7#64).word bareWave (mv (.s 0)) = some 7#64 ∧
    (SVal.scalar 7#64).word bareWave { inv := true, gidx := 0, src := .s 0 } = none := by decide

theorem wit_laneTriggers (m : Mv) :
    iaOf (.iaAdd m true .s8) = some (m, true, .s8, .add) ∧ mlShOf (.mlMad m .s32) = some (m, .ml, mlLane .mad .s32) ∧
    fmOf bareWave.fpc (.fmFadd m false .dyn .f32) = some (m, false, .f32, fmElem .fadd (fmtOf .f32) (Rm.mode .dyn bareWave.fpc)) ∧
    xsOf (.xsMatch m .s64) = some (m, .s64, .matchOp) ∧ saOf (.saLi m) = some (m, .li) := ⟨rfl, rfl, rfl, rfl, rfl⟩

/-- A result of IA0 triggered at bundle 3. -/
def fl : Flight := { u := 0, slot := 0, t := 3, bound := 1, mask := 1, vals := [5] }

theorem wit_resultLanding :
    0 < 32 ∧ (∀ f ∈ ({ WaveIo.start with flight := [fl] } : WaveIo).flight, 3 < f.t + f.bound) ∧
    ({ WaveIo.start with flight := [fl] } : WaveIo).flight = [fl] ∧ fl.t + fl.bound ≤ 4 ∧ st.wave? 0 = some bareWave :=
  ⟨by decide, by decide, rfl, by decide, rfl⟩

theorem wit_laneElements :
    ((IaOp.negs, -ETy.read .s8 0x80) ∈ [(IaOp.negs, -ETy.read .s8 0x80)] ∧ ETy.imax .s8 < -ETy.read .s8 0x80) ∧
    (ETy.imin .s8 ≤ ((ETy.read .s8 0x81).natAbs : Int) ∧ ((ETy.read .s8 0x81).natAbs : Int) ≤ ETy.imax .s8) ∧ ETy.imax .s8 < ((ETy.read .s8 0x80).natAbs : Int) ∧
    (15 < 128 / ETy.width .s8 ∧ 7 < 64 / ETy.width .s8 ∧ ETy.width .s8 = 8 ∧ 3 < 4) ∧ (elem 8 (7 : Lane) 0 % 256 < 8 ∧ 8 ≤ elem 8 (8 : Lane) 0 % 256) ∧
    (ETy.signed .n8 = false ∧ ETy.signed .s8 = true) ∧ 0 < min (bits (0x107 : Nat) 15 8) (8 - min (bits (0x107 : Nat) 7 0) 8) ∧
    min (bits (0x108 : Nat) 15 8) (8 - min (bits (0x108 : Nat) 7 0) 8) = 0 ∧ ((63 : Word).toNat % 256 < 64 ∧ 64 ≤ (64 : Word).toNat % 256) := by
  refine ⟨⟨?_, ?_⟩, ⟨?_, ?_⟩, ?_, ⟨?_, ?_, ?_, ?_⟩, ⟨?_, ?_⟩, ⟨?_, ?_⟩, ?_, ?_, ?_, ?_⟩ <;> decide

theorem wit_floatElements :
    (0 : Nat) < 3 ∧ ETy.inF .f32 = true ∧ (fmtOf .k8a).narrow = true ∧ 0x3F800000 < 2 ^ (fmtOf .f32).w ∧ ((fmtOf .f32).value 0x3F800000).isNan = false ∧
    ((fmtOf .f32).value 0x7FC00000).isNan = true ∧ fpcFin bareWave.fpc = false ∧ fpcFres bareWave.fpc = false ∧ (fmtOf .f32).isSub 0x3F800000 = false ∧
    (XVal.inf true).isNan = false ∧ ((RMode.rup = .rup ∧ true = true) ∨ (RMode.rup = .rdn ∧ true = false)) := by
  refine ⟨?_, ?_, ?_, ?_, ?_, ?_, ?_, ?_, ?_, ?_, ?_⟩ <;> decide

theorem wit_chainAndConvert :
    (ETy.isInt .s16 = true ∧ ETy.isInt .s8 = true ∧ ETy.isBfp .s16 = false) ∧ (ETy.imin .s8 ≤ ETy.read .s16 127 ∧ ETy.read .s16 127 ≤ ETy.imax .s8) ∧
    ETy.imax .s8 < ETy.read .s16 128 ∧ ETy.read .s16 0x8000 < ETy.imin .s8 ∧ (fp32.value 0x7FC00000).isNan = true ∧ fp32.value 0x7F800000 = .inf false ∧
    fp32.value 0xFF800000 = .inf true ∧ (0xFFFF < 2 ^ 16) ∧ ETy.width .s8 < ETy.width .s16 ∧ ETy.width .s16 = ETy.width .n16 ∧ 7 < 128 / ETy.width .s16 ∧
    (fp32.value 0x3F800000).isNan = false := by
  refine ⟨⟨?_, ?_, ?_⟩, ⟨?_, ?_⟩, ?_, ?_, ?_, ?_, ?_, ?_, ?_, ?_, ?_, ?_⟩ <;> decide

theorem wit_crossElements :
    (31 : Nat) < 32 ∧ (63 : Nat) < 64 ∧ (∀ J, (2 : BitVec 64).getLsbD J = true → J < 32) ∧ lowest 2 = some 1 ∧ bits (laneAt [0, 31] 1).toNat 5 0 < 32 ∧
    lanesOf 2 = [1] ∧ (15 < 128 / ETy.width .s8) ∧ ETy.inF .s8 = false ∧ ETy.inF .f32 = true ∧ (2 : BitVec 64) ≠ 0 := by
  refine ⟨by decide, by decide, fun J h => ?_, by decide, by decide, by decide, by decide, by decide, by decide, by decide⟩
  rcases Nat.lt_or_ge J 32 with hJ | hJ
  · exact hJ
  · rcases Nat.lt_or_ge J 64 with h64 | h64
    · have key : ∀ k, k < 64 → 32 ≤ k → (2 : BitVec 64).getLsbD k = false := by decide
      rw [key J h64 hJ] at h; cases h
    · rw [BitVec.getLsbD_of_ge _ _ h64] at h; cases h

theorem wit_integerElements :
    255 < 2 ^ ETy.width .s8 ∧ (ETy.imin .s8 ≤ ETy.read .s8 0x7F + ETy.read .s8 0 ∧ ETy.read .s8 0x7F + ETy.read .s8 0 ≤ ETy.imax .s8) ∧
    ETy.imax .s8 < ETy.read .s8 0x7F + ETy.read .s8 1 ∧ ETy.read .s8 0x80 + ETy.read .s8 0xFF < ETy.imin .s8 := by decide

theorem wit_carryChain :
    ETy.signed .n8 = false ∧ ETy.signed .s8 = true ∧ ETy.width .n8 = ETy.width .s8 ∧ 255 < 2 ^ ETy.width .n8 := by decide

/-- A bundle whose slot 4 also triggers SA. -/
def actSa : State := { act bareWave with ib := { (act bareWave).ib with moves := [none, none, none, none, some (.saMov (mv (.imm 1))), none] } }

theorem wit_scalarTriggers :
    scalarOp (act bareWave) bareWave 0 (mv (.imm 3)) = some 3#64 ∧ scalarLater (act bareWave) bareWave .sa = false ∧
    scalarOp (act bareWave) bareWave 0 { inv := true, gidx := 0, src := .imm 3 } = none ∧ scalarLater actSa bareWave .sa = true ∧
    Acts actSa bareWave bareWave := ⟨by decide, by decide, by decide, by decide, ⟨rfl, rfl, rfl⟩⟩

/-- A wave of a twin pair, the leading one. -/
def twinWave : Wave := { bareWave with twin := some (16, true) }

theorem wit_queuedTriggers (m : Mv) :
    queuedOf (.baTest m) = some (m, .ba .test 0) ∧ queuedOf (.lgPub m .die) = some (m, .pub .die) ∧
    trigMask (act bareWave) bareWave .ba { inv := true, gidx := 0, src := .imm 0 } = 0 ∧
    trigMask (act bareWave) bareWave .ba (mv (.imm 0)) ≠ 0 ∧ trigMask (act twinWave) twinWave .lg (mv (.imm 0)) ≠ 0 ∧
    trigMask (act bareWave) bareWave .mx (mv (.imm 0)) ≠ 0 ∧ trigMask (act bareWave) bareWave .ga (mv (.imm 0)) ≠ 0 ∧
    trigMask (act bareWave) bareWave .sf (mv (.imm 0)) ≠ 0 ∧
    trigMask (act bareWave) bareWave .sx (mv (.imm 0)) ≠ 0 ∧ trigMask (act bareWave) bareWave .sx { inv := true, gidx := 0, src := .imm 0 } = 0 := by
  refine ⟨rfl, rfl, ?_, ?_, ?_, ?_, ?_, ?_, ?_, ?_⟩ <;> decide

/-- A command of the wave for an engine. -/
def cmd (op : QOp) : Cmd :=
  { id := 5, wave := 0, party := 0, op := op, mask := 1, a := [], b := [], c := [], fpc := 0, t := 0, nth := 0, slot := 0, seg := 0, handler := false,
    pushed := 0, he := [], st := .queued, got := none }

theorem wit_pushedCommand :
    st.wave? (cmd .mxKat).wave = some bareWave ∧ st.party? (cmd .mxKat).party = some bareParty ∧ (cmd .mxKat).op.unit = .mx ∧
    (st.core 0).mx.power = .idle := ⟨rfl, rfl, rfl, rfl⟩

/-- A wave with one lane on, whose a3 holds an address of the first page. -/
def addrWave : Wave := { bareWave with exm := 1, a := [(3, 0x40#64)] }

/-- The operands of its 16-byte load from a3. -/
def addrOps : Opnds := withTargets .read false false false 16 (act addrWave) addrWave (pushedOps (act addrWave) addrWave addrWave .ld (mv (.a 3)))

/-- The same operands as the target of a store and of an atomic. -/
def storeOps : Opnds := withTargets .write false false false 16 (act addrWave) addrWave (pushedOps (act addrWave) addrWave addrWave .st (mv (.a 3)))
def atomOps : Opnds := withTargets .atomic false false false 8 (act addrWave) addrWave (pushedOps (act addrWave) addrWave addrWave .atm (mv (.a 3)))

/-- Operands of one lane whose target is not blocked. -/
theorem one_target {o : Opnds} (hm : o.mask = 1#64) (h0 : tBlocked (laneAt o.a 0) = false) :
    ∀ L, o.mask.getLsbD L = true → tBlocked (laneAt o.a L) = false := fun L hL => by
  rw [hm] at hL
  obtain rfl : L = 0 := by simpa using hL
  exact h0

theorem wit_memoryTriggers :
    ldOf (.ldLdg (mv (.a 3)) .b16 false true) = some (mv (.a 3), .ldg, .b16, false, true) ∧
    stOf (.stSts (mv (.a 3)) .b1 false) = some (mv (.a 3), .sts, .b1, false) ∧
    atOf (.atCas (mv (.a 3)) .w64 .sys .sc) = some (mv (.a 3), .cas, .w64, .sys, .sc) ∧
    trigMask (act addrWave) addrWave .ld (mv (.a 3)) ≠ 0 ∧ trigMask (act addrWave) addrWave .st (mv (.a 3)) ≠ 0 ∧
    trigMask (act addrWave) addrWave .atm (mv (.a 3)) ≠ 0 ∧ addrWave.twin = none ∧
    (∀ L, addrOps.mask.getLsbD L = true → tBlocked (laneAt addrOps.a L) = false) ∧
    (∀ L, storeOps.mask.getLsbD L = true → tBlocked (laneAt storeOps.a L) = false) ∧
    (∀ L, atomOps.mask.getLsbD L = true → tBlocked (laneAt atomOps.a L) = false) :=
  ⟨rfl, rfl, rfl, by decide, by decide, by decide, rfl, one_target (by decide) (by decide), one_target (by decide) (by decide),
    one_target (by decide) (by decide)⟩

theorem wit_postIncrement :
    (act addrWave).cur? = some addrWave ∧ addrWave.active { inv := true, gidx := 0, src := .a 3 } = 0 ∧ (mv (.a 3)).src = .a 3 ∧
    addrWave.active (mv (.a 3)) ≠ 0 := ⟨rfl, by decide, rfl, by decide⟩

theorem wit_performedAtPush :
    trigMask (act bareWave) bareWave .lg (mv (.imm 0)) ≠ 0 ∧ trigMask (act bareWave) bareWave .sx (mv (.imm 0)) ≠ 0 ∧ bareWave.trails = false ∧
    (act bareWave).party? bareWave.party = some bareParty ∧ bareParty.waitcs = [] ∧ cringLog bareParty.cring = 0 ∧
    cringLog (cringPack 1 0 4 0) ≠ 0 ∧ cringHead (cringPack 1 0 4 0) ≠ cringTail (cringPack 1 0 4 0) ∧
    (pushedCmd (act bareWave) bareWave (.sx .waitc 0) (pushedOps (act bareWave) bareWave bareWave .sx (mv (.imm 0)))).opB.getLsbD 0 = false := by
  refine ⟨?_, ?_, rfl, rfl, rfl, ?_, ?_, ?_, ?_⟩ <;> decide


/-- The wave of a non-secure interface, the first 2 MiB of memory secure. -/
def actSecure : State := { act addrWave with regions := [(0, (3, 0))] }

theorem wit_blockedTriggers :
    ((pushedCmd actSecure addrWave (.ld .ldg .b16 false) (withTargets .read false false false 16 actSecure addrWave
      (pushedOps actSecure addrWave addrWave .ld (mv (.a 3))))).targets.find? tBlocked).isSome = true ∧
    ((pushedCmd actSecure addrWave (.st .stg .b16) (withTargets .write false false false 16 actSecure addrWave
      (pushedOps actSecure addrWave addrWave .st (mv (.a 3))))).targets.find? tBlocked).isSome = true ∧
    ((pushedCmd actSecure addrWave (.atm .add .w64 .sys .relaxed) (withTargets .atomic false false false 8 actSecure addrWave
      (pushedOps actSecure addrWave addrWave .atm (mv (.a 3))))).targets.find? tBlocked).isSome = true ∧
    trigMask actSecure addrWave .ld (mv (.a 3)) ≠ 0 ∧ trigMask (act addrWave) addrWave .ld { inv := true, gidx := 0, src := .a 3 } = 0 ∧
    addrWave.cmds.getLast? = none := by
  refine ⟨?_, ?_, ?_, ?_, ?_, rfl⟩ <;> decide

theorem wit_transfers :
    laneOperand (act bareWave) bareWave (mv (.imm 5)) = some 5#64 ∧ scalarOp (act bareWave) bareWave 0 (mv (.imm 5)) = some 5#64 ∧
    scalarOp (act bareWave) bareWave 0 { inv := true, gidx := 0, src := .imm 5 } = none ∧
    ({ bareWave with xfer := some { target := 9, taken := true, left := 3 } } : Wave).table = none ∧
    laneOperand (act { bareWave with exm := 0 }) { bareWave with exm := 0 } (mv (.v 0)) = none ∧
    scalarOp (act { bareWave with exm := 0 }) { bareWave with exm := 0 } 0 (mv (.v 0)) = none ∧
    bareWave.guardAny (mv (.v 0)) = true ∧ bareWave.guardAny { inv := true, gidx := 0, src := .imm 5 } = false := by
  refine ⟨?_, ?_, ?_, rfl, ?_, ?_, ?_, ?_⟩ <;> decide

theorem wit_phaseAndExit :
    (act bareWave).ib.advanced = false ∧ bareWave.twin = none ∧ (act bareWave).launch? bareWave.launch = some bareLaunch ∧ bareLaunch.wpkib ≠ 0 ∧
    ({ act bareWave with launches := [(0, { bareLaunch with wpkib := 0 })] } : State).launch? bareWave.launch =
      some { bareLaunch with wpkib := 0 } := ⟨rfl, rfl, rfl, by decide, rfl⟩

/-- A wave in the first target of a table, one bundle before the join. -/
def tableWave : Wave := { bareWave with pc := 6, table := some { join := 7, exm := 3, left := 0, targets := [(7, 1), (4, 2)] } }

theorem wit_branchTables :
    tableWave.table = some { join := 7, exm := 3, left := 0, targets := [(7, 1), (4, 2)] } ∧ tableWave.xfer = none ∧ tableWave.pc + 1 = 7 ∧
    ({ tableWave with pc := 2 } : Wave).pc + 1 ≠ 7 ∧
    ({ tableWave with table := some { join := 7, exm := 3, left := 1, targets := [(7, 1), (4, 2)] } } : Wave).table =
      some { join := 7, exm := 3, left := 1, targets := [(7, 1), (4, 2)] } ∧
    ({ tableWave with xfer := some { target := 7, taken := true, left := 1 } } : Wave).xfer = some { target := 7, taken := true, left := 1 } ∧
    ({ tableWave with xfer := some { target := 7, taken := true, left := 2 } } : Wave).xfer = some { target := 7, taken := true, left := 2 } ∧
    (act tableWave).cur? = some tableWave ∧ (∀ x ∈ [((0 : Nat), (0 : Nat)), (63, 1)], x.1 < 64) :=
  ⟨rfl, rfl, by decide, by decide, rfl, rfl, rfl, rfl, by decide⟩

theorem wit_loopBoundary :
    1 < ({ bareWave with lc := 2 } : Wave).lc.toNat ∧ ({ bareWave with lc := 1, ec := 1 } : Wave).lc.toNat ≤ 1 ∧
    0 < ({ bareWave with lc := 1, ec := 1 } : Wave).ec.toNat ∧ ({ bareWave with lc := 1 } : Wave).ec = 0 := by decide

/-- The wave's launch has a handler at bundle 64. -/
def stVec : State := { st with launches := [(0, { bareLaunch with tvec := 64 })] }

theorem wit_traps :
    stVec.wave? 0 = some bareWave ∧ stVec.launch? bareWave.launch = some { bareLaunch with tvec := 64 } ∧ bareWave.hmode = false ∧
    ({ bareLaunch with tvec := 64 } : Launch).tvec ≠ 0 ∧ causeSw ≠ causeText ∧ bareLaunch.tvec = 0 ∧ bareWave.twin = none ∧
    bareWave.trapHere = none ∧ ({ bareWave with trapDue := [(0, Trap.mk causeSw 0 0 0 0 none)] } : Wave).trapHere.isSome = true :=
  ⟨rfl, rfl, rfl, by decide, by decide, rfl, rfl, rfl, rfl⟩

/-- A wave between a transfer and the end of its delay slots. -/
def delayWave : Wave := { bareWave with xfer := some { target := 9, taken := true, left := 1 } }

theorem wit_trapReturn :
    delayWave.hmode = false ∧ delayWave.parked = none ∧ delayWave.hcount = 0 ∧ delayWave.table = none ∧
    delayWave.exm &&& delayWave.allLanes = delayWave.exm ∧ delayWave.exs &&& delayWave.allLanes = delayWave.exs ∧
    (∀ x, delayWave.xfer = some x → x.left = 1 ∨ x.left = 2) := by
  refine ⟨rfl, rfl, rfl, rfl, by decide, by decide, ?_⟩
  rintro x ⟨⟩; exact .inl rfl

/-- A trailing twin that has been sent a value of a kind. -/
def followWave (k : Nat) : Wave := { bareWave with twin := some (0, false), fwd := [{ kind := k, seg := 0, mask := 1, vals := [9] }] }

theorem wit_controlRegisters :
    (act bareWave).wave? 0 = some bareWave ∧ scalarOp (act bareWave) bareWave 0 (mv (.imm 2)) = some 2#64 ∧
    0x030 ∈ [0x000, 0x001, 0x021, 0x022, 0x023, 0x024, 0x030] ∧ csrTimed 2 = false ∧ csrTimed 0x030 = true ∧ bareWave.trails = false ∧
    bareWave.follower = none ∧ (followWave (fwdKind PortUnit.sy.code 0 0 0)).trails = true ∧
    (followWave (fwdKind PortUnit.sy.code 0 0 0)).fwd.find? (fun f => f.kind == fwdKind PortUnit.sy.code 0 0 0) =
      some { kind := fwdKind PortUnit.sy.code 0 0 0, seg := 0, mask := 1, vals := [9] } := by
  refine ⟨rfl, ?_, ?_, ?_, ?_, rfl, rfl, rfl, ?_⟩ <;> decide

/-- The wave waits for the answer of a SY.LAUNCH on the first queue of its interface, whose ring holds sixteen packets. -/
def launchWave : Wave := { bareWave with hold := .launch 0 0 0 0 0 true }
def launchOk : Launch := { bareLaunch with lright := true }
def stLaunch (tail : Nat) : State :=
  { st with
    waves := [(0, launchWave)]
    launches := [(0, launchOk)]
    vis := [(0, { Vi.reset with qcount := 1 })]
    queues := [(0, { WQueue.reset with devlaunch := true, ring := 1, tail := tail })] }

theorem wit_launchAnswer :
    (stLaunch 0).wave? 0 = some launchWave ∧ launchWave.hold = .launch 0 0 0 0 0 true ∧ (stLaunch 0).launchQueue launchOk 0 = some 0 ∧
    ((stLaunch 0).queue 0).room = true ∧ ((stLaunch 16).queue 0).room = false ∧ st.launchQueue bareLaunch 0 = none ∧
    (stLaunch 0).party? launchWave.party = some bareParty := ⟨rfl, rfl, by decide, by decide, by decide, by decide, rfl⟩

/-- The wave outside a bundle. -/
def alone (w : Wave) : State := { st with waves := [(0, w)], turn := [] }

/-- A wave in the epilogue of a transfer, in whose delay slot no other transfer may stand. -/
def slotWave : Wave := { bareWave with xfer := some { target := 9, taken := true, left := 2 } }

theorem wit_movesAlone :
    (alone bareWave).ib.on = false ∧ (alone bareWave).cur? = some bareWave ∧ bareWave.runs = true ∧
    slotCheck bareWave [] 0 (.ctBra (mv (.imm 4))) = none ∧ (slotCheck slotWave [] 0 (.ctBra (mv (.imm 4)))).isSome = true ∧
    gate (aloneIn (.ctBra (mv (.imm 4))) bareWave (alone bareWave)) bareWave false = .go ∧
    gate (aloneIn (.registerMove (mv (.port .ld)) (.v 1) 0) { bareWave with hold := .rdv 1 } (alone { bareWave with hold := .rdv 1 }))
      { bareWave with hold := .rdv 1 } false = .hold ∧
    gate (aloneIn (.ldLdg (mv (.a 3)) .b16 false false) { addrWave with a := [(3, 0x5000#64)] } (alone { addrWave with a := [(3, 0x5000#64)] }))
      { addrWave with a := [(3, 0x5000#64)] } false = .miss 0 0 0x5000 ∧
    gate (aloneIn (.ldLdg (mv (.a 3)) .b16 false false) { addrWave with a := [(3, 0x1#64)] } (alone { addrWave with a := [(3, 0x1#64)] }))
      { addrWave with a := [(3, 0x1#64)] } false = .trap { cause := causeAlign, slot := 0, lane := 0, addr := 1, code := 0 } := by
  refine ⟨rfl, rfl, rfl, ?_, ?_, ?_, ?_, ?_, ?_⟩ <;> decide

theorem wit_segmentEntry :
    slotCheck bareWave [] 0 (.ctSeg (mv (.imm 0))) = none ∧
    gate (aloneIn (.ctSeg (mv (.imm 0))) bareWave (alone bareWave)) bareWave false = .go ∧
    scalarOp (aloneIn (.ctSeg (mv (.imm 0))) bareWave (alone bareWave)) bareWave 0 (mv (.imm 0)) = some 0#64 := by
  refine ⟨?_, ?_, ?_⟩ <;> decide

theorem wit_stepOfAgenda :
    ({ st with agenda := [.snapall, .nullSinkMove (mv (.v 0))] } : State).agenda = .snapall :: [.nullSinkMove (mv (.v 0))] ∧
    Instr.snapall.isMove = false ∧ (Instr.nullSinkMove (mv (.v 0))).isMove = true := ⟨rfl, rfl, rfl⟩

/-- Bytes of text at the start of the first page. -/
def text (w : Wave) (bs : List Host.Cell) : State := { st with waves := [(0, w)], home := bs, turn := [] }

theorem wit_stepRunsBundle : st.agenda = [] ∧ st.mgmt.powered = true ∧ st.turn = 0 :: [] ∧ (prepare { st with turn := [] } 0).isOk = true :=
  ⟨rfl, rfl, rfl, by decide +kernel⟩

/-- An atomic in slot 5, on the word at a4. -/
def atText : List Host.Cell := [(0, 0x39), (1, 0x80), (2, 0x41), (3, 0xC4)]

set_option maxRecDepth 20000 in
theorem wit_stepTrapsAndStalls :
    (∃ x, prepare (text bareWave [(0, 0xE0)]) 0 = .error (.trap x)) ∧
    prepare (text { bareWave with exited := true } []) 0 = .error .hold ∧
    prepare (text { bareWave with rerun := .a, segBundles := 1 } []) 0 = .error .endPoint ∧
    (∃ e, prepare (text { twinWave with exm := 1 } atText) 0 = .error (.escape e)) := ⟨⟨_, rfl⟩, rfl, rfl, ⟨_, rfl⟩⟩

/-- Core 0 with nothing translated, its interface with three tables of stage 2 and one leaf of 1 GiB, or with none. -/
def stWalk (valid : Bool) (w : Wave) (bs : List Host.Cell) (tlb : List TlbEntry) : State :=
  { st with
    waves := [(0, w)]
    cores := [(0, { Core.reset with tlb := tlb, running := some 0 })]
    vis := [(0, { Vi.reset with s2base := 0x1000, s2valid := valid })]
    home := bs ++ [(0x1000, 0x01), (0x1001, 0x20), (0x2000, 0x01), (0x2001, 0x30), (0x3000, 0x3F)] }

/-- A load in slot 5, from page 5. -/
def ldText : List Host.Cell := [(0, 0x28), (1, 0x40), (2, 0x41), (3, 0xC3)]
def ldWave : Wave := { addrWave with a := [(3, 0x5000#64)] }

theorem wit_walkEnds :
    prepare (stWalk true bareWave [] []) 0 = .error (.walkFetch 0) ∧
    ((stWalk true bareWave [] []).walkFor bareLaunch 0).isSome = true ∧
    ((stWalk false bareWave [] []).walkFor bareLaunch 0) = none ∧
    prepare (stWalk true ldWave ldText [bareTlb]) 0 = .error (.walkLane 5 0 0x5000) ∧
    ((stWalk true ldWave ldText [bareTlb]).walkFor bareLaunch 0x5000).isSome = true ∧
    ((stWalk false ldWave ldText [bareTlb]).walkFor bareLaunch 0x5000) = none ∧
    (stWalk true bareWave [] []).walkRuns 0 0 = true ∧
    ({ stWalk true bareWave [] [] with tracts := [(0, { Tract.reset with misses := List.replicate 64 1 ++ [0] })] } : State).walkRuns 0 0 = false :=
  ⟨rfl, by decide, by decide, rfl, by decide, by decide, by decide, by decide⟩

/-- A streamer of core 0 that waits for the walk of the first page. -/
def stMiss (valid : Bool) : State := { stWalk valid bareWave [] [] with cores := [(0, { Core.reset with sxMiss := [(5, 0, 0)], running := some 0 })] }

theorem wit_streamerWalk :
    (stMiss true).wave? (2 ^ 64 + 0) = none ∧ (stMiss true).walkRuns (2 ^ 64 + 0) 0 = true ∧ ((stMiss true).core 0).sxMiss = (5, 0, 0) :: [] ∧
    (stMiss true).launch? 0 = some bareLaunch ∧ ((stMiss true).walkFor bareLaunch 0).isSome = true ∧ (stMiss false).walkFor bareLaunch 0 = none ∧
    ({ bareWave with walkBad := some (Trap.mk causeFetch 6 0 0 0 none) } : Wave).walkBad = some (Trap.mk causeFetch 6 0 0 0 none) := by
  refine ⟨rfl, ?_, rfl, rfl, ?_, ?_, rfl⟩ <;> decide

/-- Two waves of core 0: the first stalled, the second pending. -/
def stTwo (w v : Wave) : State := { st with waves := [(0, w), (1, { v with rslot := 1, num := 1 })] }

theorem wit_waveExchange :
    (stTwo { bareWave with stalled := 8 } { bareWave with inSet := false }).wave? 0 = some { bareWave with stalled := 8 } ∧
    longestPending (stTwo { bareWave with stalled := 8 } { bareWave with inSet := false }) 0 (some 0) = some 1 ∧
    longestPending (stTwo { bareWave with stalled := 8 } bareWave) 0 (some 0) = none ∧ bareWave.stalled < 8 ∧ bareWave.inSet = true := by
  refine ⟨rfl, ?_, ?_, by decide, rfl⟩ <;> rfl

theorem wit_sleepExpires :
    (alone { bareWave with hold := .sleep 3 none true }).wave? 0 = some { bareWave with hold := .sleep 3 none true } := rfl

/-- A wave past its segment entry, and its checkpoint. -/
def segWave : Wave := { bareWave with segEntry := false }
def ck : Ckpt := { wave := bareWave, seq := 0, acc := [] }

theorem wit_detectedErrors :
    ({ alone segWave with ckpts := [(0, ck)] } : State).wave? 0 = some segWave ∧ segWave.segEntry = false ∧
    ({ alone segWave with ckpts := [(0, ck)] } : State).party? segWave.party = some bareParty ∧
    Tab.get? ({ alone segWave with ckpts := [(0, ck)] } : State).ckpts 0 = some ck ∧ segWave.drained = false ∧ segWave.twin = none ∧
    segWave.rerun = .none ∧ ({ segWave with rerun := .a } : Wave).rerun ≠ .none ∧ ({ segWave with drained := true } : Wave).drained = true ∧
    twinWave.twin = some (16, true) := ⟨rfl, rfl, rfl, rfl, rfl, rfl, rfl, by decide, rfl, rfl⟩

theorem wit_rollback :
    ({ alone segWave with ckpts := [(0, ck)] } : State).wave? 0 = some segWave ∧ Tab.get? ({ alone segWave with ckpts := [(0, ck)] } : State).ckpts 0 = some ck ∧
    (∀ q, ({ alone segWave with ckpts := [(0, ck)] } : State).party? segWave.party = some q → q.sxWait.filter (fun d => ofSegment 0 segWave d.wave d.seg) = []) ∧
    (((alone segWave).core segWave.core).log.filter (fun r => r.wave == 0 && r.seg == segWave.seg && !r.engine)) = [] := by
  refine ⟨rfl, rfl, fun q h => ?_, by decide⟩
  cases h; rfl

/-- A wave at the end point of a re-run. -/
def rerunWave (r : Rerun) : Wave := { bareWave with rerun := r, segBundles := 1 }

set_option maxRecDepth 20000 in
theorem wit_rerunEnds :
    prepare (text (rerunWave .a) []) 0 = .error .endPoint ∧ prepare (text (rerunWave (.b 1 0)) []) 0 = .error .endPoint ∧
    prepare (text (rerunWave (.b 2 0)) []) 0 = .error .endPoint ∧ (rerunWave (.b 1 0)).segBundles = 1 ∧ (rerunWave (.b 1 0)).ssig = 0 ∧
    (rerunWave (.b 2 0)).segBundles ≠ 2 := ⟨rfl, rfl, rfl, rfl, rfl, by decide⟩

/-- The two twins of cores 0 and 1. -/
def lead (f : List (Nat × Word)) : Wave := { twinWave with folds := f }
def trail (f : List (Nat × Word)) (e : List Escape) : Wave := { bareWave with core := 1, twin := some (0, false), folds := f, escapes := e }
def stTwin (f g : List (Nat × Word)) (e : List Escape) : State := { st with waves := [(0, lead f), (16, trail g e)] }

/-- The escaping bundle that the leading twin comes to, the text holding an atomic, and another one. -/
def esc (x : Word) : Escape := { pc := 0, nth := 0, ops := [(5, x)] }
def segTwin : Wave := { twinWave with exm := 1, segEntry := false }
def stEscape (e : List Escape) : State :=
  { text segTwin atText with waves := [(0, segTwin), (16, trail [] e)], ckpts := [(0, ck), (16, ck)] }

set_option maxRecDepth 20000 in
theorem wit_twinCompares :
    (stTwin [(4, 7)] [(0, 7)] []).wave? 0 = some (lead [(4, 7)]) ∧ (lead [(4, 7)]).twin = some (16, true) ∧
    (stTwin [(4, 7)] [(0, 7)] []).wave? 16 = some (trail [(0, 7)] []) ∧ (7 : Word) ≠ 8 ∧ (lead [(4, 7)]).trapPassed = false ∧
    (trail [(0, 7)] []).trapPassed = false ∧ (lead [(4, 7)]).trapHere = none ∧
    ({ lead [] with issued := 1, trapDue := [(0, Trap.mk causeSw 0 0 0 0 none)] } : Wave).trapPassed = true ∧
    (stTwin [] [] []).waveHeld (lead []) 0 = false ∧ (lead []).storesDone = true ∧ (lead [(4, 7)]).folds ≠ [] ∧
    (∃ e, prepare (stEscape [esc 0]) 0 = .error (.escape e)) ∧ (stEscape [esc 0]).wave? 16 = some (trail [] [esc 0]) ∧ esc 0 ≠ esc 1 := by
  refine ⟨rfl, rfl, rfl, ?_, rfl, rfl, rfl, ?_, rfl, rfl, ?_, ⟨_, rfl⟩, rfl, ?_⟩ <;> decide

/-- Both waves at their checkpoints, with the failures and the drain of the first. -/
def stMismatch (fails : Nat) (drained : Bool) : State :=
  { stEscape [] with waves := [(0, { segTwin with twinFails := fails, drained := drained }), (16, trail [] [])] }

theorem wit_twinMismatch :
    (0 : Nat) ≠ 16 ∧ (stMismatch 1 false).wave? 0 = some { segTwin with twinFails := 1, drained := false } ∧ (stMismatch 0 true).wave? 16 = some (trail [] []) ∧
    Tab.get? (stMismatch 0 false).ckpts 0 = some ck ∧ Tab.get? (stMismatch 0 false).ckpts 16 = some ck ∧ 1 ≤ ({ segTwin with twinFails := 1 } : Wave).twinFails ∧
    segTwin.twinFails = 0 ∧ (trail [] []).twinFails = 0 ∧ segTwin.drained = false ∧ (trail [] []).drained = false ∧ ({ segTwin with drained := true } : Wave).drained = true := by
  refine ⟨by decide, rfl, rfl, rfl, rfl, by decide, rfl, rfl, rfl, rfl, rfl⟩

theorem wit_twinPlaces :
    unevenRecords (lead [(4, 7)]) (trail [] []) = true ∧ unevenRecords (lead []) (trail [] []) = false ∧ (esc 0).nth < ({ trail [] [] with issued := 1 } : Wave).issued ∧
    (∀ e, prepare (stTwin [] [] [esc 0]) 0 ≠ .error (.escape e)) := by
  refine ⟨by decide, by decide, by decide, fun e h => ?_⟩
  have k : (match prepare (stTwin [] [] [esc 0]) 0 with
    | .error (.escape _) => true
    | _ => false) = false := by decide +kernel
  rw [h] at k
  cases k

/-- A wave with commands. -/
def cmdWave (cs : List Cmd) : Wave := { bareWave with cmds := cs }
/-- A load of the first lane from an address of a package. -/
def ldCmd (pkg : Nat) (x : CmdSt) : Cmd := { cmd (.ld .ldg .b4 false) with a := [target 0x40 pkg false], st := x }

theorem wit_loads :
    (alone (cmdWave [ldCmd 0 .queued])).wave? 0 = some (cmdWave [ldCmd 0 .queued]) ∧
    (cmdWave [ldCmd 0 .queued]).nthLoad 0 = some (ldCmd 0 .queued) ∧ (ldCmd 0 .queued).op = .ld .ldg .b4 false ∧
    (cmdWave [ldCmd 0 .queued]).canPerform (ldCmd 0 .queued) = true ∧ (cmdWave [ldCmd 0 .queued]).trails = false ∧
    (ldCmd 0 .queued).peers = [] ∧ (ldCmd 2 .queued).peers ≠ [] ∧ (ldCmd 2 (.sent 0 0 0 false)).st = .sent 0 0 0 false ∧
    (ldCmd 0 .queued).wave = 0 ∧ LdKind.ldg ≠ .ldsc ∧ (alone (cmdWave [])).choose.1 = 0 ∧ ({ alone (cmdWave []) with tape := [1] } : State).choose.1 ≠ 0 ∧
    (cmdWave [{ cmd (.acq .die) with id := 4 }, ldCmd 0 .queued]).canPerform (ldCmd 0 .queued) = false := by
  refine ⟨rfl, ?_, rfl, ?_, rfl, ?_, ?_, rfl, rfl, ?_, ?_, ?_, ?_⟩ <;> decide

theorem wit_scratchpadLoad :
    (alone (cmdWave [cmd (.ld .lds .b16 false)])).wave? 0 = some (cmdWave [cmd (.ld .lds .b16 false)]) ∧
    st.party? bareWave.party = some bareParty ∧ ∀ L, (cmd (.ld .lds .b16 false)).mask.getLsbD L = true → tBlocked (laneAt [] L) = false := by
  refine ⟨rfl, rfl, fun L _ => ?_⟩
  have h : laneAt [] L = 0 := by simp [laneAt]
  rw [h]; decide

/-- An atomic of the wave. -/
def atCmd (x : CmdSt) : Cmd := { cmd (.atm .add .w32 .die .relaxed) with a := [target 0x40 0 false], st := x }
/-- A request of package 3. -/
def peerAt : PeerAt := { pkg := 3, core := 0, tag := 9, op := .add, w := .w32, pa := 0x40, lanes := [(0, 1)], sc := none }
def tagRec : TagRec := { pkg := 3, core := 0, tag := 9, ret := [(0, 5)], time := 0 }
/-- Package 3 can be reached over port 0. -/
def stRoute (w : Wave) : State :=
  { alone w with routes := [(3, 0x80#64)], ports := [(0, { FabPort.reset with enable := true, st := .up, peerPkg := 3 })] }

/-- A request of it that package 3 has not answered. -/
def sentReq (lost : Bool) : AtSent := { wave := 0, cmd := 5, pkg := 3, tag := 9, pa := 0x40, time := 0, lost := lost }
def stSent (lost : Bool) : State :=
  { stRoute (cmdWave [atCmd .queued]) with cores := [(0, { Core.reset with reqs := [sentReq lost], running := some 0 })] }

theorem wit_atomics :
    0xFFFFFFFF < 2 ^ (8 * atBytes .w32) ∧ (atCmd .queued).op = .atm .add .w32 .die .relaxed ∧ (cmdWave [atCmd .queued]).canPerform (atCmd .queued) = true ∧
    ((alone (cmdWave [atCmd .queued])).atReady (cmdWave [atCmd .queued]))[0]? = some (atCmd .queued, some (0, 0x40)) ∧
    (drainFor (alone (cmdWave [atCmd .queued])) 0 0 0x40 4 none).isSome = true ∧ isHbm peerAt.pa = true ∧ peerAt.pa % atBytes peerAt.w = 0 ∧
    ({ st with tagStore := [tagRec] } : State).tagStore.find? (fun (x : TagRec) => x.pkg == peerAt.pkg && x.core == peerAt.core && x.tag == peerAt.tag &&
      decide (0 < x.time + Config.cycles2ms)) = some tagRec ∧
    st.tagStore.find? (fun (x : TagRec) => x.pkg == peerAt.pkg && x.core == peerAt.core && x.tag == peerAt.tag &&
      decide (0 < x.time + Config.cycles2ms)) = none ∧
    st.poisoned peerAt.pa = false ∧ ({ st with poison := [0] } : State).poisoned peerAt.pa = true ∧ st.tagRoom = true ∧
    st.atHeld = [] ∧ peerAt.sc = none ∧ (stSent false).tagRoom = true ∧
    (stSent true).nthSent 0 0 = some (0, sentReq true) ∧ (sentReq true).lost = true ∧ (stSent true).reachable 3 = true ∧ (stSent true).cycle < 0 + 2100000 ∧
    (stSent false).sentTo (tagKey 3 0 9) = some (0, sentReq false) ∧ (stSent false).cmd? 0 5 = some (cmdWave [atCmd .queued], atCmd .queued) ∧
    ({ st with tagStore := [tagRec], fabric := { Fabric.reset with ratlog := 0 } } : State).tagRoom = false := by
  refine ⟨?_, rfl, ?_, ?_, ?_, ?_, ?_, ?_, ?_, ?_, ?_, ?_, rfl, rfl, ?_, rfl, rfl, ?_, ?_, ?_, rfl, ?_⟩ <;> decide

/-- A record of package 3 that no publication covers, one of a mark, and one with both granules of a 32-byte block. -/
def peerRec : PeerRecord := { pkg := 3, core := 0, gran := 4, ben := 1, data := 7, kind := 0, stamp := none, left := 0, hor := [], also := none }
def markRec : PeerRecord := { peerRec with ben := 0, stamp := some 5 }

theorem wit_peerOrder :
    ({ st with recHeld := [peerRec] } : State).peerBehind peerRec = true ∧ peerParts peerRec ≠ [] ∧ peerRec.pkg = peerAt.pkg ∧ peerRec.core = peerAt.core ∧
    peerRec.kind ≠ 0x11 ∧ (∃ g ∈ peerParts peerRec, g.1 / 4 = peerAt.pa / 64) ∧ ({ st with fabric := { Fabric.reset with acqTop := 9 } } : State).tooLate markRec = true ∧
    st.tooLate markRec = false ∧ isHbm (16 * peerRec.gran) = true ∧ ({ peerRec with also := some (1, 7) } : PeerRecord).also = some (1, 7) ∧
    st.poisoned (16 * (peerRec.gran / 2 * 2 + (1 - peerRec.gran % 2))) = false := by
  refine ⟨?_, ?_, rfl, rfl, ?_, ⟨(4, 1, 7), ?_, ?_⟩, ?_, ?_, ?_, rfl, ?_⟩ <;> decide

theorem wit_peerRequests :
    st.recHeld = [] ∧ (1 : BitVec 16) ≠ 0 ∧
    isHbm 0x40 = true ∧ isHbm (0x40 + 16) = true ∧ st.poisoned 0x40 = false ∧ ({ st with poison := [0] } : State).poisoned 0x40 = true ∧
    isHbm (16 * 4) = true ∧ ({ st with poison := [0] } : State).poisoned (16 * 4) = true := by
  refine ⟨rfl, ?_, ?_, ?_, ?_, ?_, ?_, ?_⟩ <;> decide

/-- A record, and core 0 with a log. -/
def rec (n : Nat) : Rec :=
  { wid := n, pkg := 0, gran := 4, ben := 1, data := 7, kind := 0, wslot := 0, isOpen := false, held := false, seq := 0, engine := false, cmd := 0,
    wave := 0, launch := 0, seg := 0, spilled := false, stamp := none }
def stLog (w : Wave) (l : List Rec) : State := { alone w with cores := [(0, { Core.reset with log := l, running := some 0 })] }
/-- A store of the first lane that has not been performed. -/
def stCmd : Cmd := { cmd (.st .stg .b4) with a := [target 0x40 0 false], c := [1] }

set_option maxRecDepth 40000 in
theorem wit_logSpace :
    storeWaits (stLog (cmdWave [stCmd]) (List.replicate 8192 (rec 1))) 0 = true ∧
    canSpill ((stLog (cmdWave [stCmd]) (List.replicate 8192 (rec 1))).core 0) = true ∧
    ((stLog (cmdWave [stCmd]) (List.replicate 8192 (rec 1))).core 0).draining = none ∧ storeWaits st 0 = false ∧
    (st.core 0).draining = none ∧ ({ Core.reset with draining := some 1 } : Core).draining.isSome = true := by
  refine ⟨?_, ?_, rfl, ?_, rfl, rfl⟩ <;> decide +kernel

theorem wit_drainList :
    (State.drainList [1] (stLog bareWave [rec 1])).2 = true ∧ (State.drainList [1] (stLog bareWave [{ rec 1 with held := true }])).2 = false ∧
    (stLog bareWave [{ rec 1 with held := true }]).drainOne 1 = none := by
  refine ⟨?_, ?_, ?_⟩ <;> decide +kernel

theorem wit_recordApplied :
    (rec 1).pkg = 0 ∧ (rec 1).engine = false ∧ (rec 1).stamp = none ∧ st.wave? (rec 1).wave = some bareWave ∧
    ({ rec 1 with stamp := some 5 } : Rec).stamp.isSome = true ∧ st.poisoned (16 * (rec 1).gran) = false ∧ isHbm (16 * (rec 1).gran + 15) = true ∧ Mem.wf st.home = true ∧
    ({ st with poison := [0] } : State).poisoned (16 * (rec 1).gran) = true ∧ ({ rec 1 with pkg := 2 } : Rec).pkg ≠ 0 ∧
    (∀ a b, isHbm a = true → isHbm b = true → st.homeIndex a = st.homeIndex b → a = b) := by
  refine ⟨rfl, rfl, rfl, rfl, rfl, by decide, by decide, by decide, by decide, by decide, fun a b ha hb h => ?_⟩
  have e : ∀ x, st.homeIndex x = x := fun x => by
    show x / Config.stackBytes * Config.stackBytes + x % Config.stackBytes = x
    exact Nat.div_add_mod' x _
  rwa [e, e] at h

/-- A mark of core 0 at DIE scope over one write. -/
def mark : Mark := { id := 3, stamp := 1024, pkg := 0, core := 0, scope := 4, tail := 1, wids := [1], hor := [], launch := 0, stands := false, gone := false, since := 0, away := [] }
def stMark (m : Mark) (caps : Nat) : State :=
  { st with marks := [m], tracts := [(0, { Tract.reset with sheetcap := caps, tractcap := caps, widecap := caps })] }

/-- One record left to drain, which a standing mark covers, or which none does, or which is held for its twin. -/
def stDrain (r : Rec) (ms : List Mark) : State := { alone bareWave with marks := ms, cores := [(0, { Core.reset with log := [r], draining := some 1, running := some 0 })] }

theorem wit_fullDrain :
    (stDrain (rec 1) [{ mark with stands := true }]).standing 1 = true ∧ (stDrain (rec 1) []).standing 1 = false ∧
    (((State.drainList [1] (stDrain (rec 1) [])).1.core 0).log = []) ∧ (((State.drainList [1] (stDrain { rec 1 with held := true } [])).1.core 0).log ≠ []) ∧
    mark.pkg = 0 ∧ 1 ∈ mark.wids ∧ mark.gone = false ∧
    ((stDrain { rec 1 with held := true } []).withNeeded noneExempt (fun p => p.r.wid == 1)).any (fun p => (stDrain { rec 1 with held := true } []).stuck p.r) = true ∧
    ((stDrain (rec 1) []).withNeeded noneExempt (fun p => p.r.wid == 1)).any (fun p => (stDrain (rec 1) []).stuck p.r) = false ∧
    (stDrain { rec 1 with pkg := 4 } []).drainOne 1 = none ∧ (stDrain { rec 1 with pkg := 4 } []).passesBy 1 = true ∧
    (stDrain { rec 1 with held := true } []).passesBy 1 = false ∧ ({ mark with away := [1] } : Mark).away ≠ [] := by
  refine ⟨?_, ?_, ?_, ?_, ?_, ?_, ?_, ?_, ?_, ?_, ?_, ?_, ?_⟩ <;> decide +kernel

/-- A load of the granule of an STSC record that is not applied. -/
def stStsc (k : Nat) : State :=
  { alone (cmdWave [ldCmd 0 .queued]) with cores := [(0, { Core.reset with log := [{ rec 1 with kind := k }], horizon := [1], running := some 0 })] }

theorem wit_scWaits : (stStsc 3).scWaits (ldCmd 0 .queued) .ldg 4 = true ∧ (stStsc 0).scWaits (ldCmd 0 .queued) .ldg 4 = false := by decide +kernel

theorem wit_marksAndAcquires :
    (stMark mark 1).mark? 3 = some mark ∧ mark.stands = false ∧ (stMark mark 2).markRoom 4 0 = true ∧ (stMark mark 1).markRoom 4 0 = false ∧
    mark.pkg = 0 ∧ mark.scope ≠ 6 ∧ st.tickPassed 6 1024 = false ∧ ({ st with cycle := 258, fabric := { Fabric.reset with sync := true } } : State).tickPassed 6 1024 = true ∧
    ({ st with marks := [mark, { mark with id := 4, stamp := 2048, stands := true }], cores := [(0, { Core.reset with log := [rec 1] })] } : State).lowerLeft
      { mark with id := 4, stamp := 2048, stands := true } 0 = true ∧
    (stMark { mark with stands := true } 1).lowerLeft { mark with stands := true } 0 = false ∧
    (alone (cmdWave [{ cmd (.acq .die) with st := stageSt 2 9 }])).wave? 0 = some (cmdWave [{ cmd (.acq .die) with st := stageSt 2 9 }]) ∧
    (cmdWave [{ cmd (.acq .die) with st := stageSt 2 9 }]).cmds.find? (fun c => c.st.stage.1 == 2 || c.st.stage.1 == 5) =
      some { cmd (.acq .die) with st := stageSt 2 9 } ∧
    st.acquireReady 0 4 9 none = true ∧ st.acquireReady 0 4 2048 none = false ∧
    (cmdWave [{ cmd .drain with st := stageSt 4 2 }]).cmds.find? (fun c => c.st.stage.1 == 4) = some { cmd .drain with st := stageSt 4 2 } ∧
    ((stLog bareWave [rec 1]).core 0).log.any (fun r => r.held && decide (r.wid < 2)) = false ∧
    ((stLog bareWave [{ rec 1 with held := true }]).core 0).log.any (fun r => r.held && decide (r.wid < 2)) = true := by
  refine ⟨rfl, rfl, ?_, ?_, rfl, ?_, ?_, ?_, ?_, ?_, rfl, ?_, ?_, ?_, ?_, ?_, ?_⟩ <;> decide

/-- A command of LG at the head of its wave, the package synchronised and with caps of n marks. -/
def stLg (op : QOp) (n : Nat) : State :=
  { alone (cmdWave [cmd op]) with
    cycle := 1, marks := [mark], fabric := { Fabric.reset with sync := true }, tracts := [(0, { Tract.reset with sheetcap := n, tractcap := n, widecap := n })] }

theorem wit_lgCommands :
    (stLg (.pub .die) 2).wave? (cmd (.pub .die)).wave = some (cmdWave [cmd (.pub .die)]) ∧ (cmd (.pub .die)).st = .queued ∧
    (cmdWave [cmd (.pub .die)]).canPerform (cmd (.pub .die)) = true ∧ (cmdWave [cmd (.pub .die)]).trails = false ∧ Scope.wave.code ≤ 1 ∧ 1 < Scope.die.code ∧
    (stLg (.pub .die) 2).canStamp Scope.die.code = true ∧ (stLg (.pub .die) 2).waveHeld (cmdWave [cmd (.pub .die)]) 0 = false ∧
    (stLg (.pub .die) 2).markRoom Scope.die.code 0 = true ∧ (stLg (.pub .die) 1).markRoom Scope.die.code 0 = false ∧
    (cmdWave [cmd .drain]).canPerform (cmd .drain) = true := by
  refine ⟨rfl, rfl, ?_, rfl, ?_, ?_, ?_, ?_, ?_, ?_, ?_⟩ <;> decide

/-- An SC load, pushed before this cycle, at the position of core 0 with the domain up. -/
def scCmd : Cmd := { cmd (.ld .ldsc .b4 false) with a := [target 0x40 0 false] }
def stScOf (c : Cmd) : State := { alone (cmdWave [c]) with cycle := 1024, fabric := { Fabric.reset with sync := true } }
def stSc : State := stScOf scCmd
/-- An SC store, and an atomic with .sc. -/
def stscCmd : Cmd := { cmd (.st .stsc .b4) with a := [target 0x40 0 false], c := [1] }
def atScCmd : Cmd := { cmd (.atm .add .w32 .sys .sc) with a := [target 0x40 0 false] }

theorem wit_scOperations :
    nextSc (stScOf stscCmd) 0 = some (cmdWave [stscCmd], stscCmd) ∧ (cmdWave [stscCmd]).canPerform stscCmd = true ∧
    ((stScOf stscCmd).core 0).roomFor (storeRecs stscCmd).length = true ∧ (cmdWave [stscCmd]).twin = none ∧ (stScOf stscCmd).markRoom 6 0 = true ∧
    nextSc (stScOf atScCmd) 0 = some (cmdWave [atScCmd], atScCmd) ∧ (cmdWave [atScCmd]).canPerform atScCmd = true ∧
    stSc.waveHeld (cmdWave [scCmd]) 0 = false := by
  refine ⟨?_, ?_, ?_, rfl, ?_, ?_, ?_, ?_⟩ <;> decide

theorem wit_stampsAndWheel :
    nextSc stSc 0 = some (cmdWave [scCmd], scCmd) ∧ scCmd.op = .ld .ldsc .b4 false ∧ scCmd.st = .queued ∧ stSc.ownsPos 0 stSc.wheelPos = true ∧
    (stSc.core 0).lastSc ≠ some stSc.cycle ∧ scCmd.pushed < stSc.cycle ∧ (cmdWave [scCmd]).canPerform scCmd = true ∧ stSc.canStamp 6 = true ∧
    ({ stSc with cycle := 1025 } : State).ownsPos 0 ({ stSc with cycle := 1025 } : State).wheelPos = false ∧
    2 ^ 54 - 2 ^ 32 ≤ ({ st with fabric := { Fabric.reset with domOffset := 2 ^ 54 } } : State).domCount ∧ st.domCount < 2 ^ 54 - 2 ^ 40 ∧
    st.fabric.warned = false ∧ st.fabric.stopped = false ∧ ((stLog bareWave [rec 1]).core 0).log[0]? = some (rec 1) := by
  refine ⟨?_, rfl, rfl, ?_, ?_, ?_, ?_, ?_, ?_, ?_, ?_, rfl, rfl, rfl⟩ <;> decide

theorem wit_scDone :
    ({ stscCmd with st := stageSt 8 3 } : Cmd).st = stageSt 8 3 ∧ (stMark { mark with stands := true, gone := true } 2).markDone 3 = true ∧ (stMark mark 2).markDone 3 = false ∧
    ({ stLg (.pub .die) 2 with cores := [(0, { Core.reset with log := [{ rec 1 with held := true }] })] } : State).waveHeld (cmdWave [cmd (.pub .die)]) 0 = true := by
  refine ⟨rfl, ?_, ?_, ?_⟩ <;> decide

/-- A store to the scratchpad, and one of the first two lanes. -/
def stsCmd : Cmd := { cmd (.st .sts .b4) with a := [0x40], c := [1] }
def twoLanes : Cmd := { cmd (.st .stg .b4) with mask := 3, a := [target 0x40 0 false, target 0x40 0 false], c := [1, 2] }

set_option maxRecDepth 40000 in
theorem wit_storePerformed :
    (alone (cmdWave [stCmd])).wave? stCmd.wave = some (cmdWave [stCmd]) ∧ st.party? stCmd.party = some bareParty ∧ stCmd.op = .st .stg .b4 ∧ stCmd.st = .queued ∧
    (cmdWave [stCmd]).canPerform stCmd = true ∧ (cmdWave [stCmd]).twin = none ∧ ((alone (cmdWave [stCmd])).core 0).roomFor (storeRecs stCmd).length = true ∧
    ((stLog (cmdWave [stCmd]) (List.replicate 8192 (rec 1))).core 0).roomFor (storeRecs stCmd).length = false ∧ stsCmd.op = .st .sts .b4 ∧
    (cmdWave [stsCmd]).canPerform stsCmd = true ∧ stscCmd.op = .st .stsc .b4 ∧ (cmdWave [stscCmd]).trails = false ∧ (storeRecs twoLanes).length = 1 ∧
    (∀ L, twoLanes.mask.getLsbD L = true → tPa (laneAt twoLanes.a L) % szBytes .b4 = 0) := by
  refine ⟨rfl, rfl, rfl, rfl, ?_, rfl, ?_, ?_, rfl, ?_, rfl, rfl, ?_, fun L h => ?_⟩
  · decide
  · decide
  · decide +kernel
  · decide
  · decide
  · rcases Nat.lt_or_ge L 64 with h64 | h64
    · have key : ∀ L, L < 64 → twoLanes.mask.getLsbD L = true → tPa (laneAt twoLanes.a L) % szBytes .b4 = 0 := by decide
      exact key L h64 h
    · rw [BitVec.getLsbD_of_ge _ _ h64] at h; cases h

theorem wit_barrierArithmetic :
    0 < (Bar.init 1 0 0).aleft ∧ (8192 : Nat) ≤ (Bar.init 0 0 8192).bleft ∧ (Bar.init 1 0 0).bleft < 1 ∧
    ({ Bar.init 1 0 8 with aleft := 0 } : Bar).aleft = 0 ∧ 0 < ({ Bar.init 1 0 8 with aleft := 0 } : Bar).bleft ∧
    (Bar.init 65535 65535 (2 ^ 32 - 1)).phase < 2 ^ 16 ∧ (Bar.init 65535 65535 (2 ^ 32 - 1)).bexp < 2 ^ 32 ∧
    0 < ({ Cb.reset with free := 1 } : Cb).free ∧ 0 < ({ Cb.reset with filled := 1 } : Cb).filled ∧ Cb.reset.resv = 0 ∧ Cb.reset.tak = 0 := by
  decide

/-- A waiting operation of BA, and core 0 with one buffer and a barrier at address 0 in phase 5. -/
def baCmd (o : BaOp) (cb : Nat) : Cmd := { cmd (.ba o cb) with a := [0], b := [4], st := stageSt 1 0 }
def stBa (cs : List Cmd) (b : Cb) : State :=
  { alone (cmdWave cs) with cores := [(0, { Core.reset with bars := [0], sram := [(0, 5)], cbs := [(2, b)], running := some 0 })] }

theorem wit_baCommands :
    (cmd (.ba .binit 2)).op = .ba .binit 2 ∧ (cmdWave [cmd (.ba .binit 2)]).canPerform (cmd (.ba .binit 2)) = true ∧
    ((stBa [] Cb.reset).core 0).loops = [] ∧ ((stBa [] { Cb.reset with free := 1 }).core 0 |>.cb 2).free ≠ 0 ∧
    ((stBa [] { Cb.reset with filled := 1 }).core 0 |>.cb 2).filled ≠ 0 ∧ ((stBa [] Cb.reset).core 0 |>.cb 2).free = 0 ∧
    ((stBa [] Cb.reset).core 0 |>.cb 2).filled = 0 ∧ (stBa [] Cb.reset).cbAhead 0 5 .cbresv 2 = false ∧ (stBa [] Cb.reset).cbAhead 0 5 .cbtake 2 = false ∧
    (stBa [] Cb.reset).waitAhead bareParty 5 0 = false ∧ bareParty.spad 0 = some 0 ∧ ((1 : Lane).toNat % 2 ^ 16 ≠ 0) ∧
    ((stBa [] Cb.reset).core 0).bars.length < 64 ∧ (stBa [] Cb.reset).barLive bareParty 16 = false := by
  refine ⟨rfl, ?_, rfl, ?_, ?_, ?_, ?_, ?_, ?_, ?_, ?_, ?_, ?_, ?_⟩ <;> decide

theorem wit_barrierWaits :
    (stBa [baCmd .wait 0] Cb.reset).wave? 0 = some (cmdWave [baCmd .wait 0]) ∧ (stBa [] Cb.reset).party? 0 = some bareParty ∧
    (cmdWave [baCmd .wait 0]).baWaiting (· == .wait) = some (baCmd .wait 0, .wait, 0) ∧ (baCmd .wait 0).st.stage.1 = 1 ∧
    (stBa [baCmd .wait 0] Cb.reset).waitAhead bareParty 5 (baAddr (baCmd .wait 0).opA) = false ∧
    (cmdWave [{ baCmd .wait 0 with st := stageSt 6 2 }]).baWaiting (· == .wait) = some ({ baCmd .wait 0 with st := stageSt 6 2 }, .wait, 0) ∧ (cmdWave []).trails = false ∧
    (stBa [baCmd .wait 0] Cb.reset).barLive bareParty 0 = true ∧ 1 ≤ ((stBa [] Cb.reset).bar bareParty 0).ahead 4 ∧
    nextOnBuffer (stBa [baCmd .cbresv 2] { Cb.reset with free := 1 }) 0 .cbresv 2 = some (baCmd .cbresv 2) ∧
    (stBa [baCmd .cbresv 2] { Cb.reset with free := 1 }).cbAhead 0 5 .cbresv 2 = false ∧
    nextOnBuffer (stBa [baCmd .cbtake 2] { Cb.reset with filled := 1 }) 0 .cbtake 2 = some (baCmd .cbtake 2) ∧
    nextOnBuffer (stBa [baCmd .cbtake 2] { Cb.reset with filled := 1 }) 0 .cbresv 2 = none ∧
    (((stBa [baCmd .cbtake 2] { Cb.reset with filled := 1 }).core 0).cb 2).filled ≠ 0 ∧
    ((st.partyWaves 0).filter (fun e => !e.2.exited)) = [(0, bareWave)] ∧ bareWave.baWaiting (· == .pbar) = none ∧
    (cmdWave [baCmd .pbar 0]).baWaiting (· == .pbar) = some (baCmd .pbar 0, .pbar, 0) := by
  refine ⟨rfl, rfl, ?_, ?_, ?_, ?_, rfl, ?_, ?_, ?_, ?_, ?_, ?_, ?_, rfl, rfl, ?_⟩ <;> decide

/-- Two waves of the party at PBAR. -/
def stPbar : State := { alone (cmdWave [baCmd .pbar 0]) with waves := [(0, cmdWave [baCmd .pbar 0]), (1, { cmdWave [{ baCmd .pbar 0 with id := 6, wave := 1 }] with rslot := 1, num := 1 })] }

theorem wit_pbar :
    ((stPbar.partyWaves 0).filter (fun e => !e.2.exited)).length = 2 ∧
    (∀ e ∈ (stPbar.partyWaves 0).filter (fun e => !e.2.exited), (e.2.baWaiting (· == .pbar)).isSome = true) ∧
    (∃ e ∈ (st.partyWaves 0).filter (fun e => !e.2.exited), e.2.baWaiting (· == .pbar) = none) ∧
    (({ stPbar with waves := [] } : State).partyWaves 0).filter (fun e => !e.2.exited) = [] := by
  refine ⟨by decide, by decide, ⟨(0, bareWave), by decide, by decide⟩, by decide⟩

/-- Core 0 with an engine command at the head, the matrix engine awake. -/
def stEng (op : QOp) (b : Lane) : State :=
  { st with cores := [(0, { Core.reset with
      mx := { MxEngine.reset with power := .awake 0 }, mxq := [{ cmd op with b := [b] }], gaq := [{ cmd op with b := [b] }], sfq := [{ cmd op with b := [b] }] })] }

set_option maxRecDepth 20000 in
theorem wit_matrixCommands :
    ((stEng .mxCfg 0).core 0).mx.power = .awake 0 ∧ ((stEng .mxCfg 0).core 0).mxq = { cmd .mxCfg with b := [0] } :: [] ∧
    (stEng .mxCfg 0).party? 0 = some bareParty ∧ (stEng .mxCfg 0).wave? 0 = some bareWave ∧ (mxConfig 0).isSome = true ∧
    ({ cmd .mxKat with b := [0] } : Cmd).opB.getLsbD 4 = false ∧ ({ cmd .mxKat with b := [16] } : Cmd).opB.getLsbD 4 = true ∧
    (stEng .mxCfg 0).waitsSts { cmd .mxCfg with b := [0] } = false ∧ (stEng .mxCfg 0).issuing = true ∧ bareWave.trails = false ∧
    (kSig ((stEng .mxKat 0).core 0).mx 0).toNat % 2 ^ 40 =
      ({ cmd .mxKat with b := [0], a := [(kSig ((stEng .mxKat 0).core 0).mx 0).zeroExtend 128] } : Cmd).opA.toNat % 2 ^ 40 ∧ ((stEng .mxKat 0).core 0).mxMore 6 = false ∧
    ({ stEng .gaGidx 0 with waves := [(0, cmdWave [{ cmd (.st .sts .b4) with id := 1 }])] } : State).waitsSts { cmd .gaGidx with b := [0], nth := 1 } = true ∧
    (kSig ((stEng .mxKat 0).core 0).mx 0).toNat % 2 ^ 40 ≠ 2 ^ 40 - 1 ∧
    ((stEng .gaGidx 0).core 0).gaq = { cmd .gaGidx with b := [0] } :: [] ∧ ((stEng (.sf .ex2 .f32) 0).core 0).sfq = { cmd (.sf .ex2 .f32) with b := [0] } :: [] := by
  refine ⟨rfl, rfl, rfl, rfl, ?_, ?_, ?_, ?_, ?_, rfl, rfl, ?_, ?_, ?_, rfl, rfl⟩ <;> decide +kernel

/-- A trailing wave's QSTAT with its forwarded value, and the two submissions of one trigger. -/
def qstatWave : Wave := followWave (fwdKind PortUnit.mx.code 0 0 0)

theorem wit_forwardedStatus :
    qstatWave.trails = true ∧ (qstatWave.fwdFor (cmd .mxQstat)).isSome = true ∧ ({ Core.reset with mxq := [cmd .mxQstat] } : Core).mxMore 5 = true ∧
    Core.reset.mxMore 5 = false ∧ (mxConfig 0).isSome = true := by
  refine ⟨rfl, ?_, ?_, ?_, ?_⟩ <;> decide

theorem wit_sfElements :
    fp32.value 0x7FC00000 = .nan ∧ (-126 : Int) ≤ 127 ∧ (127 : Int) < 128 ∧ 0x43000000 ≤ 0x7F800000 ∧ 0xC3160001 ≤ 0xFF800000 ∧ (-63 : Int) ≤ 63 ∧ 0x80000000 < 0x80000001 ∧
    0x41100000 ≤ 0x7F800000 ∧ 0x40800000 ≤ 0x7F800000 := by decide

theorem wit_accumulatorRows : [KOp.mk 0 0].length ≤ 32 ∧ (63 : Nat) < 64 ∧ (31 : Nat) < 32 := by decide

theorem wit_matrixPower :
    ((stEng .mxCfg 0).core 0).mx.power = .awake 0 ∧ (({ stEng .mxCfg 0 with cores := [] } : State).core 0).mxq = [] ∧
    ({ MxEngine.reset with power := .admitted 0 } : MxEngine).power = .admitted 0 ∧
    nextWake ({ st with cores := [(0, { Core.reset with mx := { MxEngine.reset with power := .requested 0 } })] } : State) 0 = some 0 ∧
    Tab.getD (st.tract 0).wakes (0 / 64) 0 < 8 ∧
    8 ≤ Tab.getD (({ st with tracts := [(0, { Tract.reset with wakes := [(0, 8)] })] } : State).tract 0).wakes (0 / 64) 0 := by
  refine ⟨rfl, rfl, rfl, ?_, ?_, ?_⟩ <;> decide

/-- A copy of one row of 16 bytes inside the scratchpad, on the party's queue; with WAITBAR 0 and WAITPH 4. -/
def spadRow : Lane := BitVec.ofNat 128 (16 * 2 ^ 64 + 2 ^ 84 + 2 ^ 118 + 2 ^ 119)
def sxCmd (op : QOp) (x : CmdSt) : Cmd := { cmd op with a := [0x100], b := [BitVec.ofNat 128 (0x200 + 4 * 2 ^ 96)], c := [spadRow], st := x }
def stSx (op : QOp) (x : CmdSt) (bars : List Nat) : State :=
  { st with
    parties := [(0, { bareParty with sxq := [sxCmd op x] })]
    cores := [(0, { Core.reset with bars := bars, sram := [(0, 5)], running := some 0 })] }

theorem wit_copies :
    (sxHead (stSx (.sx .copy2d 0) .queued []) 0).map (fun x => (x.2.1.st, x.2.2)) = some (.queued, .copy2d) ∧
    (performCopy (stSx (.sx .copy2d 0) .queued []) (sxCmd (.sx .copy2d 0) .queued)).isSome = true ∧
    (performCopy (stSx (.sx .copy2d 0) .queued []) { sxCmd (.sx .copy2d 0) .queued with party := 9 }) = none ∧
    (sxHead (stSx (.sx .copy2dw 0) copyBegun []) 0).map (fun x => (x.2.1.st, x.2.2)) = some (copyBegun, .copy2dw) ∧
    (stSx (.sx .copy2dw 0) .queued [0]).barLive bareParty 0 = true ∧ 1 ≤ ((stSx (.sx .copy2dw 0) .queued [0]).bar bareParty 0).ahead 4 ∧
    (stSx (.sx .copy2dw 0) .queued []).barLive bareParty 0 = false ∧ (sxHead st 0).isNone = true := by
  refine ⟨?_, ?_, rfl, ?_, ?_, ?_, ?_, ?_⟩ <;> decide +kernel

/-- A copy of 16 bytes from the scratchpad to the first page, published at a scope. -/
def outCmd (sc : Nat) : Cmd := { sxCmd (.sx .copy2d 0) .queued with c := [BitVec.ofNat 128 (16 * 2 ^ 64 + 2 ^ 84 + 2 ^ 118 + sc * 2 ^ 120)] }
def stOut (sc : Nat) : State := { stSx (.sx .copy2d 0) .queued [] with
  cycle := 1, parties := [(0, { bareParty with sxq := [outCmd sc] })], cores := [(0, { Core.reset with tlb := [bareTlb], running := some 0 })],
  fabric := { Fabric.reset with sync := true } }
def outRun (sc : Nat) : CopyRun :=
  runCopy (stOut sc) 0 { bareParty with sxq := [outCmd sc] } bareLaunch (outCmd sc) true false false (copyChunks 0x100 0x200 0 0 1 16)
def outPub (sc : Nat) : Option (Mark × State) :=
  publish (outRun sc).st 0 { scope := sc, launch := 0, engine := true, hor := (outCmd sc).he } (outCmd sc).id (outRun sc).wids

theorem wit_copyDetails :
    (sxHead (stOut 5) 0).map (fun x => (x.2.1, x.2.2)) = some (outCmd 5, .copy2d) ∧ (outCmd 5).st = .queued ∧ (outCmd 5).party = 0 ∧
    (stOut 5).launch? bareParty.launch = some bareLaunch ∧ (outCmd 5).got = none ∧ (stOut 5).cmdTrails (outCmd 5) = false ∧
    (stOut 5).copyFed (outCmd 5) true = true ∧ (stOut 5).waitsSts (outCmd 5) = false ∧ ({ bareParty with sxq := [outCmd 5] } : Party).sendsHome (stOut 5) = false ∧
    (SxCopy.ofLanes (outCmd 5).opA (outCmd 5).opB (outCmd 5).opC).dsp = false ∧ (SxCopy.ofLanes 0x100 0x200 spadRow).dsp = true ∧
    (outRun 5).stuck = false ∧ (outPub 5).any (fun r => r.2.markStands r.1.id) = true ∧ (outPub 6).any (fun r => !r.2.markStands r.1.id) = true := by
  refine ⟨?_, rfl, rfl, rfl, rfl, ?_, ?_, ?_, ?_, ?_, ?_, ?_, ?_, ?_⟩ <;> decide +kernel

/-- The same copy on a core without the translation of its destination. -/
def missRun : CopyRun :=
  runCopy { stOut 5 with cores := [(0, { Core.reset with running := some 0 })] } 0 { bareParty with sxq := [outCmd 5] } bareLaunch (outCmd 5) true false false
    (copyChunks 0x100 0x200 0 0 1 16)

theorem wit_copyMiss : missRun.stuck = false ∧ missRun.miss = some 0x200 ∧ (outRun 5).miss = none ∧ (outRun 5).fault = none := by
  refine ⟨?_, ?_, ?_, ?_⟩ <;> decide +kernel

/-- A running LOOPCOPY of two iterations on buffer 2, at iteration i. -/
def loopAt (i : Nat) (stop : Bool) : LoopCtx :=
  { cmd := { cmd (.sx .loopcopy 2) with a := [0x100], b := [BitVec.ofNat 128 (2 + 2 ^ 96)], c := [spadRow] }, i := i, stop := stop, noted := false }
def stLoop (i : Nat) (stop : Bool) (free : Nat) : State :=
  { st with cores := [(0, { Core.reset with loops := [(0, loopAt i stop)], cbs := [(2, { Cb.reset with slots := 2, size := 1, base := 0x400, free := free })] })] }
/-- What iteration i of it copies. -/
def loopRun (i : Nat) : CopyRun :=
  runCopy ((stLoop i false 1).modCb 0 2 (fun b => b.reserve.1)) 0 bareParty bareLaunch (loopAt i false).cmd true true false
    (copyChunks (loopSrc (loopAt i false).cmd.opA (loopAt i false).cmd.opB i) 0x400 0 0 1 16)

theorem wit_loopCopies :
    Tab.get? ((stLoop 0 true 1).core 0).loops 0 = some (loopAt 0 true) ∧ (loopAt 0 true).stop = true ∧ (loopAt 0 false).cmd.op = .sx .loopcopy 2 ∧
    (stLoop 0 false 1).party? 0 = some bareParty ∧ (stLoop 0 false 1).launch? bareParty.launch = some bareLaunch ∧
    (((stLoop 0 false 0).core 0).cb 2).free = 0 ∧ (((stLoop 0 false 1).core 0).cb 2).free ≠ 0 ∧
    (stLoop 0 false 1).waitsSts (loopAt 0 false).cmd = false ∧ ((stLoop 0 false 1).core 0).haltAt = none ∧
    (stLoop 0 false 1).cbAhead 0 5 .cbresv 2 = false ∧ (stLoop 0 false 1).copyFed (loopAt 0 false).cmd true = true ∧
    (loopRun 0).fault = none ∧ 0 + 1 ≠ loopCount (loopAt 0 false).cmd.opB ∧ 1 + 1 = loopCount (loopAt 1 false).cmd.opB := by
  refine ⟨rfl, rfl, rfl, rfl, rfl, rfl, ?_, ?_, rfl, ?_, ?_, ?_, ?_, ?_⟩ <;> decide +kernel

theorem wit_heldRecord : ({ bareParty with held := [{ own := none, rec' := 7 }] } : Party).held = { own := none, rec' := 7 } :: [] ∧ bareParty.ended = false := ⟨rfl, rfl⟩

theorem wit_completionRing :
    cringLog (cringPack 0 0 4 0) ≠ 0 ∧ cringRoom (cringPack 0 0 4 0) = true ∧ cringRoom (cringPack 16 0 4 0) = false ∧ bareParty.resident = true ∧
    bareParty.held = [] ∧ cringLog bareParty.cring = 0 ∧ cringHead (cringPack 1 0 4 0) ≠ cringTail (cringPack 1 0 4 0) ∧
    ({ bareParty with sxWait := [cmd (.sx .waitc 0)] } : Party).sxWait.find? (fun c => c.op.entry) = some (cmd (.sx .waitc 0)) := by
  refine ⟨?_, ?_, ?_, ?_, ?_, ?_, ?_, ?_⟩ <;> decide

/-- Core 0 with zone 0 open and granted to the party, plots of 4 KiB: plot 0 reserved for core 1 of package 3. -/
def plotOf (x : PlotSt) : Plot := { Plot.reset with st := x, ownPkg := 3, ownCore := 1, expect := 32, gen := 2 }
def zone (x : PlotSt) (n lease : Nat) : Zone := { Zone.reset with granted := some 0, isOpen := true, plotsm1 := n, lease := lease, plots := [(0, plotOf x)] }
def stZone (z : Zone) : State := { st with cores := [(0, { Core.reset with zones := [(0, z)] })] }

theorem wit_reservations :
    (3 : Nat) ≠ (stZone (zone .reserved 1 0)).fabric.pkgid ∧ (stZone (zone .reserved 1 0)).net = [] ∧ coreLinear 0 = some 0 ∧
    (((stZone (zone .reserved 1 0)).core 0).zone 0).isOpen = true ∧ ((st.core 0).zone 0).isOpen = false ∧
    ({ stZone (zone .reserved 1 0) with resvs := [.resv 3 1 0 0 0 32] } : State).resvs = [.resv 3 1 0 0 0 32] ∧ (2 : Nat) < 3 ∧
    (stZone (zone .reserved 1 0)).zoneForbidden 3 1 0 = false ∧ (zone .reserved 1 0).plotSize < 4112 ∧ 4096 ≤ (zone .reserved 1 0).plotSize ∧
    (zone .reserved 1 0).firstFree = some 1 ∧ (zone .reserved 0 0).firstFree = none := by
  refine ⟨?_, rfl, ?_, rfl, rfl, rfl, ?_, ?_, ?_, ?_, ?_, ?_⟩ <;> decide

/-- A send accepted for plot 0, and one from the same sender to the same byte. -/
def snd : SendIn := { id := 1, sPkg := 3, sCore := 1, tag := 0, zone := 0, plot := 0, offset := 0, data := [1] }
def stSends : State := { st with cores := [(0, { Core.reset with sends := [snd, { snd with id := 2 }] })] }

theorem wit_sends :
    plotReason (stZone (zone .reserved 1 0)) (zone .reserved 1 0) 3 2 0 2 = some 2 ∧ (zone .reserved 1 0).granted = some 0 ∧
    (stZone (zone .reserved 1 0)).party? 0 = some bareParty ∧ bareParty.resident = true ∧ (zone .reserved 1 0).plotsm1 < 2 ∧
    0 ≤ (zone .reserved 1 0).plotsm1 ∧ ((zone .reserved 1 0).plot 0).st = .reserved ∧ ((zone .reserved 1 0).plot 0).gen = 2 ∧
    ((zone .reserved 1 0).plot 0).ownPkg = 3 ∧ ((zone .reserved 1 0).plot 0).ownCore = 1 ∧ (zone .reserved 1 0).plotSize < 4096 + 1 ∧
    4080 + 16 ≤ (zone .reserved 1 0).plotSize ∧ ((stZone (zone .reserved 1 0)).core 0).sends = [] ∧
    (stZone (zone .reserved 1 0)).zoneForbidden 3 1 0 = false ∧ (stSends.core 0).sends[1]? = some { snd with id := 2 } ∧
    ((stSends.core 0).sends.take 1).any ({ snd with id := 2 } : SendIn).overlaps = true ∧ ((stSends.core 0).sends.take 0).any snd.overlaps = false ∧
    ((zone .reserved 1 0).plot 0).arrived + 32 ≤ ((zone .reserved 1 0).plot 0).expect := by
  refine ⟨?_, rfl, rfl, rfl, ?_, ?_, rfl, rfl, rfl, rfl, ?_, ?_, rfl, ?_, rfl, ?_, ?_, ?_⟩ <;> decide

/-- The send is alone, in a plot that expects 1 or 32 bytes, the party's ring open or not. -/
def stSend (expect : Nat) (ring : Word) : State :=
  { st with
    parties := [(0, { bareParty with cring := ring })]
    cores := [(0, { Core.reset with sends := [snd], zones := [(0, { zone .reserved 1 0 with plots := [(0, { plotOf .reserved with expect := expect })] })], running := some 0 })] }

theorem wit_sendWritten :
    ((stSend 1 0).core 0).sends[0]? = some snd ∧ (((stSend 1 0).core 0).sends.take 0).any snd.overlaps = false ∧ (((stSend 1 0).core 0).zone 0).granted = some 0 ∧
    ((stSend 1 0).party? 0).isSome = true ∧ ((((stSend 1 0).core 0).zone 0).plot 0).st = .reserved ∧
    ((((stSend 1 0).core 0).zone 0).plot 0).arrived + snd.data.length = ((((stSend 1 0).core 0).zone 0).plot 0).expect ∧
    ¬ ((((stSend 32 0).core 0).zone 0).plot 0).arrived + snd.data.length = ((((stSend 32 0).core 0).zone 0).plot 0).expect ∧ snd.sPkg ≠ st.fabric.pkgid ∧
    ({ snd with sPkg := 0 } : SendIn).sPkg = st.fabric.pkgid ∧ (((stSend 1 0).core 0).zone 0).baren = false ∧ cringLog 0 = 0 ∧ cringLog (cringPack 0 0 4 0) ≠ 0 ∧
    cringRoom (cringPack 0 0 4 0) = true ∧ (stSend 1 0).zoneOpen (zone .reserved 1 0) = true ∧
    ({ st with parties := [(0, { bareParty with ended := true })] } : State).zoneOpen (zone .reserved 1 0) = false := by
  refine ⟨rfl, ?_, rfl, rfl, rfl, ?_, ?_, ?_, ?_, rfl, ?_, ?_, ?_, ?_, ?_⟩ <;> decide

/-- The party's queue with a landfall command or a LOOPCOPY at its head, to a core of a package. -/
def stStart (op : QOp) (a b : Lane) : State := { stRoute bareWave with parties := [(0, { bareParty with sxq := [{ cmd op with a := [a], b := [b] }] })] }

theorem wit_engineStarts :
    (stStart (.sx .landresv 0) 3 32).party? 0 = some { bareParty with sxq := { cmd (.sx .landresv 0) with a := [3], b := [32] } :: [] } ∧ bareParty.copyHeld = false ∧
    (cmd (.sx .landresv 0)).party = 0 ∧ (stStart (.sx .landresv 0) 3 32).cmdTrails { cmd (.sx .landresv 0) with a := [3], b := [32] } = false ∧
    (stStart (.sx .landresv 0) 3 32).waitsSts { cmd (.sx .landresv 0) with a := [3], b := [32] } = false ∧ bareParty.sendsHome st = false ∧
    (startHead (stStart (.sx .landresv 0) 3 32) 0).isSome = true ∧ (stRoute bareWave).reachable 3 = true ∧ st.reachable 3 = false ∧ (3 : Nat) ≠ st.fabric.pkgid ∧
    ({ cmd (.sx .landclr 0) with b := [64] } : Cmd).opB.getLsbD 6 = true ∧ ({ cmd (.sx .landclr 0) with b := [0] } : Cmd).opB.getLsbD 6 = false ∧
    ((st.core 0).sends.filter (ClearOp.localClr 0 0).covers) = [] ∧ ((st.core 0).zone 0).isOpen = false ∧
    (st.core 0).loops.length + ((st.coreParties 0).map (fun e => e.2.heldLoops)).sum < 4 ∧ Tab.get? (st.core 0).loops 0 = none ∧
    4 ≤ ({ Core.reset with loops := [(0, loopAt 0 false), (1, loopAt 0 false), (2, loopAt 0 false), (3, loopAt 0 false)] } : Core).loops.length := by
  refine ⟨rfl, rfl, rfl, ?_, ?_, ?_, ?_, ?_, ?_, ?_, ?_, ?_, ?_, ?_, ?_, ?_, ?_⟩ <;> decide +kernel

/-- A clear that waits for that send. -/
def clr (n : Nat) : ClearReq := { op := .localClr 0 0, sends := [n] }
def stClr (n : Nat) : State := { st with cores := [(0, { Core.reset with sends := [snd], clears := [clr n] })] }

theorem wit_plotClears :
    ((stClr 1).core 0).clears[0]? = some (clr 1) ∧ ((stClr 1).core 0).sends.any (fun x => (clr 1).sends.contains x.id) = true ∧
    ((stClr 2).core 0).sends.any (fun x => (clr 2).sends.contains x.id) = false ∧
    ((stClr 1).core 0).sends.filter (ClearOp.localClr 0 0).covers ≠ [] ∧ ((st.core 0).sends.filter (ClearOp.localClr 0 0).covers) = [] ∧
    ((stClr 1).core 0).sends[0]? = some snd ∧
    (zone .reserved 1 1).lease ≠ 0 ∧ ((zone .reserved 1 1).plot 0).since + (zone .reserved 1 1).lease * 1050000 ≤ 1050000 ∧
    1049999 < ((zone .reserved 1 1).plot 0).since + (zone .reserved 1 1).lease * 1050000 ∧ ((stZone (zone .reserved 1 1)).core 0).clears = [] := by
  refine ⟨rfl, ?_, ?_, ?_, ?_, rfl, ?_, ?_, ?_, rfl⟩ <;> decide

theorem wit_answersAndNotices :
    coreLinear 0 = some 0 ∧ ((((stZone (zone .reserved 1 0)).core 0).zone 0).plot 0).isFor 3 1 2 = true ∧
    ((((stZone (zone .reserved 1 0)).core 0).zone 0).plot 0).isFor 3 1 1 = false ∧ (stSent true).nthSent 0 0 = some (0, sentReq true) ∧
    ({ st with parties := [(0, { bareParty with sxWait := [cmd (.sx .landsend 0)] })] } : State).landCmd 5 = some (cmd (.sx .landsend 0)) ∧
    st.landCmd 5 = none ∧ (ldCmd 2 (.sent 0 0 0 false)).st = .sent 0 0 0 false ∧
    (cmdWave [ldCmd 2 (.sent 0 0 0 false)]).nthLoad 0 = some (ldCmd 2 (.sent 0 0 0 false)) := by
  refine ⟨?_, ?_, ?_, ?_, ?_, ?_, rfl, ?_⟩ <;> decide

/-- The wave stands at a phase boundary. -/
def phaseWave : Wave := { bareWave with atPhase := some (5, true), inSet := false }

/-- The party has no wave on the core and a task, and its package is synchronised. -/
def stIdle : State := { st with cycle := 1, waves := [], fabric := { Fabric.reset with sync := true } }

/-- The wave has written its record; and a party of two waves, one of them at the boundary. -/
def carriedWave : Wave := { phaseWave with carried := true }
def stHalfWay : State := stTwo phaseWave bareWave

theorem wit_phases :
    (alone phaseWave).party? 0 = some bareParty ∧ (alone phaseWave).launch? bareParty.launch = some bareLaunch ∧ bareLaunch.twin = false ∧
    bareParty.lead = true ∧ bareParty.ended = false ∧ bareParty.resident = true ∧ bareParty.phaseOver = false ∧
    ((alone phaseWave).core bareParty.core).haltAt = none ∧ st.toCarry 0 = [] ∧ st.atBoundary 0 = false ∧
    stHalfWay.toCarry 0 = [(0, phaseWave)] ∧ (carryWave stHalfWay 0 (0, phaseWave)).atBoundary 0 = false ∧
    (alone carriedWave).toCarry 0 = [] ∧ (alone carriedWave).atBoundary 0 = true ∧
    ((publishTail (alone carriedWave) 0 0 5).bind (fun e => (retireTask (e.agreeKeep 0 bareLaunch bareParty) 0 bareParty true).party? 0)).isSome = true ∧
    recordOffset bareLaunch bareParty 0 + (phaseWave.waypoint bareFunc bareParty).bytes.length ≤ bareLaunch.wpkib * 1024 ∧
    0 * 1024 < recordOffset bareLaunch bareParty 0 + (phaseWave.waypoint bareFunc bareParty).bytes.length ∧
    stIdle.phaseReady 0 bareParty = true ∧ stIdle.canStamp 5 = true ∧ stIdle.acquireReady 0 5 (stIdle.takeStamp 0).1 none = true ∧
    st.phaseReady 0 bareParty = false := by
  refine ⟨rfl, rfl, rfl, rfl, rfl, rfl, rfl, rfl, ?_, ?_, ?_, ?_, ?_, ?_, ?_, ?_, ?_, ?_, ?_, ?_, ?_⟩ <;> decide +kernel

/-- A wave that has exited, of a party that has begun. -/
def exitState : State :=
  { alone { bareWave with exited := true, inSet := false } with
    parties := [(0, { bareParty with firstBundle := some 0 })], fabric := { Fabric.reset with sync := true } }

theorem wit_partyAndLaunchEnd :
    exitState.allExited 0 { bareParty with firstBundle := some 0 } = true ∧ (publishTail exitState 0 0 6).isSome = true ∧
    st.allExited 0 bareParty = false ∧ bareParty.waiting = false ∧ ({ bareParty with waiting := true } : Party).waiting = true ∧
    bareLaunch.assigned.length = bareLaunch.xs * bareLaunch.ys ∧ st.marksGone 0 = true ∧ bareLaunch.completed = false ∧
    ({ st with parties := [] } : State).parties.all (fun e => e.2.launch != 0 || e.2.ended) = true ∧ bareLaunch.cancelled = false ∧
    bareLaunch.fault = none ∧ bareLaunch.retired.length ≠ bareLaunch.xs * bareLaunch.ys ∧
    ({ bareLaunch with retired := [(0, 0)] } : Launch).retired.length = bareLaunch.xs * bareLaunch.ys := by
  refine ⟨?_, ?_, ?_, ?_, ?_, ?_, ?_, ?_, ?_, ?_, ?_, ?_, ?_⟩ <;> decide +kernel

/-- The party's last publication has been made, and its mark does not stand. -/
theorem wit_partyEnding :
    ({ bareParty with ending := some [3] } : Party).ending = some [3] ∧ (stMark mark 1).markStands 3 = false ∧ (stMark { mark with stands := true } 1).markStands 3 = true ∧
    bareParty.ending = none ∧ publishTail ({ exitState with fabric := Fabric.reset } : State) 0 0 6 = none := by
  refine ⟨rfl, ?_, ?_, rfl, ?_⟩ <;> decide +kernel

/-- The example of R304: X = 3, Y = 2, stencil 0x4800. -/
def wave2d (done : List (Nat × Nat)) (given : List (Nat × Nat)) : Launch :=
  { bareLaunch with xs := 3, ys := 2, stencil := 0x4800, retired := done, assigned := given, released := [] }

/-- R304: at launch only the first task is free; when it has retired, its two neighbours are. -/
theorem test_stencil :
    (wave2d [] []).release.released = [(0, 0)] ∧ (wave2d [(0, 0)] [(0, 0)]).release.released = [(1, 0), (0, 1)] := by decide +kernel

/-- The party waits for a task, and one is released. -/
def stTask : State :=
  { st with cycle := 1, launches := [(0, { bareLaunch with released := [(0, 0)], assigned := [] })], parties := [(0, { bareParty with waiting := true })] }

theorem wit_taskRelease :
    stTask.launch? 0 = some { bareLaunch with released := [(0, 0)], assigned := [] } ∧ bareLaunch.active = true ∧ stTask.nextWaiting 0 = some 0 ∧
    stTask.twinParty 0 = none ∧ bareLaunch.released = [] ∧ st.nextWaiting 0 = none ∧ (pktWord [0, 0, 0x8000000000#64] 2).testBit 39 = true := by
  refine ⟨rfl, ?_, ?_, ?_, rfl, ?_, ?_⟩ <;> decide

theorem wit_waveStart : bareLaunch.func.routes = [] ∧ ({ bareFunc with routes := [7] } : Func).routes[bareParty.route]? = some 7 := by decide

/-- A loaded container of an interface with the bare function. -/
def box (vi : Nat) : Loaded := { handle := 1, vi := vi, c := { image := [] }, funcs := [bareFunc], data := none, dataBase := 0, dataUnits := [] }
/-- Queue 0 of interface 0 with a packet of format f for it at HEAD. -/
def stQueue (f : Byte) : State :=
  { State.reset with
    home := [(0x1000, 0x01), (0x1001, 0x20), (0x2000, 0x01), (0x2001, 0x30), (0x3000, 0x3F), (0x4000, f), (0x4008, 1)]
    vis := [(0, { Vi.reset with s2base := 0x1000, s2valid := true, qcount := 1, enable := true, cores := [0, 1] })]
    queues := [(0, { WQueue.reset with ring := 0x4004, enable := true, tail := 1 })]
    containers := [box 0] }

theorem wit_packetHeads :
    ((stQueue 1).queue 0).enable = true ∧ ((stQueue 1).queue 0).headPkt = none ∧ ((stQueue 1).queue 0).waiting ≠ 0 ∧
    refusal (stQueue 1) ((stQueue 1).queue 0) (((stQueue 1).queue 0).origin 0) ((stQueue 1).packetAt ((stQueue 1).queue 0) 0)
      (some (argEntries 0 [])) = none ∧
    refusal (stQueue 2) ((stQueue 2).queue 0) (((stQueue 2).queue 0).origin 0) ((stQueue 2).packetAt ((stQueue 2).queue 0) 0)
      (some (argEntries 0 [])) = some 1 ∧
    (stQueue 1).argBytes 0 0 0 0 true 0 0 = some [] ∧ (st.queue 0).enable = false := by
  refine ⟨rfl, rfl, ?_, ?_, ?_, ?_, rfl⟩ <;> decide +kernel

/-- A packet whose argument block is one entry long, before its acquire, and with an acquire of stamp 5. -/
def stArgs (acq : Option Nat) : State :=
  { stQueue 1 with
    cycle := 1024
    home := [(0x1000, 0x01), (0x1001, 0x20), (0x2000, 0x01), (0x2001, 0x30), (0x3000, 0x3F), (0x4000, 0x01), (0x4008, 1), (0x4027, 0x01)]
    fabric := { Fabric.reset with sync := true }
    queues := [(0, { WQueue.reset with ring := 0x4004, enable := true, tail := 1, acq := acq })] }

theorem wit_argumentBlock :
    min (pktArgn ((stArgs none).packetAt ((stArgs none).queue 0) 0)) 32 ≠ 0 ∧
    refusal (stArgs none) ((stArgs none).queue 0) (((stArgs none).queue 0).origin 0) ((stArgs none).packetAt ((stArgs none).queue 0) 0) (some ([], true)) ≠ some 1 ∧
    ((stArgs none).queue 0).acq = none ∧ (stArgs none).canStamp 6 = true ∧ ((stArgs (some 5)).queue 0).acq = some 5 ∧ (stArgs (some 5)).launchAcquired 5 = true ∧
    ({ stArgs (some 5) with marks := [{ mark with scope := 6, stamp := 4 }] } : State).launchAcquired 5 = false := by
  refine ⟨?_, ?_, rfl, ?_, rfl, ?_, ?_⟩ <;> decide +kernel

/-- A done record that is due, and a ring of 16 records that is full. -/
def due : DoneDue := { queue := 0, launch := none, record := 7 }
def stDue (dhead : Nat) (peers : Bool) : State := { st with queues := [(0, { WQueue.reset with due := [due], dhead := dhead, peers := peers })] }

theorem wit_queueWrites :
    (2 ^ ringLog ((stDue 0 true).queue 0).ring < (17 + 2 ^ 32 - ((stDue 0 true).queue 0).head) % 2 ^ 32) ∧
    (16 + 2 ^ 32 - ((stDue 0 true).queue 0).head) % 2 ^ 32 ≤ 2 ^ ringLog ((stDue 0 true).queue 0).ring ∧
    ({ stDue 0 true with launches := [] } : State).launches = [] ∧ ((stDue 0 true).queue 0).peers = true ∧ ((stDue 0 true).queue 0).room = true ∧
    ((stDue 0 false).queue 0).peers = false ∧ (st.queue 0).due = [] ∧ ((stDue 0 true).queue 0).due = [due] ∧ due.launch = none ∧
    (((stDue 16 true).queue 0).dhead + 2 ^ 32 - ((stDue 16 true).queue 0).dtail) % 2 ^ 32 = 2 ^ ringLog ((stDue 16 true).queue 0).done ∧
    (((stDue 0 true).queue 0).dhead + 2 ^ 32 - ((stDue 0 true).queue 0).dtail) % 2 ^ 32 ≠ 2 ^ ringLog ((stDue 0 true).queue 0).done := by
  decide +kernel

theorem wit_kill :
    ({ st with launches := [(0, bareLaunch)] } : State).launch? 0 = some bareLaunch ∧ bareLaunch.queue = 0 ∧ bareLaunch.completed = false := ⟨rfl, rfl, rfl⟩

/-- A checked head packet at a level, the cores of the partition, and the parties on core 0. -/
def stHead (level : Nat) (cores : List Nat) (ps : List (Nat × Party)) : State :=
  { stQueue 1 with
    vis := [(0, { Vi.reset with s2base := 0x1000, s2valid := true, qcount := 1, enable := true, cores := cores })]
    queues := [(0, { WQueue.reset with ring := 0x4004, enable := true, tail := 1, headPkt := some [1, 1], headLevel := level })]
    launches := [(0, { bareLaunch with assigned := [(0, 0)] })]
    cores := [(0, { Core.reset with running := some 0 })]
    parties := ps }

theorem wit_scheduling :
    ((stHead 5 [0, 1] []).vi 0).enable = true ∧ (stHead 5 [0, 1] []).halting 0 = false ∧
    sortItems (stHead 5 [0, 1] []) 0 ((stHead 5 [0, 1] []).items 0) = .head 0 :: [] ∧ ((stHead 5 [0, 1] []).need 0 (.head 0)).isSome = true ∧
    (((stHead 5 [0, 1] []).need 0 (.head 0)).bind ((stHead 5 [0, 1] []).coresFor 0)) = some [0] ∧
    (((stHead 5 [0, 1] []).need 0 (.head 0)).map (fun n => n.twin)) = some false ∧
    (((stHead 5 [0] [(0, bareParty), (1, bareParty)]).need 0 (.head 0)).bind ((stHead 5 [0] [(0, bareParty), (1, bareParty)]).coresFor 0)) = none ∧
    (((stHead 5 [0] [(0, bareParty), (1, bareParty)]).need 0 (.head 0)).bind ((stHead 5 [0] [(0, bareParty), (1, bareParty)]).preemptCore 0)) =
      some 0 ∧ (st.vi 0).enable = false := by
  refine ⟨rfl, ?_, ?_, ?_, ?_, ?_, ?_, ?_, rfl⟩ <;> decide +kernel

theorem wit_room :
    (((stHead 5 [0, 1] []).need 0 (.head 0)).map (fun n => (n.twin, (stHead 5 [0, 1] []).coresFor 0 n))) = some (false, some [0]) ∧
    0 ∈ (stHead 5 [0, 1] []).usableCores 0 := by
  refine ⟨?_, ?_⟩ <;> decide +kernel

/-- Core 0 asked to halt at cycle 0, its interface with a slice, and a saved context of it. -/
def stHalt (w : Wave) : State :=
  { alone w with
    cores := [(0, { Core.reset with haltAt := some 0, running := some 0 })]
    vis := [(0, { Vi.reset with slice := 1, cores := [0], qcount := 1, enable := true })] }
def ctx : SavedCtx :=
  { core := 0, vi := 0, coreSt := Core.reset, waves := [(0, bareWave)], parties := [0], ckpts := [], inShadow := true }
def stSaved : State := { st with waves := [], cores := [], saved := [ctx], parties := [(0, { bareParty with resident := false })] }
/-- A second interface with work on core 0. -/
def stSlice : State :=
  { stHead 5 [0] [] with
    vis := [(0, { Vi.reset with slice := 1, cores := [0] }), (1, { Vi.reset with s2base := 0x1000, s2valid := true, qcount := 1, enable := true, cores := [0] })]
    launches := []
    queues := [(0, { WQueue.reset with enable := true, vi := 1, tail := 1, headPkt := some [1, 1] })]
    containers := [box 1]
    cycle := 105000 }

theorem wit_preemption :
    ((stHalt bareWave).core 0).haltAt = some 0 ∧ ((stHalt bareWave).core 0).running = some 0 ∧ (stHalt bareWave).coreQuiet 0 = true ∧
    (stHalt (cmdWave [stCmd])).coreQuiet 0 = false ∧ (stHalt bareWave).coreParties 0 = (0, bareParty) :: [] ∧
    st.saved = [] ∧ stSaved.saved = [ctx] ∧ stSaved.party? 0 = some { bareParty with resident := false } ∧ stSaved.mayResume ctx = true ∧
    (stSlice.core 0).running = some 0 ∧ (stSlice.core 0).haltAt = none ∧ (stSlice.vi 0).slice ≠ 0 ∧ stSlice.nextVi 0 0 = some 1 ∧
    (stSlice.core 0).sliceStart + (stSlice.vi 0).slice * 105000 ≤ stSlice.cycle := by
  refine ⟨rfl, rfl, ?_, ?_, ?_, rfl, rfl, rfl, ?_, rfl, rfl, ?_, ?_, ?_⟩ <;> decide +kernel

/-- A secure region over the first 2 MiB, a secure partition with queue 0, and secure legend register 0. -/
def stSecure : State :=
  { st with
    regions := [(0, (3, 0))], worldleg := [(0, 1)], ccWorld := [(0, true)], vis := [(0, { Vi.reset with secure := true, qcount := 1 })] }

theorem wit_registerSpace :
    (0 < 8 ∧ 8 ≤ 8 ∧ isHbm (0x40 + 8 - 1) = true) ∧ st.securePa 0x40 = false ∧ stSecure.securePa 0x40 = true ∧
    Tab.get? stSecure.ccWorld 0 = some true ∧ Tab.get? ({ stSecure with ccWorld := [(1, false)] } : State).ccWorld 1 = some false ∧
    Tab.get? st.ccWorld 0 = none ∧ st.ccWorld = [] ∧ stSecure.ccWorld ≠ [] ∧ isHbm (0x00F000000008 + 8 - 1) = false ∧
    regAt st 0x00F0_0080_0010 = some (.route 2) ∧ regAt st 0x00F0_0060_0048 = some (.tract 1 8) ∧ regAt st 0x00F0_00A0_0000 = some (.power 0) ∧
    regAt st 0x00F0_0020_0008 = some (.worldleg 1) ∧ regAt stSecure 0x00F0_0100_0008 = some (.queue 0 8 true) ∧ stSecure.secureQueue 0 = true ∧
    regAt st 0x00F0_0000_0028 = some (.queue 0 0x28 false) ∧ st.secureQueue 0 = false ∧ regAt st 4 = none ∧ (st.vi 0).enable = false ∧
    ((stQueue 1).vi 0).enable = true := by
  refine ⟨?_, ?_, ?_, ?_, ?_, ?_, ?_, ?_, ?_, ?_, ?_, ?_, ?_, ?_, ?_, ?_, ?_, ?_, ?_, ?_⟩ <;> decide

theorem wit_securePart :
    ({ stSecure with regions := [(0, (2097152 + 3, 0x200000))] } : State).securePa 0x1FFFFC = false ∧
    ({ stSecure with regions := [(0, (2097152 + 3, 0x200000))] } : State).securePa (0x1FFFFC + 8 - 1) = true ∧ 0x3C % 64 + 4 ≤ 64 ∧ ¬ 0x3C % 64 + 8 ≤ 64 ∧
    regAt stSecure 0x00F0_0000_0008 = some (.queue 0 8 false) := by
  refine ⟨?_, ?_, ?_, ?_, ?_⟩ <;> decide

theorem wit_tlbInvalidation :
    (st.vi 0).tlbinv.getLsbD 63 = true ∧ (({ st with vis := [(0, { Vi.reset with tlbinv := 0 })] } : State).vi 0).tlbinv.getLsbD 63 = false ∧
    (st.vi 0).tlbBusy = none ∧ (({ st with vis := [(0, { Vi.reset with tlbBusy := some 9 })] } : State).vi 0).tlbBusy = some 9 ∧
    (alone (cmdWave [ldCmd 0 .queued])).oldAccess 0 9 = true ∧ st.oldAccess 0 9 = false ∧ st.oldRecs 0 9 = [] := by decide

/-- A legend register of K8A that may stand, and its top word. -/
def legend : Legend := { w0 := 0, w1 := 0, w2 := 0x10000000000#64, top := 0x8000030000000020#64, clearing := none }

/-- An LDL of a window that has not been performed. -/
def stView : State :=
  { alone (cmdWave [{ cmd (.ld .ldl .b4 false) with a := [target 0x10000000040 0 false] }]) with legends := [(0, legend)] }

theorem wit_poisonAndLegends :
    (2 ^ 28 - 1 < 2 ^ 28 ∧ isHbm (4096 * 4) = true) ∧ st.poisonCmd.getLsbD 63 = true ∧
    ({ st with poisonCmd := 0 } : State).poisonCmd.getLsbD 63 = false ∧ 0x4040 / 4096 = 4 ∧ stSecure.secureLegend 0 = true ∧ st.secureLegend 0 = false ∧
    (({ st with legends := [(0, { Legend.reset with clearing := some 7 })] } : State).legend 0).clearing = some 7 ∧ (st.legend 0).clearing = none ∧
    st.viewing 0 = false ∧ stView.viewing 0 = true ∧
    st.legendOk 0 legend = true ∧ st.legendOk 0 { legend with top := 0 } = false := by
  refine ⟨?_, ?_, ?_, ?_, ?_, ?_, ?_, ?_, ?_, ?_, ?_, ?_⟩ <;> decide

theorem wit_placement :
    (2 : Nat) ≤ 2 ∧ isHbm 0x6100001340 = true ∧ (7 < 2 ^ 19 ∧ isHbm (7 * 2 ^ 21) = true) ∧ (2 : BitVec 2).toNat ≠ 3 ∧ (3 : BitVec 2).toNat = 3 ∧
    isHbm (16 * Config.stackBytes - 1) = true := by decide

/-- A port in a state. -/
def stPort (x : PortSt) : State := { st with ports := [(0, { FabPort.reset with enable := true, st := x, peerPkg := 3 })], cycle := 210000000 }

theorem wit_fabric :
    ((stPort .up).port 0).st = .up ∧ ((stPort .train).port 0).st = .train ∧ (stPort .train).cycle ≤ ((stPort .train).port 0).since + 210000000 ∧
    ((stPort .train).port 0).since + 210000000 ≤ (stPort .train).cycle ∧ (7 < 2 ^ 16 ∧ 3 < 2 ^ 8) ∧
    ({ Fabric.reset with master := true } : Fabric).master = true ∧ Fabric.reset.sync = false ∧ Fabric.reset.master = false ∧
    st.marks.all (fun m => m.gone) = true ∧ (stMark mark 1).marks.all (fun m => m.gone) = false ∧
    ({ Fabric.reset with domup := true } : Fabric).domup = true ∧ Fabric.reset.busy = false ∧ ({ Fabric.reset with busy := true } : Fabric).busy = true ∧
    st.usable 3 = [] ∧ (stRoute bareWave).usable 3 ≠ [] ∧ (3 : Nat) ≠ (stRoute bareWave).fabric.pkgid := by
  refine ⟨rfl, rfl, ?_, ?_, ?_, rfl, rfl, rfl, rfl, rfl, rfl, rfl, rfl, ?_, ?_, ?_⟩ <;> decide

theorem wit_countersAndPower :
    (st.core 0).zoneBusy = false ∧ ({ Core.reset with clears := [{ op := .zoneClose 0 true, sends := [1] }] } : Core).zoneBusy = true ∧
    (st.core 0).sends.any (fun x => x.zone == 0) = false ∧ (stSends.core 0).sends.any (fun x => x.zone == 0) = true ∧
    st.mgmt.effLimit < 3001 ∧ (105 : Nat) ≤ 105 ∧ (105 : Nat) < 115 ∧ (100 : Nat) ≤ 100 ∧ 28 * 100 < st.mgmt.effLimit * 95 ∧
    st.mgmt.effLimit * 95 ≤ 3000 * 100 := by
  refine ⟨?_, ?_, ?_, ?_, ?_, ?_, ?_, ?_, ?_, ?_⟩ <;> decide

/-- An image of a kind with a body of 64 bytes. The root digest and the verification of signatures are opaque (Log 10), so a witness takes as premises
that the key is the root key and that the signature verifies. -/
def image (k : BitVec 8) : Image :=
  { magic := 0x544F4F42#32, kind := k, version := 7, size := 64, load := 0, entry := 0, pubkey := 0, body := List.replicate 64 0,
    sig := List.replicate Config.sigBytes 0 }

theorem wit_bootStages (k : BitVec 8) (hd : keyDigest 0#512 = Config.rootDigest) (hv : ∀ b s, Config.slhVerify 0#512 "KRBOOT1" b s = true) :
    imageFails Mgmt.reset (image k) k.toNat [Config.rootDigest] = none ∧ keyListOk (image k).body = true ∧ Mgmt.reset.atStage 0 = true ∧
    ({ Mgmt.reset with stage := 3 } : Mgmt).atStage 3 = true ∧ Mgmt.reset.operatorVersion < (image k).version.toNat ∧
    imageFails Mgmt.reset { image k with magic := 0 } k.toNat [Config.rootDigest] = some 1 ∧ inTract0 (image k) = true ∧
    inTract0 { image k with load := Config.stackBytes } = false ∧ keyListOk ([] : List Byte) = false := by
  refine ⟨?_, ?_, by decide, by decide, ?_, ?_, by rfl, by rfl, by decide⟩
  · simp [imageFails, image, hd, hv, Mgmt.minVersion, Mgmt.reset, Tab.getD, Tab.get?]
  · show keyListOk (List.replicate 64 0) = true; decide
  · show Mgmt.reset.operatorVersion < (7#32).toNat; decide
  · simp [imageFails, image]

/-- A request of a code with a number, and a signature under the one operator key. -/
def request (code n : Nat) : MgmtHdr := { len := 16, code := code, zero := 0, req := n }
def signed : Signed := { key := 5, sig := [] }
def stOps (code : Nat) : State := { st with mgmt := { Mgmt.reset with operators := [5], inbox := [request code 1] } }

theorem wit_management (code : Nat) (hv : ∀ m, Config.slhVerify 5#512 "KRMGMT1" m [] = true) (ops : List Byte) :
    (stOps code).mgmt.inbox = request code 1 :: [] ∧ st.mgmt.inbox = [] ∧ (request 0x10 1).code = 0x10 ∧ (request 0x10 1).code ≠ 0x11 ∧
    (stOps code).mgmt.accepts (request code 1) signed ops = true ∧ ({ (stOps code).mgmt with lastReq := [(5, 1)] } : Mgmt).accepts (request code 1) signed ops = false ∧
    (639 : Nat) < 640 ∧ 639 ∈ ({ Mgmt.reset with retmap := [639] } : Mgmt).retmap ∧ Mgmt.reset.minVersion 4 < 2 ^ 32 - 1 ∧
    Tab.get? ({ Mgmt.reset with slots := [(1, [])] } : Mgmt).slots 1 = some [] ∧ Tab.get? Mgmt.reset.slots 1 = none := by
  refine ⟨rfl, rfl, rfl, by decide, ?_, ?_, by decide, by decide, by decide, rfl, rfl⟩
  · simp [Mgmt.accepts, Mgmt.operatorList, stOps, signed, request, mgmtMsg, hv, Mgmt.reset]
  · simp [Mgmt.accepts, signed, request]

/-- Two containers of header, directory, the section of a portable level, the head of the manifest, and zeros: one of four sections, and what emdx derives
from it, with one page of native text from byte 65,536 on and its XREF.
Digests, signatures and the layouts of the sections of functions are opaque (Logs 10 and 17), so the witnesses take as premises that every digest is zero, that
every signature of the key of zeros verifies and that every field of those sections is zero, but for a node of each function in the level. -/
def zeros (n : Nat) : List Byte := List.replicate n 0

theorem zeros_length (n : Nat) : (zeros n).length = n := List.length_replicate
theorem zeros_drop (n k : Nat) : (zeros n).drop k = zeros (n - k) := List.drop_replicate
theorem zeros_take (n k : Nat) : (zeros n).take k = zeros (min k n) := List.take_replicate

theorem ofBytes_zeros (n : Nat) : ofBytes (zeros n) = 0 := by
  induction n with
  | zero => rfl
  | succ n ih =>
    have : ofBytes (zeros (n + 1)) = 256 * ofBytes (zeros n) := by simp [zeros, List.replicate_succ, ofBytes]
    rw [this, ih]

def manSize (b : Bool) : Nat := if b then 30112 else 29984
def boxHead (b : Bool) : List Byte :=
  bytesOf 4 0x534C5441 ++ bytesOf 2 1 ++ bytesOf 2 (if b then 6 else 4) ++ bytesOf 8 64 ++ bytesOf 8 131072 ++ bytesOf 40 0 ++
    (bytesOf 2 1 ++ bytesOf 6 0 ++ bytesOf 8 320 ++ bytesOf 8 (manSize b) ++ bytesOf 8 0) ++ (bytesOf 2 4 ++ bytesOf 6 0 ++ bytesOf 8 131072 ++ bytesOf 16 0) ++
    (bytesOf 2 0x20 ++ bytesOf 6 0 ++ bytesOf 8 131072 ++ bytesOf 16 0) ++ (bytesOf 2 0x10 ++ bytesOf 6 0 ++ bytesOf 8 256 ++ bytesOf 8 64 ++ bytesOf 8 0) ++
    (bytesOf 2 0x13 ++ bytesOf 2 4 ++ bytesOf 4 0 ++ bytesOf 8 131072 ++ bytesOf 16 0) ++
    (bytesOf 2 2 ++ bytesOf 2 4 ++ bytesOf 4 0 ++ bytesOf 8 65536 ++ bytesOf 8 65536 ++ bytesOf 8 0) ++ bytesOf 64 0x10
def manHead (b : Bool) : List Byte := bytesOf 2 1 ++ bytesOf 6 0 ++ bytesOf 2 (if b then 6 else 4) ++ bytesOf 2 1 ++ bytesOf 4 (if b then 1 else 0) ++ bytesOf 48 0
def levelBox (b : Bool) : Container := { image := boxHead b ++ (manHead b ++ zeros 130688) }
def levelMan (b : Bool) : List Byte := manHead b ++ zeros (manSize b - 64)
abbrev goodBox : Container := levelBox true
abbrev goodMan : List Byte := levelMan true

theorem boxHead_length (b : Bool) : (boxHead b).length = 320 := by cases b <;> decide +kernel
theorem manHead_length (b : Bool) : (manHead b).length = 64 := by cases b <;> decide +kernel

theorem fieldAt_append_left (a b : List Byte) (off n : Nat) (h : off + n ≤ a.length) : fieldAt (a ++ b) off n = fieldAt a off n := by
  unfold fieldAt
  rw [List.drop_append_of_le_length (by omega), List.take_append_of_le_length (by simp; omega)]

theorem fieldAt_zeros (a : List Byte) (m off n : Nat) (h : a.length ≤ off) : fieldAt (a ++ zeros m) off n = 0 := by
  unfold fieldAt
  rw [List.drop_append, List.drop_eq_nil_of_le h, List.nil_append, zeros_drop, zeros_take, ofBytes_zeros]

theorem levelBox_field (b : Bool) (off n : Nat) (h : off + n ≤ 320) : fieldAt (levelBox b).image off n = fieldAt (boxHead b) off n :=
  fieldAt_append_left _ _ _ _ (by rw [boxHead_length]; exact h)

theorem levelBox_head (b : Bool) : boxMagic (levelBox b) = 0x534C5441 ∧ boxFver (levelBox b) = 1 ∧ boxNsec (levelBox b) = (if b then 6 else 4) ∧
    boxDirOff (levelBox b) = 64 ∧ boxTotal (levelBox b) = 131072 ∧ fieldAt (levelBox b).image 24 40 = 0 ∧ (levelBox b).image.length = 131072 := by
  refine ⟨?_, ?_, ?_, ?_, ?_, ?_, ?_⟩
  all_goals first
    | ((try simp only [boxMagic, boxFver, boxNsec, boxDirOff, boxTotal]); rw [levelBox_field _ _ _ (by omega)]; cases b <;> decide +kernel)
    | simp [levelBox, boxHead_length, manHead_length, zeros_length]

theorem levelBox_man (b : Bool) : ((levelBox b).image.drop 320).take (manSize b) = levelMan b := by
  have h : (levelBox b).image.drop 320 = manHead b ++ zeros 130688 := by
    show (boxHead b ++ _).drop 320 = _
    exact List.drop_left' (boxHead_length b)
  have hs : 64 ≤ manSize b ∧ manSize b ≤ 30112 := by cases b <;> decide
  rw [h, List.take_append, manHead_length, List.take_of_length_le (by rw [manHead_length]; exact hs.1), zeros_take, Nat.min_eq_left (by omega)]
  rfl

theorem goodBox_text : (goodBox.image.drop 65536).take 65536 = zeros 65536 := by
  show ((boxHead true ++ (manHead true ++ _)).drop 65536).take 65536 = _
  rw [List.drop_append, List.drop_append, List.drop_eq_nil_of_le (by rw [boxHead_length]; omega),
    List.drop_eq_nil_of_le (by rw [manHead_length, boxHead_length]; omega), boxHead_length, manHead_length, zeros_drop, List.nil_append, List.nil_append, zeros_take]
  rfl

theorem levelBox_level (b : Bool) : ((levelBox b).image.drop 256).take 64 = bytesOf 64 0x10 := by
  show ((boxHead b ++ _).drop 256).take 64 = _
  rw [List.drop_append_of_le_length (by rw [boxHead_length]; omega), List.take_append_of_le_length (by simp [boxHead_length])]
  cases b <;> decide +kernel

theorem fieldAt_drop (im : List Byte) (a off n : Nat) : fieldAt (im.drop a) off n = fieldAt im (a + off) n := by
  simp [fieldAt, List.drop_drop]

theorem levelBox_section (b : Bool) (k : Nat) (h : k < 6) : sectionAt (levelBox b) k =
    { typ := fieldAt (boxHead b) (64 + 32 * k) 2, gensel := fieldAt (boxHead b) (64 + 32 * k + 2) 2, offset := fieldAt (boxHead b) (64 + 32 * k + 8) 8,
      size := fieldAt (boxHead b) (64 + 32 * k + 16) 8,
      bytes := ((levelBox b).image.drop (fieldAt (boxHead b) (64 + 32 * k + 8) 8)).take (fieldAt (boxHead b) (64 + 32 * k + 16) 8),
      reservedZero := fieldAt (boxHead b) (64 + 32 * k + 4) 4 == 0 && fieldAt (boxHead b) (64 + 32 * k + 24) 8 == 0 } := by
  have hd : boxDirOff (levelBox b) = 64 := (levelBox_head b).2.2.2.1
  simp only [sectionAt, hd, fieldAt_drop]
  rw [levelBox_field _ _ _ (by omega), levelBox_field _ _ _ (by omega), levelBox_field _ _ _ (by omega), levelBox_field _ _ _ (by omega),
    levelBox_field _ _ _ (by omega), levelBox_field _ _ _ (by omega)]
  rfl

/-- The six sections; the first four are those of both. -/
def levelDir (b : Bool) : List Section :=
  [⟨1, 0, 320, manSize b, levelMan b, true⟩, ⟨4, 0, 131072, 0, [], true⟩, ⟨0x20, 0, 131072, 0, [], true⟩, ⟨0x10, 0, 256, 64, bytesOf 64 0x10, true⟩] ++
    if b then [⟨0x13, 4, 131072, 0, [], true⟩, ⟨2, 4, 65536, 65536, zeros 65536, true⟩] else []

theorem levelBox_dir (b : Bool) : boxDir (levelBox b) = levelDir b := by
  have f0 : fieldAt (boxHead b) 72 8 = 320 ∧ fieldAt (boxHead b) 80 8 = manSize b := by cases b <;> decide +kernel
  have f1 : fieldAt (boxHead b) 104 8 = 131072 ∧ fieldAt (boxHead b) 112 8 = 0 := by cases b <;> decide +kernel
  have f2 : fieldAt (boxHead b) 136 8 = 131072 ∧ fieldAt (boxHead b) 144 8 = 0 := by cases b <;> decide +kernel
  have f3 : fieldAt (boxHead b) 168 8 = 256 ∧ fieldAt (boxHead b) 176 8 = 64 := by cases b <;> decide +kernel
  have f4 : fieldAt (boxHead b) 200 8 = 131072 ∧ fieldAt (boxHead b) 208 8 = 0 := by cases b <;> decide +kernel
  have f5 : fieldAt (boxHead true) 232 8 = 65536 ∧ fieldAt (boxHead true) 240 8 = 65536 := by decide +kernel
  have s0 : sectionAt (levelBox b) 0 = ⟨1, 0, 320, manSize b, levelMan b, true⟩ := by
    rw [levelBox_section b 0 (by omega), f0.1, f0.2, levelBox_man]; cases b <;> rfl
  have s1 : sectionAt (levelBox b) 1 = ⟨4, 0, 131072, 0, [], true⟩ := by
    rw [levelBox_section b 1 (by omega), f1.1, f1.2, List.take_zero]; cases b <;> rfl
  have s2 : sectionAt (levelBox b) 2 = ⟨0x20, 0, 131072, 0, [], true⟩ := by
    rw [levelBox_section b 2 (by omega), f2.1, f2.2, List.take_zero]; cases b <;> rfl
  have s3 : sectionAt (levelBox b) 3 = ⟨0x10, 0, 256, 64, bytesOf 64 0x10, true⟩ := by
    rw [levelBox_section b 3 (by omega), f3.1, f3.2, levelBox_level]; cases b <;> rfl
  have s4 : sectionAt (levelBox b) 4 = ⟨0x13, 4, 131072, 0, [], true⟩ := by
    rw [levelBox_section b 4 (by omega), f4.1, f4.2, List.take_zero]; cases b <;> rfl
  have s5 : sectionAt (levelBox true) 5 = ⟨2, 4, 65536, 65536, zeros 65536, true⟩ := by
    rw [levelBox_section true 5 (by omega), f5.1, f5.2, goodBox_text]; rfl
  cases b <;> simp [boxDir, (levelBox_head _).2.2.1, List.range_succ, s0, s1, s2, s3, s4, s5, levelDir]

theorem levelBox_manifest (b : Bool) : manifestOf (levelBox b) = levelMan b := by cases b <;> simp [manifestOf, sectionOf, levelBox_dir, levelDir]

theorem levelMan_head (b : Bool) : manMver (levelMan b) = 1 ∧ fieldAt (levelMan b) 2 2 = 0 ∧ manBaseDig (levelMan b) = 0 ∧
    manNsec (levelMan b) = (if b then 6 else 4) ∧ manNfunc (levelMan b) = 1 ∧ manNpages (levelMan b) = (if b then 1 else 0) ∧
    manSigner (levelMan b) = 0 ∧ fieldAt (levelMan b) 32 32 = 0 ∧ (levelMan b).length = manSize b := by
  have key : ∀ off n, off + n ≤ 64 → fieldAt (levelMan b) off n = fieldAt (manHead b) off n := fun off n h =>
    fieldAt_append_left _ _ _ _ (by rw [manHead_length]; exact h)
  refine ⟨?_, ?_, ?_, ?_, ?_, ?_, ?_, ?_, ?_⟩
  all_goals first
    | ((try simp only [manMver, manBaseDig, manNsec, manNfunc, manNpages, manSigner]); rw [key _ _ (by omega)]; cases b <;> decide +kernel)
    | (cases b <;> simp [levelMan, manHead_length, zeros_length, manSize])

theorem levelMan_digests (b : Bool) (k : Nat) : sectionDigest (levelMan b) k = 0 ∧ pageDigest (levelMan b) k = 0 := by
  have hp : 64 ≤ manPages (levelMan b) := by simp [manPages]
  constructor
  · unfold sectionDigest levelMan; rw [fieldAt_zeros _ _ _ _ (by rw [manHead_length]; omega)]; rfl
  · unfold pageDigest
    have h : fieldAt (levelMan b) (manPages (levelMan b) + 32 * k) 32 = 0 := fieldAt_zeros (manHead b) _ _ _ (by rw [manHead_length]; omega)
    rw [h]; rfl

theorem levelBox_formatOk (b : Bool) : formatOk (levelBox b) = true := by
  obtain ⟨h1, h2, h3, h4, h5, h6, h7⟩ := levelBox_head b
  obtain ⟨m1, m2, -, m4, m5, m6, m7, m8, m9⟩ := levelMan_head b
  have hm : manifestForm (levelMan b) = true := by
    cases b <;> simp [manifestForm, m1, m2, m5, m8, m9, manSig, manPages, m4, m6, upTo64, Config.sigBytes, manSize]
  have hd : directoryOk (levelBox b) = true := by
    cases b <;> simp [directoryOk, levelBox_dir, levelDir, h3, h4, h5, laterPairs, dirOk, apart, knownTypes, manSize]
  cases b <;> simp [formatOk, levelBox_manifest, hm, hd, h1, h2, h3, h4, h5, h6, h7, m4, m6, levelBox_dir, levelDir, textPages]

/-- An interface that trusts the key of 64 zero bytes. -/
def ed : Edition := { handle := 1, number := 0, vi := 0, base := 0, units := [], pages := [(0, [], 0)], loaded := [], failedPages := [], newest := true }
def stTrust : State :=
  { st with
    mgmt := { Mgmt.reset with trust := [0] }
    vis := [(0, Vi.reset)]
    editions := [ed]
    containers := [box 0] }

/-- What the witnesses take of the opaque functions. -/
structure Opaques : Prop where
  shake : ∀ l, Config.shake256 l = 0
  verify : ∀ b g, Config.slhVerify 0#512 "ATLAS1" b g = true
  field : ∀ typ b k j, typ ≠ 0x10 → Config.sectionField typ b k j = 0
  node : ∀ b k, Config.sectionField 0x10 b k 0 = 1

theorem wit_signedBy (o : Opaques) (m : List Byte) (h : manSigner m = 0) : stTrust.mgmt.signedBy m = true := by
  have : stTrust.mgmt.signerKey (manSigner m) = some 0 := by
    simp [Mgmt.signerKey, stTrust, keyDigest, o.shake, h]
  simp [Mgmt.signedBy, this, o.verify]

theorem levelBox_funcs (o : Opaques) (b : Bool) : let f := boxFunc (levelBox b) 0
    boxFuncs (levelBox b) = [f] ∧ f.entry = 0 ∧ f.width = 0 ∧ f.scratchPages = 0 ∧ f.roles = [] ∧ f.plan = [] ∧ f.wheel = 0 ∧ f.routes = [] ∧
    f.carryV = [] ∧ f.carryS = [] ∧ f.carryA = [] ∧ f.launchable = false ∧ f.calleeWidths = [] ∧ f.eager = false := by
  have hz : ∀ typ k j, typ ≠ 0x10 → boxField (levelBox b) typ k j = 0 := fun typ k j h => by
    unfold boxField; split <;> simp [o.field _ _ _ _ h]
  have hp : planEntries (levelBox b) = [] := by cases b <;> simp [planEntries, sectionOf, levelBox_dir, levelDir]
  have hc : ∀ k off n, carrySet (levelBox b) k off n = [] := fun k off n => by cases b <;> simp [carrySet, sectionOf, levelBox_dir, levelDir]
  refine ⟨by simp [boxFuncs, levelBox_manifest, (levelMan_head b).2.2.2.2.1, List.range_succ], ?_⟩
  simp [boxFunc, hz, hp, hc, o.field]

/-- The one with text is native throughout; the other's function is text for emdx only. -/
theorem levelBox_native (o : Opaques) : allNative goodBox = true ∧ allNative (levelBox false) = false := by
  obtain ⟨hf, he, -⟩ := levelBox_funcs o true
  obtain ⟨hg, -⟩ := levelBox_funcs o false
  refine ⟨?_, ?_⟩
  · simp [allNative, hf, holdsText, nativeText, levelBox_dir, levelDir, enum, List.range_succ, he]
  · simp [allNative, hg, holdsText, nativeText, levelBox_dir, levelDir, enum, List.range_succ]

theorem goodBox_fit (o : Opaques) : fitStatus stTrust 0 goodBox = 0 := by
  obtain ⟨hf, he, hw, hs, hr, hp, hwh, hro, hv, hcs, hca, hl, hcw, heg⟩ := levelBox_funcs o true
  have hb : planBanks (boxFunc goodBox 0) = [] := by simp [planBanks, hp]
  have hpg : pagesOf goodBox = [(0, (zeros 65536).take 65536, pageDigest (manifestOf goodBox) 0)] := by
    simp [pagesOf, nativeText, levelBox_dir, levelDir, enum, List.range_succ, textPages, List.range_succ]
  simp [fitStatus, hf, sectionsFormOk, sectionOf, levelBox_dir, levelDir, funcFormOk, hw, hs, hr, hp, hwh, hro, hv, hcs, hca, funcRolesOk, hl, hcw, planFormOk, laterPairs,
    fitsAlone, hb, hpg, pageMatches, o.shake, levelBox_manifest, (levelMan_digests true 0).2]

theorem levelBox_form (o : Opaques) (b : Bool) : formatOk (levelBox b) = true ∧ stTrust.mgmt.signedBy (manifestOf (levelBox b)) = true ∧ sectionsMatch (levelBox b) = true := by
  refine ⟨levelBox_formatOk b, ?_, ?_⟩
  · rw [levelBox_manifest]; exact wit_signedBy o _ (levelMan_head b).2.2.2.2.2.2.1
  · cases b <;> simp [sectionsMatch, levelBox_dir, levelDir, enum, List.range_succ, levelBox_manifest, o.shake, fun b k => (levelMan_digests b k).1]

/-- What emdx derives: the container with text. -/
def emdx (d : Option Container) : Emdx := { vers := [(0x10, 0)], nodes := [(0x10, 0)], derived := d }

theorem wit_containerLoad (o : Opaques) (x : Emdx) :
    loadStatus stTrust 0 goodBox x = (0, goodBox) ∧ (loadStatus stTrust 0 { image := [] } x).1 = 1 := by
  obtain ⟨h1, h2, h3⟩ := levelBox_form o true
  refine ⟨?_, ?_⟩
  · simp [loadStatus, formStatus, h1, h2, h3, textStatus, levelBox_native o, goodBox_fit o]
  · have h : formStatus stTrust { image := [] } = 1 := by rfl
    simp [loadStatus, h]

/-- The first failing check: header, signature, section digest. -/
theorem wit_formStatus :
    formatOk { image := [] } = false ∧ (formatOk goodBox = true ∧ st.mgmt.signedBy (manifestOf goodBox) = false) ∧
    ((∀ l, Config.shake256 l = if l = [] then 1 else 0) → (∀ b g, Config.slhVerify 0#512 "ATLAS1" b g = true) →
      stTrust.mgmt.signedBy (manifestOf goodBox) = true ∧ sectionsMatch goodBox = false) := by
  refine ⟨by rfl, ⟨levelBox_formatOk true, by rfl⟩, fun hs hv => ⟨?_, ?_⟩⟩
  · have hk : stTrust.mgmt.signerKey (manSigner (manifestOf goodBox)) = some 0 := by
      rw [levelBox_manifest, (levelMan_head true).2.2.2.2.2.2.1]
      have : bytesOf 64 0 ≠ ([] : List Byte) := by decide
      simp [Mgmt.signerKey, stTrust, keyDigest, hs, this]
    simp [Mgmt.signedBy, hk, hv]
  · simp [sectionsMatch, levelBox_dir, levelDir, enum, List.range_succ, levelBox_manifest, hs, (levelMan_digests true 1).1]

/-- The text choice: no release that translates; one whose container is none, is not derived from this one, or is. -/
theorem wit_textChoice (o : Opaques) :
    chooseText (levelBox false) { vers := [], nodes := [], derived := none } 0 = none ∧ (chooseText (levelBox false) (emdx none) 0).isSome = true ∧
    (emdx none).derived = none ∧ derivedFrom (levelBox false) { image := [] } = false ∧ (emdx (some goodBox)).derived = some goodBox ∧
    derivedFrom (levelBox false) goodBox = true ∧ (0 : Nat) < manNfunc (manifestOf (levelBox false)) := by
  have hn : holdsText (levelBox false) (boxFunc (levelBox false) 0) = false := by simp [holdsText, nativeText, levelBox_dir, levelDir, enum, List.range_succ]
  have hl : sectionOf (levelBox false) 0x10 = some ⟨0x10, 0, 256, 64, bytesOf 64 0x10, true⟩ := by simp [sectionOf, levelBox_dir, levelDir]
  have hv : fieldAt (bytesOf 64 0x10) 0 2 = 0x10 ∧ fieldAt (bytesOf 64 0x10) 2 2 = 0 := by decide +kernel
  refine ⟨?_, ?_, rfl, ?_, rfl, ?_, by rw [levelBox_manifest, (levelMan_head false).2.2.2.2.1]; decide⟩
  · simp [chooseText, hn]
  · simp [chooseText, hn, emdx, hl, hv, atLevel, o.node]
  · simp [derivedFrom, boxDir, boxNsec, fieldAt, ofBytes]
  · simp [derivedFrom, levelBox_dir, levelDir, nativeText, enum, List.range_succ, levelBox_manifest, (levelMan_head true).2.2.1, o.shake]

/-- The limits, roles, callees' widths, plans and pages that a check refuses. -/
def wideFunc : Func := { bareFunc with scratchPages := 65 }
def planAt (kind off unit : Nat) : PlanEntry :=
  { kind := kind, bank := 0, unitno := unit, offset := off, bytes := 32, first := 0, last := 1, reservedZero := true }

theorem wit_fitStatus :
    funcFormOk bareFunc = true ∧ funcFormOk wideFunc = false ∧ funcRolesOk bareFunc = true ∧ funcRolesOk { bareFunc with roles := [] } = false ∧
    (∃ w ∈ ({ bareFunc with calleeWidths := [64] } : Func).calleeWidths, w ≠ bareFunc.width) ∧
    planFormOk { bareFunc with plan := [planAt 2 0 0, planAt 2 32 0] } = false ∧ planFormOk { bareFunc with plan := [planAt 2 0 0, planAt 3 16 0] } = true ∧
    (laterPairs [planAt 2 0 0, planAt 3 16 0]).all (fun p => !planClash p.1 p.2) = false ∧
    (laterPairs [planAt 2 0 0, planAt 3 32 0]).all (fun p => !planClash p.1 p.2) = true ∧
    (Config.shake256 [] ≠ 1 → pageMatches (0, [], 1) = false) := by
  refine ⟨?_, ?_, ?_, ?_, ⟨64, .head _, ?_⟩, ?_, ?_, ?_, ?_, fun h => ?_⟩
  case refine_10 => simpa [pageMatches] using h
  all_goals decide

/-- A patch of page 0 of edition 0 of container 1: a manifest without sections, with one page digest, and a page of zeros. -/
def patchHead : List Byte := bytesOf 2 1 ++ bytesOf 6 0 ++ bytesOf 2 0 ++ bytesOf 2 1 ++ bytesOf 4 1 ++ bytesOf 48 0
def goodPatch : Patch := { handle := 1, base := 0, manifest := patchHead ++ zeros 29856, pages := [(0, zeros 65536)] }

theorem goodPatch_head : manMver goodPatch.manifest = 1 ∧ fieldAt goodPatch.manifest 2 2 = 0 ∧ manNsec goodPatch.manifest = 0 ∧ manNfunc goodPatch.manifest = 1 ∧
    manNpages goodPatch.manifest = 1 ∧ manSigner goodPatch.manifest = 0 ∧ fieldAt goodPatch.manifest 32 32 = 0 ∧ goodPatch.manifest.length = 29920 := by
  have hl : patchHead.length = 64 := by decide +kernel
  have key : ∀ off n, off + n ≤ 64 → fieldAt goodPatch.manifest off n = fieldAt patchHead off n := fun off n h =>
    fieldAt_append_left _ _ _ _ (by rw [hl]; exact h)
  refine ⟨?_, ?_, ?_, ?_, ?_, ?_, ?_, ?_⟩
  all_goals first
    | ((try simp only [manMver, manNsec, manNfunc, manNpages, manSigner]); rw [key _ _ (by omega)]; decide +kernel)
    | simp [goodPatch, hl, zeros_length]

theorem wit_patch (o : Opaques) :
    patchForm goodPatch = true ∧ stTrust.mgmt.signedBy goodPatch.manifest = true ∧ (patchPages goodPatch).all pageMatches = true ∧
    (patchPages goodPatch).all (fun x => ed.pages.any (fun y => y.1 == x.1)) = true ∧ patchForm { goodPatch with manifest := [] } = false := by
  obtain ⟨m1, m2, m4, m5, m6, m7, m8, m9⟩ := goodPatch_head
  have hd : pageDigest goodPatch.manifest 0 = 0 := by
    unfold pageDigest
    have h : fieldAt goodPatch.manifest (manPages goodPatch.manifest + 32 * 0) 32 = 0 :=
      fieldAt_zeros patchHead 29856 _ _ (by simp [manPages]; decide)
    rw [h]; rfl
  refine ⟨?_, wit_signedBy o _ m7, ?_, ?_, by rfl⟩
  · simp [patchForm, manifestForm, m1, m2, m4, m5, m6, m8, m9, manSig, manPages, upTo64, Config.sigBytes]
    simp [goodPatch, laterPairs, zeros_length]
  · simp [patchPages, goodPatch, enum, List.range_succ, pageMatches, o.shake]
    exact hd.symm
  · simp [patchPages, goodPatch, enum, List.range_succ, ed]

theorem wit_lastBase : ({ goodPatch with base := 2 ^ 32 - 1 } : Patch).base = 2 ^ 32 - 1 ∧ goodPatch.base + 1 < 2 ^ 32 ∧
    ({ stTrust with containers := [] } : State).containers.any (fun c => c.handle == goodPatch.handle) = false ∧
    (patchPages goodPatch).all (fun q => q.1 != 0) = false ∧ (patchPages goodPatch).all (fun q => q.1 != 1) = true := by
  refine ⟨rfl, by decide, rfl, ?_, ?_⟩ <;> simp [patchPages, goodPatch, enum, List.range_succ]

theorem wit_loader :
    stTrust.editions.find? (fun e => e.handle == 1 && e.newest) = some ed ∧ stTrust.editions.find? (fun e => e.handle == 2 && e.newest) = none ∧
    stTrust.editions.find? (fun e => e.handle == 1 && e.number == 0) = some ed ∧
    stTrust.containers.any (fun c => c.handle == 1) = true ∧ ed.number = goodPatch.base ∧ ed.number ≠ 1 ∧ ed.pages.find? (fun p => p.1 == 0) = some (0, [], 0) ∧
    0 ∉ ed.loaded ∧ ed.failedPages.any (fun x => x.1 == 0) = false ∧ stTrust.fetching 1 0 0 = true ∧
    ({ stTrust with waves := [] } : State).fetching 1 0 0 = false := by
  refine ⟨by decide, by decide, by decide, by decide, by decide, by decide, by decide, by decide, by decide, by decide, by decide⟩

/-- The same edition with another digest for its page: bytes that the loader brings fail it. -/
def edBad : Edition := { ed with pages := [(0, [], 1)] }

theorem wit_badPage (o : Opaques) :
    ({ stTrust with editions := [edBad] } : State).editions.find? (fun e => e.handle == 1 && e.number == 0) = some edBad ∧
    edBad.pages.find? (fun p => p.1 == 0) = some (0, [], 1) ∧ ({ stTrust with editions := [edBad] } : State).fetching 1 0 0 = true ∧
    Config.shake256 [] ≠ 1 ∧ Config.shake256 [] = 0 :=
  ⟨by decide, by decide, by decide, by rw [o.shake]; decide, o.shake []⟩

/-- A party with two banks. -/
def twoBanks : Party := { bareParty with banks := [(0, 3), (1, 2)] }

theorem wit_memories :
    Mem.wf st.home = true ∧ Mem.wf (st.core twoBanks.core).sram = true ∧ twoBanks.spadOk 0x100 16 = true ∧ isHbm (0x40 + 16 - 1) = true ∧
    (∀ a b x, twoBanks.spad a = some x → twoBanks.spad b = some x → a = b) := by
  refine ⟨by decide, by decide, by decide, by decide, fun a b x ha hb => ?_⟩
  have key : ∀ a, twoBanks.spad a = some x → (a < 32768 ∧ x = 98304 + a) ∨ (32768 ≤ a ∧ a < 65536 ∧ x = 32768 + a) := fun a h => by
    simp only [Party.spad, twoBanks, Tab.get?, Config.bankBytes] at h
    split at h
    · cases h
    · simp only [Option.map_eq_some_iff] at h
      obtain ⟨c, hc, rfl⟩ := h
      split at hc
      · cases hc; omega
      · split at hc
        · cases hc; omega
        · cases hc
  rcases key a ha with h | h <;> rcases key b hb with g | g <;> omega

theorem wit_stepKeepsMemory :
    State.reset.MemWf ∧ step { st with agenda := [.snapall] } = .next (snapAll { st with agenda := [] }) := by
  refine ⟨⟨by decide, ?_, ?_⟩, rfl⟩
  · intro e he; cases he
  · intro x hx; cases hx

/-! Witnesses of the clauses on the corners of the number formats, the trees, the matrix operands and the later clauses. -/

theorem wit_floatCorners :
    ETy.inF .f32 = true ∧ (0xFFFFFFFF < 2 ^ (fmtOf .f32).w) ∧ fpcFin 0 = false ∧ fpcFin 0x10 = true ∧ fpcFres 0x20 = true ∧ fpcFres 0 = false ∧
    fp32.value 0x7FC00000 = .nan ∧ fp32.value 0x7F800000 = .inf false ∧ fp32.value 0xFF800000 = .inf true ∧ (fp32.value 0x80000000).isZero = true ∧
    fp32.value 0x40200000 = .fin false (5 * 2 ^ 21) 1 (-22) ∧ fp32.isSub 1 = true ∧ fp32.infCode = 0x7F800000 ∧ fp32.signBit = 0x80000000 := by
  refine ⟨?_, ?_, ?_, ?_, ?_, ?_, ?_, ?_, ?_, ?_, ?_, ?_, ?_, ?_⟩ <;> decide

/-- R127: FRINT of 2.5, FSCALE of 2.5 by 3 and by −1; Table 4.6: the class of a subnormal, and of −∞. -/
theorem test_floatCorners :
    fmElem .frint fp32 .rne fx 0 0x40200000 0 0 = 0x40000000 ∧ fmElem .fscale fp32 .rne fx 0 0x40200000 3 0 = 0x41A00000 ∧
    fmElem .fscale fp32 .rne fx 0 0x40200000 0xFFFFFFFF 0 = 0x3FA00000 ∧ classWord fp32 1 = 32 ∧ classWord fp32 0xFF800000 = 1 := by
  refine ⟨?_, ?_, ?_, ?_, ?_⟩ <;> decide

theorem wit_chainDenormals : fpcFin 0x10 = true ∧ fpcFres 0x20 = true ∧ (0xFFFFFFFF : Nat) < 2 ^ 32 ∧ fpcFin 0x20 = false := by decide

theorem wit_conversions :
    ((ETy.isFloat .k8a && ETy.isFloat .bf16 && ETy.isInt .s16 && ETy.isBfp .bfp4) = true ∧ ETy.inF .k8a = false ∧ ETy.inF .bf16 = true) ∧
    (fmtOf .f32).value 0x7FC00000 = .nan ∧ (fmtOf .f32).value 0x7F800000 = .inf false ∧ (fmtOf .f32).value 0xFF800000 = .inf true ∧
    ((0x080C / 2 ^ 12 = 0 ∧ 0x080C / 16 % 256 ≠ 255 ∧ 0x080C ≠ 0) ∧ 0x1000 / 2 ^ 12 ≠ 0 ∧ 0x0FF0 / 16 % 256 = 255 ∧ 0x0FF0 / 2 ^ 12 = 0) ∧
    (fp32.value 0x40400000).isNan = false ∧ (fp32.value 0x40400000).isZero = false ∧ (fp32.value 0).isZero = true ∧ fpcFin 0x10 = true ∧
    ETy.isBfp .s16 = false := by
  refine ⟨⟨?_, ?_, ?_⟩, ?_, ?_, ?_, ⟨⟨?_, ?_, ?_⟩, ?_, ?_, ?_⟩, ?_, ?_, ?_, ?_, ?_⟩ <;> decide

theorem wit_crossWidths :
    (∀ J, (0x8001 : BitVec 64).getLsbD J = true → J < 16) ∧ lowest 0x8001 = some 0 ∧ ¬ bits (laneAt [40] 0).toNat 5 0 < 16 ∧
    bits (laneAt [15] 0).toNat 5 0 < 16 := by
  refine ⟨fun J h => ?_, by decide, by decide, by decide⟩
  rcases Nat.lt_or_ge J 64 with h64 | h64
  · have key : ∀ k, k < 64 → 16 ≤ k → (0x8001 : BitVec 64).getLsbD k = false := by decide
    exact Nat.lt_of_not_ge fun h16 => by rw [key J h64 h16] at h; cases h
  · rw [BitVec.getLsbD_of_ge _ _ h64] at h; cases h

/-- The nodes of a tree of lanes: level k has the node of lanes J to J + 2^k − 1 at J. -/
def nodeAt (leaf : Nat → Option Nat) (join : Nat → Option Nat → Option Nat → Option Nat) : Nat → Nat → Option Nat
  | 0, J => leaf J
  | k + 1, J => join (J + 2 ^ k) (nodeAt leaf join k J) (nodeAt leaf join k (J + 2 ^ k))

/-- The folds of the blocks of 64 lanes and below, from the largest. -/
def foldFrom (step : Nat → Option Nat → Option Nat) : Nat → Option Nat
  | 0 => none
  | k + 1 => step (6 - k) (foldFrom step k)

theorem wit_crossTrees (leaf : Nat → Option Nat) (join : Nat → Option Nat → Option Nat → Option Nat) (step : Nat → Option Nat → Option Nat) :
    (∃ node : Nat → Nat → Option Nat, (∀ J, node 0 J = leaf J) ∧ ∀ k J, node (k + 1) J = join (J + 2 ^ k) (node k J) (node k (J + 2 ^ k))) ∧
    (∃ fold : Nat → Option Nat, fold 7 = none ∧ ∀ k, k < 7 → fold k = step k (fold (k + 1))) := by
  refine ⟨⟨nodeAt leaf join, fun _ => rfl, fun _ _ => rfl⟩, ⟨fun k => foldFrom step (7 - k), rfl, fun k hk => ?_⟩⟩
  match k, hk with
  | 0, _ | 1, _ | 2, _ | 3, _ | 4, _ | 5, _ | 6, _ => rfl

theorem wit_bytePermute :
    (15 : Nat) < 16 ∧ (elem 8 (0x80 : Lane) 0).testBit 7 = true ∧ (elem 8 (0x7F : Lane) 0).testBit 7 = false ∧ elem 8 (0x7F : Lane) 0 % 32 = 31 := by decide

/-- STACC's B operand: K8A, rounding mode RTZ, stride 64, zeroing, scale 1.0. -/
def staccB : Lane := 0x0100_0040_3F800000#128 ||| (1 : Lane) <<< 53 ||| (3 : Lane) <<< 48

theorem wit_matrixOperands :
    (∀ L, (0x101 : BitVec 64).getLsbD L = true → L / 32 = 0) ∧ (∀ L, (0x8000000100000000 : BitVec 64).getLsbD L = true → L / 32 = 1) ∧
    lowest 0x101 = some 0 ∧ (staccType staccB).isSome = true ∧ Rm.ofCode (staccB.toNat / 2 ^ 53 % 8) = some .rtz ∧ staccB.toNat.testBit 56 = true ∧
    (2 ^ 36 : Nat).testBit 36 = true ∧ ETy.isBfp .bfp4 = true ∧ ETy.isBfp .bf16 = false ∧ (∃ x ∈ [XVal.nan], XVal.isNan x = true) ∧
    XVal.inf true ∈ [XVal.inf true, XVal.inf false] ∧ XVal.inf false ∈ [XVal.inf true, XVal.inf false] ∧ (∃ l : BLatch, Tab.get? [(0, l)] 0 = some l) ∧
    ETy.isInt .s8 = true ∧ ETy.isInt .k8a = false ∧
    (∀ (acc : BitVec 32) (f : Nat → BitVec 32 → BitVec 32), ∃ sum : Nat → BitVec 32, sum 0 = acc ∧ ∀ k, sum (k + 1) = f k (sum k)) := by
  have key : ∀ k, k < 64 → (0x101 : BitVec 64).getLsbD k = true → k / 32 = 0 := by decide
  have key' : ∀ k, k < 64 → (0x8000000100000000 : BitVec 64).getLsbD k = true → k / 32 = 1 := by decide
  refine ⟨fun L h => ?_, fun L h => ?_, by decide, by decide, by decide, by decide, by decide, by decide, by decide, ⟨_, .head _, rfl⟩,
    .head _, .tail _ (.head _), ⟨⟨[], []⟩, rfl⟩, by decide, by decide, fun acc f => ⟨fun k => Nat.rec acc f k, rfl, fun _ => rfl⟩⟩
  · rcases Nat.lt_or_ge L 64 with h64 | h64
    · exact key L h64 h
    · rw [BitVec.getLsbD_of_ge _ _ h64] at h; cases h
  · rcases Nat.lt_or_ge L 64 with h64 | h64
    · exact key' L h64 h
    · rw [BitVec.getLsbD_of_ge _ _ h64] at h; cases h

/-- A cycle that a duty of 8 of 16 forbids. -/
def offDuty (s : State) : State := { s with cycle := 8, mgmt := { s.mgmt with duty := 8 } }

theorem wit_matrixDuty :
    (offDuty (stEng (.mxMmq 0 0) 0)).issuing = false ∧ (∃ l m, (cmd (.mxMmq 0 0)).op = .mxMmq l m ∨ (cmd (.mxMmq 0 0)).op = .mxMmw l m) ∧
    (offDuty (stEng .mxCfg 0)).issuing = false ∧ ¬ (∃ l m, (cmd .mxCfg).op = .mxMmq l m ∨ (cmd .mxCfg).op = .mxMmw l m) ∧
    (offDuty (stEng .mxCfg 0)).waitsSts { cmd .mxCfg with b := [0] } = false ∧
    ({ stEng (.mxLdb 0) 0 with waves := [(0, cmdWave [{ cmd (.st .sts .b4) with id := 1 }])] } : State).waitsSts { cmd (.mxLdb 0) with b := [0], nth := 1 } = true ∧
    (kSig ((stEng .mxKat 0).core 0).mx 0).toNat % 2 ^ 40 ≠ ({ cmd .mxKat with b := [16], a := [2 ^ 40 - 1] } : Cmd).opA.toNat % 2 ^ 40 := by
  refine ⟨by decide, ⟨0, 0, .inl rfl⟩, by decide, ?_, by decide +kernel, by decide +kernel, by decide +kernel⟩
  rintro ⟨_, _, h | h⟩ <;> cases h

theorem wit_controlReads :
    st.party? bareWave.party = some bareParty ∧ st.launch? bareWave.launch = some bareLaunch ∧
    0x7FF ∉ [0x000, 0x001, 0x002, 0x010, 0x011, 0x012, 0x013, 0x014, 0x015, 0x016, 0x017, 0x018, 0x019, 0x01A, 0x01B, 0x020, 0x021, 0x022, 0x023,
      0x024, 0x030] := ⟨rfl, rfl, by decide⟩

/-- The state of a prefetch, its one cached page readable or not. -/
def stPref (r : Bool) : State := { st with cores := [(0, { Core.reset with tlb := [{ bareTlb with r := r }], running := some 0 })] }

theorem wit_prefetches :
    (stPref true).launch? bareWave.launch = some bareLaunch ∧ bareLaunch.active = true ∧ prefCount 0x40 0 = 1 ∧
    (stPref true).translateSx 0 0 bareLaunch 0x40 .read = .ok 0x40 0 ∧ isHbm 0x40 = true ∧ (stPref true).worldBlocks bareLaunch 0x40 0 = false ∧
    (stPref true).translateSx 0 0 bareLaunch 0x5000 .read = .miss ∧ (stPref false).translateSx 0 0 bareLaunch 0x40 .read = .fault causePerm := by
  refine ⟨?_, ?_, ?_, ?_, ?_, ?_, ?_, ?_⟩ <;> decide

/-- A LAUNCH of an earlier bundle, whose trailing wave has gone on. -/
def laterWave (kind : Nat) : Wave := { followWave kind with issued := 7, hold := .launch 0 0 0 0 3 true }

theorem wit_laterAnswer :
    (laterWave (fwdKind PortUnit.sy.code 3 0 3)).trails = true ∧ (laterWave (fwdKind PortUnit.sy.code 3 0 3)).hold = .launch 0 0 0 0 3 true ∧
    (laterWave (fwdKind PortUnit.sy.code 3 0 3)).fwd.find? (fun f => f.kind == fwdKind PortUnit.sy.code 3 0 3) =
      some { kind := fwdKind PortUnit.sy.code 3 0 3, seg := 0, mask := 1, vals := [9] } ∧ launchWave.follower = none := by
  refine ⟨?_, ?_, ?_, ?_⟩ <;> decide

/-- An SC atomic whose mark finds no place in a table, and has not been counted yet, or has. -/
def stFullTables (waits : List PubOf) : State :=
  { stScOf atScCmd with
    marks := [mark], tracts := [(0, { Tract.reset with sheetcap := 1, tractcap := 1, widecap := 1 })]
    cores := [(0, { Core.reset with running := some 0, pubWaits := waits })] }

theorem wit_pubWaits :
    nextSc (stFullTables []) 0 = some (cmdWave [atScCmd], atScCmd) ∧ atScCmd.st = .queued ∧ (stFullTables []).markRoom 6 0 = false ∧
    (stFullTables []).canStamp 6 = true ∧ PubOf.cmd atScCmd.id ∉ ((stFullTables []).core 0).pubWaits ∧
    PubOf.cmd atScCmd.id ∈ ((stFullTables [.cmd atScCmd.id]).core 0).pubWaits ∧ st.canStamp 6 = false := by
  refine ⟨?_, rfl, ?_, ?_, ?_, ?_, ?_⟩ <;> decide

/-- Every frame of a set has its mode. -/
def WholeSets (s : State) : Prop :=
  ∀ f, isHbm (f * 2 ^ 21) = true → s.placeMode (f * 2 ^ 21) ≤ 2 ∧ ∀ a, a ∈ frameSet f (s.placeMode (f * 2 ^ 21)) → s.placeMode a = s.placeMode (f * 2 ^ 21)

theorem wit_wholeSets : WholeSets State.reset := by
  have h : ∀ a, State.reset.placeMode a = 0 := fun a => by simp [State.placeMode, State.reset, Tab.getD, Tab.get?]
  exact fun f _ => ⟨by rw [h]; exact Nat.zero_le 2, fun a _ => by rw [h, h]⟩

/-- The frames of one 2 MiB of every stack under mode 2. -/
def stPlace : State := { st with placeModes := (List.range 16).map (fun k => (k * (Config.stackBytes / 2 ^ 21) + 7, 2)) }

theorem wit_placementModes :
    stPlace.placeMode (7 * 2 ^ 21) = 2 ∧ (5 * Config.stackBytes + 7 * 2 ^ 21 ∈ frameSet 7 2 ∧ 5 * Config.stackBytes + 7 * 2 ^ 21 ∉ frameSet 7 1) ∧
    3 * Config.stackBytes + 7 * 2 ^ 21 ∈ frameSet 7 1 ∧ (∀ a ∈ frameSet 7 2, stPlace.placeMode a = 2) := by decide

/-- A tract whose counters have been copied, and then cleared, in this cycle. -/
def snapped : Tract := { Tract.reset with snapAt := some 9, clearAt := some 9 }

theorem wit_counters :
    snapped.snapAt = some 9 ∧ snapped.clearAt = some 9 ∧ Tract.reset.snapAt ≠ some 9 ∧ Tract.reset.clearAt ≠ some 9 ∧ (13 : Nat) ≠ 14 ∧ 2 ^ 32 - 1 < 2 ^ 32 ∧
    st.placeMode 0x40 = 0 ∧ (639 : Nat) < 640 ∧ (640 : Nat) ≤ 0x3FF := by decide

/-- A record of the book: of an interface, or of none; of class 3, or of class 6, which only a secure partition is shown. -/
def fbOf (cls : Nat) (vi on : Option Nat) : FbEvent := { cls := cls, code := 1, addr := 0, detail := 0, vi := vi, core := some 3, on := on }

theorem wit_fieldBook :
    ((fbOf 3 (some 0) none).vi = some 0 ∧ (fbOf 3 (some 0) none).cls ∈ [1, 3, 5, 10]) ∧ ({ Vi.reset with secure := true } : Vi).secure = true ∧ (st.vi 0).secure = false ∧
    (fbOf 6 (some 0) (some 2)).on = some 2 ∧ ¬ (∃ v, (fbOf 3 none none).vi = some v) ∧ 0 < 256 ∧ (3 : Nat) < 4 ∧ (fbOf 3 none none).on = none := by
  refine ⟨⟨rfl, ?_⟩, ?_, ?_, rfl, ?_, ?_, ?_, rfl⟩
  · decide
  · decide
  · decide
  · rintro ⟨v, h⟩; cases h
  all_goals decide

/-- A header of the right length for the operands of its code, of another length, and with a byte that shall be zero. -/
theorem wit_requestForm (ops : List Byte) :
    ({ request 0x10 1 with len := 16 + ops.length + 29792 } : MgmtHdr).formOk ops = true ∧ ({ request 0x02 1 with len := 16 } : MgmtHdr).formOk [] = true ∧
    ({ request 0x02 1 with len := 17 } : MgmtHdr).formOk [] = false ∧ ({ request 0x02 1 with zero := 1 } : MgmtHdr).formOk [] = false ∧
    (request 0x05 1).code ∉ [0x01, 0x02, 0x03, 0x04, 0x10, 0x11, 0x12, 0x13, 0x14, 0x15] ∧
    ((request 0x11 1).code ∈ [0x01, 0x02, 0x03, 0x04, 0x10, 0x11, 0x12, 0x13, 0x14, 0x15] ∧ (request 0x11 1).code ≠ 0x10) := by
  refine ⟨?_, ?_, ?_, ?_, ?_, ?_⟩
  · simp [MgmtHdr.formOk, request, Config.sigBytes]
  all_goals decide

theorem wit_routes :
    (stRoute bareWave).usable 3 ≠ [] ∧ (Tab.getD (stRoute bareWave).routes 3 0).getLsbD (8 * 0 + 7) = true ∧ ((stRoute bareWave).port 0).st = .up ∧
    st.usable 4 = [] ∧ 4 ≠ st.fabric.pkgid ∧ 3 ≠ (stRoute bareWave).fabric.pkgid := by
  refine ⟨?_, ?_, ?_, ?_, ?_, ?_⟩ <;> decide

/-- A party of a context on another core's level, and the contexts of core 0: that of another partition, and its own. -/
def stNested (running : Option Nat) : State := { stSaved with saved := [{ ctx with vi := 5 }, ctx], cores := [(0, { Core.reset with running := running })] }

theorem wit_contexts :
    (stHalt bareWave).haltsWith 0 = [0] ∧ (∀ c ∈ (stHalt bareWave).haltsWith 0, ((stHalt bareWave).core c).haltAt.isSome = true ∧ (stHalt bareWave).coreQuiet c = true) ∧
    (∃ c ∈ (stHalt (cmdWave [stCmd])).haltsWith 0, ((stHalt (cmdWave [stCmd])).core c).haltAt = none ∨ (stHalt (cmdWave [stCmd])).coreQuiet c = false) ∧
    (∀ e ∈ (stHalt bareWave).coreParties 0, (stHalt bareWave).partnerCore e.1 e.2 = none) ∧
    (stNested (some 0)).saved = [{ ctx with vi := 5 }] ++ ctx :: [] ∧ (stNested (some 0)).mayResume { ctx with vi := 5 } = false ∧
    (stNested (some 0)).mayResume ctx = true ∧ (stNested (some 0)).alive ctx = true ∧ (stNested (some 0)).resumesWith ctx = [ctx] ∧
    (∀ p ∈ ctx.parties, (stNested (some 0)).otherTwin p = none) ∧ (∀ y ∈ (stNested (some 9)).saved, (stNested (some 9)).mayResume y = false) := by
  refine ⟨?_, ?_, ?_, ?_, rfl, ?_, ?_, ?_, ?_, ?_, ?_⟩ <;> decide +kernel

/-- The publication of a peer's submitter; one of another package, and one below a stamp that has been settled. -/
def peerPub (pkg : Nat) : PeerPacket := { words := [], pub := { pkg := pkg, core := 0, gran := 0, ben := 0, data := 0, kind := 0, stamp := some 4096, left := 0, hor := [], also := none } }

theorem wit_peerPackets :
    (peerPub 3).pub.stamp = some 4096 ∧ (peerPub 3).pub.pkg = 3 ∧ st.tooLate (peerPub 3).pub = false ∧ (peerPub 2).pub.pkg ≠ 3 ∧
    ({ st with fabric := { Fabric.reset with acqTop := 8192 } } : State).tooLate (peerPub 3).pub = true ∧ (3 < 4096 ∧ 4096 ≤ 4096) := by
  refine ⟨rfl, rfl, ?_, ?_, ?_, ?_⟩ <;> decide

/-- The argument block read under the acquire of stamp 5, and the refusal of the packet with what was read. -/
def argsRefusal (s : State) : Option Nat :=
  let x := s.queue 0
  let ws := s.packetAt x 0
  let a := s.astabEntry 0
  let n := min (pktArgn ws) 32
  refusal s x (x.origin 0) ws ((s.argBytes (x.acq.getD 0) x.vi a.2 (bits a.1.toNat 51 12 * 4096) (a.1.getLsbD 0) (pktArgs ws) (32 * n)).map (argEntries n))

/-- The same packet with an argument block beyond every page. -/
def stFar : State := { stArgs (some 5) with home := Mem.writeN (stArgs (some 5)).home 0x402D [0x20] }

theorem wit_headAcquired :
    ((stArgs (some 5)).queue 0).acq.isSome = true ∧ (stArgs (some 5)).launchAcquired 5 = true ∧ argsRefusal (stArgs (some 5)) = none ∧
    (argsRefusal stFar).isSome = true ∧ stFar.launchAcquired 5 = true ∧
    refusal stFar (stFar.queue 0) ((stFar.queue 0).origin 0) (stFar.packetAt (stFar.queue 0) 0) (some ([], true)) ≠ some 1 := by
  refine ⟨rfl, ?_, ?_, ?_, ?_, ?_⟩ <;> decide +kernel

/-- A launch whose arguments are for v2 and v7, with two routes, one of them measured; a record of carried registers; a party that keeps its scratchpad. -/
def argLaunch : Launch := { bareLaunch with args := [(2, 5), (7, 6)], func := { bareFunc with routes := [7, 9] }, routesT := [(0, 100)], timed := [(0, 1, 50)] }
def carriedOne : Waypoint := { header := 64, v := [(2, List.replicate 32 9)], s := [(5, 7)], a := [] }
def keepParty : Party := { bareParty with spkeep := true, waypoints := [(0, carriedOne)] }
def stPhase : State := { st with launches := [(0, argLaunch)], parties := [(0, keepParty)], waves := [] }

theorem wit_waveValues :
    (argLaunch.args.map (fun e => e.1)).Nodup ∧ (7, (6 : Lane)) ∈ argLaunch.args ∧ 7 < 96 ∧ (∀ x, (3, x) ∉ argLaunch.args) ∧
    (carriedOne.v.map (fun e => e.1)).Nodup ∧ (carriedOne.s.map (fun e => e.1)).Nodup ∧ (5, (7 : Word)) ∈ carriedOne.s ∧ (∀ u, (6, u) ∉ carriedOne.s) ∧
    bareLaunch.func.routes = [] ∧ argLaunch.func.routes[1]? = some 9 := by
  refine ⟨by decide, by decide, by decide, fun x h => ?_, by decide, by decide, by decide, fun u h => ?_, rfl, rfl⟩
  · simp [argLaunch] at h
  · simp [carriedOne] at h

theorem wit_phaseStart :
    stPhase.party? 0 = some keepParty ∧ stPhase.launch? keepParty.launch = some argLaunch ∧ bareParty.spkeep = false ∧ Mem.wf (stPhase.core 0).sram = true ∧
    (31, 31) ∈ bareParty.banks ∧ (phaseWaves argLaunch keepParty).zip (stPhase.freeSlots 0) ≠ [] ∧ (0, carriedOne) ∈ keepParty.waypoints ∧
    (1 < argLaunch.func.routes.length ∧ argLaunch.func.routes.length ≤ 4) ∧ Tab.get? argLaunch.routesT 1 = none ∧
    (∀ k, k < argLaunch.func.routes.length → (Tab.get? ({ argLaunch with routesT := [(0, 9), (1, 9)] } : Launch).routesT k).isSome = true) ∧
    argLaunch.timed = [(0, 1, 50)] ∧ bareLaunch.timed = [] := by
  refine ⟨rfl, rfl, rfl, ?_, ?_, ?_, ?_, ?_, ?_, ?_, rfl, rfl⟩ <;> decide +kernel

/-- The record that the phase reads back, and a mark that its acquire replays. -/
theorem wit_readBack :
    ({ stQueue 1 with launches := [(0, bareLaunch)] } : State).readGpa 0 0x4000 8 = some [1, 0, 0, 0, 0, 0, 0, 0] ∧
    (({ stMark { mark with scope := 5, stands := true } 8 with cycle := 1024 } : State).toReplay 0 5 (1024 * 1024) none).map (fun m => m.id) = [3] := by
  refine ⟨?_, ?_⟩ <;> decide +kernel

/-- ZONEINIT of a zone that is open, with a reserved plot. -/
def stReinit : State :=
  { stZone (zone .reserved 1 0) with parties := [(0, { bareParty with sxq := [{ cmd (.sx .zoneinit 0) with a := [0], b := [0x80] }] })] }

theorem wit_zoneinit :
    ((stReinit.core 0).zone 0).isOpen = true ∧ ((stReinit.core 0).zone 0).granted = some 0 ∧ (stReinit.core 0).sends.filter (fun x => x.zone == 0) = [] ∧
    (List.range (((stReinit.core 0).zone 0).plotsm1 + 1)).filter (fun q => (((stReinit.core 0).zone 0).plot q).st == .reserved) = [0] ∧
    (startHead stReinit 0).isSome = true ∧ (0x80 : Nat).testBit 7 = true ∧ (0 : Nat).testBit 7 = false := by
  refine ⟨rfl, rfl, ?_, ?_, ?_, ?_, ?_⟩ <;> decide +kernel

end Sys2Proof
end

section
/-!
SUPPORT. Elements of a lane: an element is below 2^w, and reads back from a packed lane (R47); an integer modulo 2^w.
-/
namespace Sys2Proof.Machine

theorem elem_eq (w : Nat) (x : Lane) (i : Nat) : elem w x i = x.toNat / 2 ^ (w * i) % 2 ^ w := by
  rw [elem, Nat.shiftRight_eq_div_pow]

theorem elem_lt (w : Nat) (x : Lane) (i : Nat) : elem w x i < 2 ^ w :=
  Nat.mod_lt _ (Nat.two_pow_pos w)

/-- The digits of `packNat` in base 2^w are the packed elements; beyond the list they are zero. -/
theorem packNat_div_mod (w : Nat) (es : List Nat) (i : Nat) : packNat w es / 2 ^ (w * i) % 2 ^ w = es.getD i 0 % 2 ^ w := by
  induction es generalizing i with
  | nil => rw [packNat, Nat.zero_div, List.getD_nil]
  | cons e t ih =>
    cases i with
    | zero => rw [packNat, Nat.mul_zero, Nat.pow_zero, Nat.div_one, Nat.add_mul_mod_self_left, Nat.mod_mod, List.getD_cons_zero]
    | succ i =>
      have hshift : packNat w (e :: t) / 2 ^ (w * (i + 1)) = packNat w t / 2 ^ (w * i) := by
        rw [packNat, Nat.mul_succ, Nat.add_comm (w * i) w, Nat.pow_add, ← Nat.div_div_eq_div_mul,
          Nat.add_mul_div_left _ _ (Nat.two_pow_pos w), Nat.div_eq_of_lt (Nat.mod_lt _ (Nat.two_pow_pos w)), Nat.zero_add]
      rw [hshift, ih, List.getD_cons_succ]

/-- An element that lies within the 128 bits of a lane does not see the cut to 128 bits. -/
theorem elem_ofNat {w i : Nat} (n : Nat) (h : w * i + w ≤ 128) : elem w (BitVec.ofNat 128 n) i = n / 2 ^ (w * i) % 2 ^ w := by
  have hsplit : 2 ^ 128 = 2 ^ (w * i) * 2 ^ (128 - w * i) := by rw [← Nat.pow_add]; congr 1; omega
  rw [elem_eq, BitVec.toNat_ofNat, hsplit, Nat.mod_mul_right_div_self, Nat.mod_mod_of_dvd _ (Nat.pow_dvd_pow 2 (by omega))]

theorem elem_mapElems {w i : Nat} (f : Nat → Nat) (h : i < 128 / w) : elem w (mapElems w f) i = f i % 2 ^ w := by
  have hfit : w * i + w ≤ 128 := by
    calc w * i + w = w * (i + 1) := (Nat.mul_succ w i).symm
      _ ≤ w * (128 / w) := Nat.mul_le_mul_left w h
      _ ≤ 128 := Nat.mul_div_le 128 w
  have hget : ((List.range (128 / w)).map f).getD i 0 = f i := by
    rw [List.getD_eq_getElem?_getD, List.getElem?_map, List.getElem?_range h, Option.map_some, Option.getD_some]
  rw [mapElems, packLane, elem_ofNat _ hfit, packNat_div_mod, hget]

theorem natCast_two_pow_pos (w : Nat) : (0 : Int) < ((2 ^ w : Nat) : Int) :=
  Int.ofNat_lt.mpr (Nat.two_pow_pos w)

/-- An integer modulo 2^w, read back as an integer. -/
theorem natCast_wrap (w : Nat) (x : Int) : ((wrap w x : Nat) : Int) = x % ((2 ^ w : Nat) : Int) :=
  Int.toNat_of_nonneg (Int.emod_nonneg x (Int.ne_of_gt (natCast_two_pow_pos w)))

theorem wrap_lt (w : Nat) (x : Int) : wrap w x < 2 ^ w := by
  rw [← Int.ofNat_lt, natCast_wrap]
  exact Int.emod_lt_of_pos x (natCast_two_pow_pos w)

end Sys2Proof.Machine
end

section
/-!
CERTIFICATE. The carry chain of IA (R115): under an unsigned type ADC and SBB return the word, under a signed type the carry and the borrow.
-/
namespace Sys2Proof.Machine

theorem iaElem_adc_unsigned {u : ETy} (h : ETy.signed u = false) (a b c : Nat) :
    iaElem .adc u a b c = adcSum a b c % 2 ^ ETy.width u := by simp [iaElem, h]

theorem iaElem_adc_signed {v : ETy} (h : ETy.signed v = true) (a b c : Nat) :
    iaElem .adc v a b c = adcCarry (ETy.width v) a b c := by simp [iaElem, h]

theorem iaElem_sbb_unsigned {u : ETy} (h : ETy.signed u = false) (a b c : Nat) :
    iaElem .sbb u a b c = wrap (ETy.width u) (sbbDiff a b c) := by simp [iaElem, h]

theorem iaElem_sbb_signed {v : ETy} (h : ETy.signed v = true) (a b c : Nat) :
    iaElem .sbb v a b c = sbbBorrow a b c := by simp [iaElem, h]

theorem adcCarry_le_one (w a b c : Nat) : adcCarry w a b c ≤ 1 := by
  unfold adcCarry; split <;> decide

theorem sbbBorrow_le_one (a b c : Nat) : sbbBorrow a b c ≤ 1 := by
  unfold sbbBorrow; split <;> decide

/-- The sum of two w-bit words and a carry is below 2 · 2^w, so the carry out is its quotient by 2^w. -/
theorem adcCarry_eq_div {w a b : Nat} (ha : a < 2 ^ w) (hb : b < 2 ^ w) (c : Nat) : adcCarry w a b c = adcSum a b c / 2 ^ w := by
  have hsum : adcSum a b c < 2 * 2 ^ w := by unfold adcSum; omega
  unfold adcCarry
  split
  case isTrue hge => exact (Nat.div_eq_of_lt_le (by omega) (by omega)).symm
  case isFalse hlt => exact (Nat.div_eq_of_lt (by omega)).symm

theorem adcSum_mod_add_carry {w a b : Nat} (ha : a < 2 ^ w) (hb : b < 2 ^ w) (c : Nat) :
    adcSum a b c % 2 ^ w + 2 ^ w * adcCarry w a b c = adcSum a b c := by
  rw [adcCarry_eq_div ha hb, Nat.mod_add_div]

/-- The difference lies from -2^w up to 2^w - 1, so taking the borrow back from its low w bits gives it exactly. -/
theorem wrap_sbbDiff_sub_borrow {w a b : Nat} (ha : a < 2 ^ w) (hb : b < 2 ^ w) (c : Nat) :
    ((wrap w (sbbDiff a b c) : Nat) : Int) - ((2 ^ w * sbbBorrow a b c : Nat) : Int) = sbbDiff a b c := by
  have hlo : -((2 ^ w : Nat) : Int) ≤ sbbDiff a b c := by unfold sbbDiff; omega
  have hhi : sbbDiff a b c < ((2 ^ w : Nat) : Int) := by unfold sbbDiff; omega
  rw [natCast_wrap]
  unfold sbbBorrow
  split
  case isTrue hneg =>
    have hmod : sbbDiff a b c % ((2 ^ w : Nat) : Int) = sbbDiff a b c + ((2 ^ w : Nat) : Int) := by
      rw [← Int.add_emod_right]
      exact Int.emod_eq_of_lt (by omega) (by omega)
    rw [hmod, Nat.mul_one, Int.add_sub_cancel]
  case isFalse hpos => rw [Int.emod_eq_of_lt (by omega) hhi, Nat.mul_zero, Int.ofNat_zero, Int.sub_zero]

/-- Settles O9: the word and the carry of two words below 2^w make up their sum, and the word less the borrow their difference. -/
theorem carryChain : Obligations.CarryChain := by
  intro u v a b c hu hv hw ha hb
  rw [iaElem_adc_unsigned hu, iaElem_adc_signed hv, iaElem_sbb_unsigned hu, iaElem_sbb_signed hv, ← hw]
  exact ⟨adcSum_mod_add_carry ha hb c, wrap_sbbDiff_sub_borrow ha hb c, Nat.mod_lt _ (Nat.two_pow_pos _), wrap_lt _ _,
    adcCarry_le_one _ _ _ _, sbbBorrow_le_one _ _ _⟩

end Sys2Proof.Machine
end

section
/-!
CERTIFICATE. PERM of SH (R121): the bytes of the pair B, A, its low 16 from A.
-/
namespace Sys2Proof.Machine

theorem pair_byte_low {j : Nat} (h : j < 16) (a b : Lane) :
    (b.toNat * 2 ^ 128 + a.toNat) / 2 ^ (8 * j) % 2 ^ 8 = elem 8 a j := by
  have hcut : BitVec.ofNat 128 (b.toNat * 2 ^ 128 + a.toNat) = a :=
    BitVec.eq_of_toNat_eq (by rw [BitVec.toNat_ofNat, Nat.mul_add_mod_self_right, Nat.mod_eq_of_lt a.isLt])
  rw [← elem_ofNat _ (by omega), hcut]

theorem pair_byte_high {j : Nat} (h : 16 ≤ j) (a b : Lane) :
    (b.toNat * 2 ^ 128 + a.toNat) / 2 ^ (8 * j) % 2 ^ 8 = elem 8 b (j - 16) := by
  have hsplit : 2 ^ (8 * j) = 2 ^ 128 * 2 ^ (8 * (j - 16)) := by rw [← Nat.pow_add]; congr 1; omega
  have hcut : (b.toNat * 2 ^ 128 + a.toNat) / 2 ^ 128 = b.toNat := by
    rw [Nat.add_comm, Nat.add_mul_div_right _ _ (Nat.two_pow_pos 128), Nat.div_eq_of_lt a.isLt, Nat.zero_add]
  rw [elem_eq, hsplit, ← Nat.div_div_eq_div_mul, hcut]

/-- Bit 7 of a byte is set when the byte is 128 or more. -/
theorem testBit_seven_of_lt {x : Nat} (h : x < 2 ^ 8) : x.testBit 7 = decide (128 ≤ x) := by
  rw [Nat.testBit_eq_decide_div_mod_eq]
  exact decide_eq_decide.mpr (by omega)

theorem permByte_eq (a b c : Lane) (k : Nat) :
    permByte a b c k = if (elem 8 c k).testBit 7 = true then 0
      else (b.toNat * 2 ^ 128 + a.toNat) / 2 ^ (8 * (elem 8 c k % 32)) % 2 ^ 8 := by
  have hbit : ((elem 8 c k).testBit 7 = true) = (elem 8 c k ≥ 128) := by rw [testBit_seven_of_lt (elem_lt 8 c k), decide_eq_true_eq]
  simp only [permByte, hbit]
  split
  case isTrue => rfl
  case isFalse =>
    split
    case isTrue hlow => exact (pair_byte_low hlow a b).symm
    case isFalse hhigh => exact (pair_byte_high (Nat.le_of_not_lt hhigh) a b).symm

theorem permByte_lt (a b c : Lane) (k : Nat) : permByte a b c k < 2 ^ 8 := by
  rw [permByte_eq]
  split
  · decide
  · exact Nat.mod_lt _ (by decide)

/-- Settles O10: byte k of the packed lane is `permByte`, which names the byte of the pair. -/
theorem bytePermute : Obligations.BytePermute := by
  intro ty a b c k hk
  have hbyte : elem 8 (shLane .perm ty a b c) k = permByte a b c k := by
    rw [shLane, elem_mapElems _ hk, Nat.mod_eq_of_lt (permByte_lt a b c k)]
  rw [hbyte]
  exact permByte_eq a b c k

end Sys2Proof.Machine
end

section
/-!
SUPPORT. The least element of a list under a measure, and the parties of a launch that have not ended.
-/
namespace Sys2Proof.Machine

theorem leastBy_eq_none {α : Type} {f : α → Nat} {l : List α} (h : leastBy f l = none) : l = [] := by
  cases l with
  | nil => rfl
  | cons x t =>
    rw [leastBy] at h
    split at h
    · split at h <;> cases h
    · cases h

/-- What `leastBy` answers stands in the list, and nothing in the list lies below it. -/
theorem leastBy_spec {α : Type} {f : α → Nat} {l : List α} {a : α} (h : leastBy f l = some a) : a ∈ l ∧ ∀ b ∈ l, f a ≤ f b := by
  induction l generalizing a with
  | nil => cases h
  | cons x t ih =>
    rw [leastBy] at h
    cases ht : leastBy f t with
    | none =>
      obtain rfl : x = a := by simpa [ht] using h
      simp [leastBy_eq_none ht]
    | some b =>
      obtain ⟨hb, hmin⟩ := ih ht
      simp only [ht] at h
      split at h
      case isTrue hlt =>
        obtain rfl := Option.some.inj h
        exact ⟨List.mem_cons_of_mem _ hb, List.forall_mem_cons.mpr ⟨Nat.le_of_lt hlt, hmin⟩⟩
      case isFalse hge =>
        obtain rfl := Option.some.inj h
        exact ⟨List.mem_cons_self, List.forall_mem_cons.mpr
          ⟨Nat.le_refl _, fun c hc => Nat.le_trans (Nat.le_of_not_lt hge) (hmin c hc)⟩⟩

@[simp] theorem mem_liveParties {s : State} {n : Nat} {e : Nat × Party} :
    e ∈ s.liveParties n ↔ e ∈ s.parties ∧ e.2.launch = n ∧ e.2.ended = false ∧ e.2.lead = true := by
  simp [State.liveParties, and_assoc]

end Sys2Proof.Machine
end

section
/-!
CERTIFICATE. Tasks (R304 to R307): which tasks are released, which party takes the next, and that a mask with a bit outside 14:0 is refused.
-/
namespace Sys2Proof.Machine

/-! The party that takes the next task (R306, R307). -/

theorem nextWaiting_spec {s : State} {n p : Nat} (h : s.nextWaiting n = some p) :
    ∃ q : Party, (p, q) ∈ s.parties ∧ q.launch = n ∧ q.ended = false ∧ q.waiting = true ∧ q.waitSince < s.cycle ∧
      ∀ e ∈ s.parties, e.2.launch = n → e.2.ended = false → e.2.lead = true → e.2.waiting = true → e.2.waitSince < s.cycle →
        q.waitSince * 1024 + q.core ≤ e.2.waitSince * 1024 + e.2.core := by
  obtain ⟨⟨p, q⟩, hleast, rfl⟩ := Option.map_eq_some_iff.mp h
  obtain ⟨hmem, hmin⟩ := leastBy_spec hleast
  simp only [List.mem_filter, mem_liveParties, Bool.and_eq_true, decide_eq_true_eq] at hmem hmin
  obtain ⟨⟨hq, hlaunch, hended, -⟩, hwaiting, hsince⟩ := hmem
  exact ⟨q, hq, hlaunch, hended, hwaiting, hsince,
    fun e he hl hend hlead hwait hlt => hmin e ⟨⟨he, hl, hend, hlead⟩, hwait, hlt⟩⟩

/-! TASK_ASSIGN (R306). -/

theorem exec_taskAssign (s : State) (n : Nat) : exec (.taskAssign n) s = .next (assignTask s n) := rfl

/-- Whether a party leads a twin pair does not depend on the tasks of its launch. -/
theorem twinParty_modLaunch {f : Launch → Launch} (hf : ∀ l, (f l).twin = l.twin) (s : State) (n p : Nat) :
    (s.modLaunch n f).twinParty p = s.twinParty p := by
  rw [State.twinParty, State.twinParty, State.party?_modLaunch]
  cases s.party? p with
  | none => rfl
  | some q =>
    by_cases hq : q.launch = n
    · subst hq
      cases h : s.launch? q.launch <;> simp [h, hf]
    · simp [hq]

theorem modPair_of_not_twin {s : State} {p : Nat} (h : s.twinParty p = none) (f : Party → Party) : s.modPair p f = s.modParty p f := by
  rw [State.modPair, h]

/-- Without an active launch, a released task or a party that waits, nothing is assigned. -/
theorem assignTask_idle {s : State} {n : Nat} {l : Launch} (hl : s.launch? n = some l)
    (h : l.active = false ∨ l.released = [] ∨ s.nextWaiting n = none) : assignTask s n = s := by
  rcases h with h | h | h <;> simp [assignTask, hl, h]

theorem assignTask_of_waiting {s : State} {n p x y : Nat} {l : Launch} {rest : List (Nat × Nat)} (hl : s.launch? n = some l)
    (hactive : l.active = true) (hreleased : l.released = (x, y) :: rest) (hp : s.nextWaiting n = some p) (htwin : s.twinParty p = none) :
    assignTask s n = (s.modLaunch n (fun l => { l with released := rest, assigned := l.assigned ++ [(x, y)] })).modParty p
      (fun q => { q with waiting := false, taskx := x, tasky := y, firstBundle := none }) := by
  simp only [assignTask, hl, hactive, hreleased, hp]
  refine modPair_of_not_twin ?_ _
  rwa [twinParty_modLaunch]
  exact fun _ => rfl

/-! The release of tasks (R304, R307). -/

theorem mem_tasks {l : Launch} {x y : Nat} : (x, y) ∈ l.tasks ↔ x < l.xs ∧ y < l.ys := by
  rw [Launch.tasks, List.mem_flatMap]
  constructor
  · rintro ⟨v, hv, hmem⟩
    obtain ⟨u, hu, heq⟩ := List.mem_map.mp hmem
    cases heq
    exact ⟨List.mem_range.mp hu, List.mem_range.mp hv⟩
  · rintro ⟨hx, hy⟩
    exact ⟨y, List.mem_range.mpr hy, List.mem_map.mpr ⟨x, List.mem_range.mpr hx, rfl⟩⟩

theorem mem_released_release {l : Launch} {x y : Nat} : (x, y) ∈ l.release.released ↔
    (x, y) ∈ l.released ∨ (x < l.xs ∧ y < l.ys ∧ (x, y) ∉ l.assigned ∧ l.taskFree x y = true) := by
  by_cases hold : (x, y) ∈ l.released <;> simp [Launch.release, mem_tasks, hold, and_assoc]

/-- The model's test of one offset, in integers, says that the task there has retired if it is one of the grid's. -/
theorem outside_or_retired_iff (l : Launch) (x y i j : Nat) :
    (let px : Int := (x : Int) + (i : Nat) - 3
     let py : Int := (y : Int) + (j : Nat) - 3
     px < 0 ∨ py < 0 ∨ (l.xs : Int) ≤ px ∨ (l.ys : Int) ≤ py ∨ (px.toNat, py.toNat) ∈ l.retired) ↔
    ∀ px py : Nat, px + 3 = x + i → py + 3 = y + j → px < l.xs → py < l.ys → (px, py) ∈ l.retired := by
  dsimp only
  constructor
  · intro h px py hx hy hxs hys
    have hpx : ((x : Int) + i - 3).toNat = px := by omega
    have hpy : ((y : Int) + j - 3).toNat = py := by omega
    rw [hpx, hpy] at h
    rcases h with h | h | h | h | hret
    · omega
    · omega
    · omega
    · omega
    · exact hret
  · intro h
    by_cases hin : 3 ≤ x + i ∧ 3 ≤ y + j ∧ x + i < l.xs + 3 ∧ y + j < l.ys + 3
    · have hret := h ((x : Int) + i - 3).toNat ((y : Int) + j - 3).toNat (by omega) (by omega) (by omega) (by omega)
      exact .inr (.inr (.inr (.inr hret)))
    · omega

theorem taskFree_iff (l : Launch) (x y : Nat) : l.taskFree x y = true ↔ ∀ k, k < 15 → l.stencil.testBit k = true →
    ∀ px py : Nat, px + 3 = x + k % 4 → py + 3 = y + k / 4 → px < l.xs → py < l.ys → (px, py) ∈ l.retired := by
  simp only [Launch.taskFree, List.all_eq_true, List.mem_range, ← outside_or_retired_iff, Bool.or_eq_true, Bool.not_eq_true',
    decide_eq_true_eq, List.contains_iff_mem, or_assoc]
  refine forall₂_congr fun k _ => ?_
  cases l.stencil.testBit k <;> simp

/-! The refusal of a mask with a bit outside 14:0 (Table 14.5, reason 8). -/

theorem isSome_ite_of_else {c : Prop} [Decidable c] {r : Nat} {o : Option Nat} (h : o.isSome = true) :
    (if c then some r else o).isSome = true := by
  split
  · rfl
  · exact h

/-- Every check that comes before that of the mask refuses the packet too. -/
theorem refusal_of_stencil_bit {ws : List Word} (h : (pktWord ws 2).testBit 39 = true) (s : State) (q : WQueue) (o : Origin)
    (args : Option (List (Nat × Lane) × Bool)) : (refusal s q o ws args).isSome = true := by
  unfold refusal
  iterate 4 refine isSome_ite_of_else ?_
  cases s.packetFunc q.vi ws with
  | none => rfl
  | some e =>
    iterate 3 refine isSome_ite_of_else ?_
    rw [if_pos h]
    rfl

/-- Settles O43: the assignment's cases, the least of those that wait, the released tasks, the stencil and the mask, each by its lemma. -/
theorem taskRelease : Obligations.TaskRelease := by
  refine ⟨?_, fun _ _ _ => nextWaiting_spec, ?_, fun _ _ _ => mem_released_release, taskFree_iff,
    fun s q o ws args h => refusal_of_stencil_bit h s q o args⟩
  · intro s n l x y rest p hl hactive hreleased hp htwin
    rw [exec_taskAssign, assignTask_of_waiting hl hactive hreleased hp htwin]
  · intro s n l hl h
    rw [exec_taskAssign, assignTask_idle hl h]

end Sys2Proof.Machine
end
